-- ==== Sys2Proof/Word.lean ====
section
/-! DEFINITION. Word.lean: the register types of R16 and the plainest word types (R4). -/

namespace Sys2Proof

/-- One byte. -/
abbrev Byte := BitVec 8

/-- An s register, a control register, an address. -/
abbrev Word64 := BitVec 64

/-- A v register (R16): 1,024 bits. -/
abbrev VReg := BitVec 1024

/-- A p register (R16): one bit for each byte lane. -/
abbrev PReg := BitVec 128

/-- A shape register (R16, R207): a 64-byte record. -/
abbrev HReg := BitVec 512

end Sys2Proof
end

