-- ==== Sys2Proof/Config.lean ====
section
/-! DEFINITION. Config.lean: what the spec leaves to the implementation or leaves open. Every constant is opaque: no proof can
see a value, so a theorem holds whatever the values are. Most are applied to State.fresh, a counter that each use advances
(log 7). -/

namespace Sys2Proof.Config

/-- A byte that a read of another module's memory returns (R24, R93; log 9). -/
opaque remoteByte : Nat → Byte

/-- A 64-bit value that the spec leaves open, by draw and by field (log 7). -/
opaque freeField : Nat → Nat → Word64

/-- Sixteen bits of a memory controller's generator (R83, R149; log 11). -/
opaque randomBits : Nat → BitVec 16

/-- How many times in a row a copy's chunk fails its check at the destination (R222; log 11). -/
opaque crcFails : Nat → Nat

/-- The messages beside one that the queue of a die's task scheduler holds (R154; log 31). -/
opaque schedRoom : Nat → Nat

/-- A byte of a port entry in the spill area (R333, which gives no layout; log 15). -/
opaque spillByte : Nat → Nat → Byte

/-- The cycles a step takes (log 6). -/
opaque stepCycles : Nat → Nat

/-- The entry a full instruction store, record cache or TLB replaces (R42, R214, R328; log 8). -/
opaque victim : Nat → Nat

/-- The cores the region scheduler gives a region: an order of preference (R35; log 13). -/
opaque placement : Nat → Nat

/-- The die power bits that the firmware sets at READY from its configuration section, the reserve die's apart (R353;
log 13). -/
opaque diePower : Nat → Bool

/-- A die's self-test passes at a boot (R340; log 13). -/
opaque selfTest : Nat → Bool

/-- The logical die that ident names on a physical die to which the table maps none (R46; log 24). -/
opaque unmappedDie : Nat → BitVec 15

/-- The byte that stands for a context state in a CTXSTATE entry (R351, which gives no code; log 12). -/
opaque stateCode : Nat → Byte

/-- The object hash and portable offset of a native code address of an address space, as Virod's map has it (R334, R335; log 21). -/
opaque portable : Nat → Word64 → Option (Word64 × Word64)

/-- The native address of the bundle of an object's mark move, by hash and portable offset (R335; log 21). -/
opaque native : Word64 → Word64 → Option Word64

/-- The module serial number (R342; log 12). -/
opaque serial : Word64

/-- The identity public key, as the report's bytes (R342; log 12). -/
opaque publicKey : BitVec 512

/-- The signature over the first 384 bytes of a report (R342; log 12). -/
opaque signature : BitVec 3072 → BitVec 512

end Sys2Proof.Config
end

