-- ==== Sys2Proof/Machine/Bits.lean ====
section
/-! DEFINITION. Machine/Bits.lean: bit fields of natural numbers, sign extension and little-endian bytes (R4), used by the
decoder and by every operation of the machine. -/

namespace Sys2Proof.Machine

/-- Bits [hi:lo] of a natural number. -/
def fld (w hi lo : Nat) : Nat := w / 2 ^ lo % 2 ^ (hi + 1 - lo)

/-- Bit `n` of a natural number. -/
def bitAt (w n : Nat) : Bool := w / 2 ^ n % 2 == 1

/-- The signed value of the low `n` bits of a natural number, in two's complement. -/
def sgn (n w : Nat) : Int :=
  let u := w % 2 ^ n
  if u * 2 < 2 ^ n then (u : Int) else (u : Int) - (2 ^ n : Nat)

/-- The low `n` bits of an integer, in two's complement. -/
def wrapN (n : Nat) (i : Int) : Nat := (i % ((2 ^ n : Nat) : Int)).toNat

/-- A 64-bit word from an integer, modulo 2^64. -/
def w64 (i : Int) : Word64 := BitVec.ofNat 64 (wrapN 64 i)

/-- A 64-bit word from a natural number, modulo 2^64. -/
def n64 (n : Nat) : Word64 := BitVec.ofNat 64 n

/-- 1 for true, 0 for false. -/
def b2n (b : Bool) : Nat := if b then 1 else 0

/-- The `n` bytes of a natural number, lowest first (R4). -/
def toBytes : Nat → Nat → List Byte
  | 0, _ => []
  | n + 1, w => BitVec.ofNat 8 w :: toBytes n (w / 256)

/-- The natural number that bytes hold, lowest first (R4). -/
def ofBytes : List Byte → Nat
  | [] => 0
  | b :: bs => b.toNat + 256 * ofBytes bs

/-- The numbers 0 to n - 1 in order. -/
def upTo (n : Nat) : List Nat := List.range n


end Sys2Proof.Machine
end

