-- ==== Sys2Proof/Syntax.lean ====
section
/-! DEFINITION. Syntax.lean: the instructions of the Dreuc D8, one constructor for each row of the opcode table, with the
operand fields of spec/07 (R111 to R132) and of the instruction chapters (spec/08 to spec/13). Register numbers, immediates
and option bits are fields; bits that the spec requires to be zero are not kept. The last 72 constructors are the events of
the opcode table: steps that the machine's other agents or the host take, which have no encoding. -/

namespace Sys2Proof

/-- Register-register form of format S (R116, R136). -/
structure RR where
  sk : Bool
  d : BitVec 6
  a : BitVec 6
  b : BitVec 6
  wa : Bool
  wb : Bool
deriving DecidableEq, Repr

/-- Single-operand register form: CLZ, CTZ, POPC, MOV (R139). -/
structure RU where
  sk : Bool
  d : BitVec 6
  a : BitVec 6
  wa : Bool
deriving DecidableEq, Repr

/-- Immediate form of format S (R116, R138); imm is the extension word's [30:0]. -/
structure RI where
  sk : Bool
  d : BitVec 6
  a : BitVec 6
  wa : Bool
  imm : BitVec 31
deriving DecidableEq, Repr

/-- BFX (R139); wm1 is width - 1. -/
structure Bfx where
  sk : Bool
  d : BitVec 6
  a : BitVec 6
  wa : Bool
  wm1 : BitVec 6
  pos : BitVec 6
deriving DecidableEq, Repr

/-- BFI (R139); wd is the W bit of d, which BFI reads. -/
structure Bfi where
  sk : Bool
  d : BitVec 6
  a : BitVec 6
  wa : Bool
  wd : Bool
  wm1 : BitVec 6
  pos : BitVec 6
deriving DecidableEq, Repr

/-- CSEL d, a, b, c (R140). -/
structure Csel where
  sk : Bool
  d : BitVec 6
  a : BitVec 6
  b : BitVec 6
  wa : Bool
  wb : Bool
  wc : Bool
  c : BitVec 6
deriving DecidableEq, Repr

/-- LI (R141); i31 is bit 31 of the immediate, imm its bits [30:0]. -/
structure Li where
  sk : Bool
  d : BitVec 6
  i31 : Bool
  imm : BitVec 31
deriving DecidableEq, Repr

/-- LIH (R141). -/
structure Lih where
  sk : Bool
  d : BitVec 6
  a : BitVec 6
  wa : Bool
  i31 : Bool
  imm : BitVec 31
deriving DecidableEq, Repr

/-- LA (R141); m is the mode bit M. -/
structure La where
  sk : Bool
  d : BitVec 6
  m : Bool
  i31 : Bool
  imm : BitVec 31
deriving DecidableEq, Repr

/-- BR (R142); dis is D, off the signed offset in words. -/
structure Br where
  dis : Bool
  off : BitVec 31
deriving DecidableEq, Repr

/-- CALL (R142); d is the link register. -/
structure Call where
  d : BitVec 6
  dis : Bool
  off : BitVec 31
deriving DecidableEq, Repr

/-- BC.cc (R142). -/
structure Bc where
  a : BitVec 6
  b : BitVec 6
  wa : Bool
  wb : Bool
  off : BitVec 31
deriving DecidableEq, Repr

/-- JR and RET (R143). -/
structure Jr where
  a : BitVec 6
  wa : Bool
deriving DecidableEq, Repr

/-- CALLR (R143). -/
structure Callr where
  d : BitVec 6
  a : BitVec 6
  wa : Bool
deriving DecidableEq, Repr

/-- Scalar load (R116, R144). -/
structure Ld where
  sk : Bool
  d : BitVec 6
  a : BitVec 6
  cls : BitVec 3
  ord : BitVec 2
  wa : Bool
  disp : BitVec 15
  stride : BitVec 13
  scope : BitVec 3
deriving DecidableEq, Repr

/-- Scalar store (R116, R144); d is the data source and wd its W bit. -/
structure St where
  sk : Bool
  d : BitVec 6
  a : BitVec 6
  cls : BitVec 3
  ord : BitVec 2
  wa : Bool
  wd : Bool
  disp : BitVec 15
  stride : BitVec 13
  scope : BitVec 3
deriving DecidableEq, Repr

/-- Atomic without an option bit (R146): ATOP, ATSWP, ATADDS. -/
structure At where
  sk : Bool
  d : BitVec 6
  a : BitVec 6
  cls : BitVec 3
  ord : BitVec 2
  wa : Bool
  wd : Bool
  disp : BitVec 15
  stride : BitVec 13
  scope : BitVec 3
deriving DecidableEq, Repr

/-- Atomic with the option bit b[2] (R146): F of ATCAS, SR of ATFADD. -/
structure Ato where
  sk : Bool
  d : BitVec 6
  a : BitVec 6
  cls : BitVec 3
  ord : BitVec 2
  opt : Bool
  wa : Bool
  wd : Bool
  disp : BitVec 15
  stride : BitVec 13
  scope : BitVec 3
deriving DecidableEq, Repr

/-- FENCE.kind scope (R151). -/
structure Fence where
  scope : BitVec 3
  kind : BitVec 2
deriving DecidableEq, Repr

/-- WAITM d, [a + disp], b (R152). -/
structure Waitm where
  d : BitVec 6
  a : BitVec 6
  b : BitVec 6
  wa : Bool
  wb : Bool
  disp : BitVec 15
  cls : BitVec 3
deriving DecidableEq, Repr

/-- BARRIVE (R153); e is the error mark E. -/
structure Barrive where
  e : Bool
  a : BitVec 6
  b : BitVec 6
  wa : Bool
  wb : Bool
deriving DecidableEq, Repr

/-- BEXPECT (R153). -/
structure Bexpect where
  a : BitVec 6
  b : BitVec 6
  wa : Bool
  wb : Bool
deriving DecidableEq, Repr

/-- BWAIT and BTEST (R153). -/
structure Bwait where
  d : BitVec 6
  a : BitVec 6
  b : BitVec 6
  wa : Bool
  wb : Bool
deriving DecidableEq, Repr

/-- Extension word of a barrier form (R153): the byte displacement. -/
structure BarX where
  disp : BitVec 15
deriving DecidableEq, Repr

/-- TKGET (R154). -/
structure Tkget where
  d : BitVec 6
deriving DecidableEq, Repr

/-- TKPOST (R154). -/
structure Tkpost where
  a : BitVec 6
  wa : Bool
deriving DecidableEq, Repr

/-- TKDONE (R154). -/
structure Tkdone where
  a : BitVec 6
  b : BitVec 6
  wa : Bool
  wb : Bool
deriving DecidableEq, Repr

/-- Extension word of TRAP (R155). -/
structure TrapX where
  imm : BitVec 31
deriving DecidableEq, Repr

/-- CRD d, cr (R157). -/
structure Crd where
  d : BitVec 6
  cr : BitVec 6
deriving DecidableEq, Repr

/-- CWR cr, a (R157). -/
structure Cwr where
  cr : BitVec 6
  a : BitVec 6
  wa : Bool
deriving DecidableEq, Repr

/-- Format V (R117), majors 0x5 and 0x6; w is the lane width code. -/
structure VF where
  sk : Bool
  w : BitVec 2
  d : BitVec 9
  a : BitVec 9
  b : BitVec 9
  c : BitVec 9
  p : BitVec 4
  wa : Bool
  wb : Bool
  wc : Bool
  fi : Bool
  fo : Bool
  sat : Bool
  sub : BitVec 3
deriving DecidableEq, Repr

/-- Format V memory (R118): VLD, VST, VLDS, VSTS, VLDB. -/
structure VM where
  sk : Bool
  w : BitVec 2
  v : BitVec 9
  s : BitVec 6
  wb : Bool
  wv : Bool
  disp : BitVec 14
  stride : BitVec 10
  cls : BitVec 3
  p : BitVec 4
deriving DecidableEq, Repr

/-- Format V memory of VGATH and VSCAT (R118); x is the index register. -/
structure VG where
  sk : Bool
  w : BitVec 2
  v : BitVec 9
  s : BitVec 6
  wb : Bool
  wv : Bool
  x : BitVec 9
  wx : Bool
  cls : BitVec 3
  p : BitVec 4
deriving DecidableEq, Repr

/-- FOPEN (R263, R264); o is O (out). -/
structure Fopen where
  f : BitVec 4
  a : BitVec 6
  wa : Bool
  o : Bool
  disp : BitVec 4
deriving DecidableEq, Repr

/-- Extension word of FOPEN (R263). -/
structure FopenX where
  b : BitVec 6
  wb : Bool
  segi : BitVec 9
deriving DecidableEq, Repr

/-- FNEXT (R263); nm1 is n - 1. -/
structure Fnext where
  sk : Bool
  f : BitVec 4
  nm1 : BitVec 8
deriving DecidableEq, Repr

/-- FSKIP (R263); t is T (tab). -/
structure Fskip where
  sk : Bool
  f : BitVec 4
  b : BitVec 6
  wb : Bool
  t : Bool
deriving DecidableEq, Repr

/-- FISECT and FUNION (R263). -/
structure Fjoin where
  sk : Bool
  d : BitVec 4
  x : BitVec 4
  y : BitVec 4
deriving DecidableEq, Repr

/-- FMERGE (R263). -/
structure Fmerge where
  sk : Bool
  fo : BitVec 4
  fu : BitVec 4
  fmt : BitVec 2
  z : Bool
  a : BitVec 6
  wa : Bool
  b : BitVec 6
  wb : Bool
deriving DecidableEq, Repr

/-- FLDV (R263). -/
structure Fldv where
  sk : Bool
  f : BitVec 4
  w : BitVec 2
  k : Bool
  side : Bool
  vd : BitVec 9
  a : BitVec 6
  wa : Bool
deriving DecidableEq, Repr

/-- FCRD (R263). -/
structure Fcrd where
  sk : Bool
  f : BitVec 4
  w : BitVec 2
  k : Bool
  vd : BitVec 9
deriving DecidableEq, Repr

/-- FEMIT (R263). -/
structure Femit where
  sk : Bool
  f : BitVec 4
  w : BitVec 2
  p : BitVec 4
  wv : Bool
  v : BitVec 9
deriving DecidableEq, Repr

/-- FSTAT (R263). -/
structure Fstat where
  sk : Bool
  f : BitVec 4
  d : BitVec 6
  sel : BitVec 3
deriving DecidableEq, Repr

/-- FSAVE and FREST (R263). -/
structure Fimg where
  f : BitVec 4
  a : BitVec 6
  wa : Bool
deriving DecidableEq, Repr

/-- FCLOSE (R263). -/
structure Fclose where
  f : BitVec 4
deriving DecidableEq, Repr

/-- XSCALE (R200). -/
structure Xscale where
  sk : Bool
  a : BitVec 6
  wa : Bool
deriving DecidableEq, Repr

/-- XEXPV (R200). -/
structure Xexpv where
  sk : Bool
  wa : Bool
  va : BitVec 9
deriving DecidableEq, Repr

/-- XFIX (R200); km is K / 16 - 1. -/
structure Xfix where
  sk : Bool
  b : BitVec 5
  g : BitVec 3
  a : BitVec 6
  wa : Bool
  pop : Bool
  km : BitVec 12
deriving DecidableEq, Repr

/-- XCVT (R200); e is signed. -/
structure Xcvt where
  sk : Bool
  b : BitVec 5
  mode : BitVec 2
  e : BitVec 8
deriving DecidableEq, Repr

/-- HLD and HST (R211). -/
structure Hmem where
  sk : Bool
  h : BitVec 3
  a : BitVec 6
  wa : Bool
deriving DecidableEq, Repr

/-- Extension word of HLD and HST, in units of 64 bytes (R211). -/
structure HmemX where
  stride : BitVec 15
  disp : BitVec 16
deriving DecidableEq, Repr

/-- HSET (R211). -/
structure Hset where
  sk : Bool
  h : BitVec 3
  field : BitVec 4
  a : BitVec 6
  wa : Bool
deriving DecidableEq, Repr

/-- HFENCE (R211); one is A. -/
structure Hfence where
  one : Bool
  a : BitVec 6
  wa : Bool
deriving DecidableEq, Repr

/-- ACALLOC (R185). -/
structure Acalloc where
  qe : Bool
  q : BitVec 3
  b : BitVec 5
  fmt : BitVec 2
deriving DecidableEq, Repr

/-- ACFREE (R185). -/
structure Acfree where
  qe : Bool
  q : BitVec 3
  b : BitVec 5
deriving DecidableEq, Repr

/-- ACGRANT (R185); r is R (revoke). -/
structure Acgrant where
  qe : Bool
  q : BitVec 3
  b : BitVec 5
  ctx : BitVec 2
  r : Bool
deriving DecidableEq, Repr

/-- ACZERO (R185). -/
structure Aczero where
  sk : Bool
  qe : Bool
  q : BitVec 3
  b : BitVec 5
deriving DecidableEq, Repr

/-- ACRD vd, b, row, h (R185). -/
structure Acrd where
  sk : Bool
  qe : Bool
  q : BitVec 3
  b : BitVec 5
  row : BitVec 5
  h : Bool
  stride : BitVec 15
  vd : BitVec 9
deriving DecidableEq, Repr

/-- ACRD.st sd, b (R185). -/
structure AcrdSt where
  sk : Bool
  qe : Bool
  q : BitVec 3
  b : BitVec 5
  sd : BitVec 6
deriving DecidableEq, Repr

/-- ACWR b, vs, row, h (R185). -/
structure Acwr where
  sk : Bool
  qe : Bool
  q : BitVec 3
  b : BitVec 5
  row : BitVec 5
  h : Bool
  stride : BitVec 15
  wv : Bool
  vs : BitVec 9
deriving DecidableEq, Repr

/-- MMA.fmt (R185); km is K / 16 - 1. -/
structure Mma where
  sk : Bool
  qe : Bool
  q : BitVec 3
  b : BitVec 5
  ga : BitVec 3
  gb : BitVec 3
  ka : Bool
  kb : Bool
  wit : Bool
  km : BitVec 12
deriving DecidableEq, Repr

/-- MCNT.fmt (R185). -/
structure Mcnt where
  sk : Bool
  qe : Bool
  q : BitVec 3
  n : BitVec 2
  ga : BitVec 3
  gb : BitVec 3
  ka : Bool
  kb : Bool
  km : BitVec 12
deriving DecidableEq, Repr

/-- NCLR (R185). -/
structure Nclr where
  qe : Bool
  q : BitVec 3
  n : BitVec 2
deriving DecidableEq, Repr

/-- NMERGE, NDUMP and NLOAD (R185). -/
structure Nimg where
  sk : Bool
  qe : Bool
  q : BitVec 3
  n : BitVec 2
  a : BitVec 6
  wa : Bool
deriving DecidableEq, Repr

/-- NDRAIN (R185). -/
structure Ndrain where
  sk : Bool
  qe : Bool
  q : BitVec 3
  b : BitVec 5
  n : BitVec 2
  c : Bool
  r : Bool
deriving DecidableEq, Repr

/-- NCHK (R185). -/
structure Nchk where
  sk : Bool
  qe : Bool
  q : BitVec 3
  n : BitVec 2
  d : BitVec 6
deriving DecidableEq, Repr

/-- RGSET (R185); size in units of 512 bytes, base of 64. -/
structure Rgset where
  qe : Bool
  q : BitVec 3
  g : BitVec 3
  size : BitVec 13
  base : BitVec 16
deriving DecidableEq, Repr

/-- COPY (R215). -/
structure Copy where
  sk : Bool
  qe : Bool
  q : BitVec 3
  hd : BitVec 3
  hs : BitVec 3
  cid : BitVec 5
  ds : Bool
  dt : Bool
deriving DecidableEq, Repr

/-- COPYT (R215). -/
structure Copyt where
  sk : Bool
  qe : Bool
  q : BitVec 3
  hd : BitVec 3
  hs : BitVec 3
  cid : BitVec 5
  ds : Bool
deriving DecidableEq, Repr

/-- Extension word of the copy forms (R215). -/
structure CopyX where
  stride : BitVec 15
  a : BitVec 6
  wa : Bool
  ba : Bool
deriving DecidableEq, Repr

/-- CGATH and CSCAT (R215). -/
structure Cidx where
  sk : Bool
  qe : Bool
  q : BitVec 3
  hd : BitVec 3
  hs : BitVec 3
  cid : BitVec 5
  stride : BitVec 15
  a : BitVec 6
  wa : Bool
  ba : Bool
  x : BitVec 6
  wx : Bool
deriving DecidableEq, Repr

/-- CRED (R215). -/
structure Cred where
  sk : Bool
  qe : Bool
  q : BitVec 3
  hd : BitVec 3
  hs : BitVec 3
  cid : BitVec 5
  ds : Bool
  sr : Bool
deriving DecidableEq, Repr

/-- CRING (R215). -/
structure Cring where
  sk : Bool
  qe : Bool
  q : BitVec 3
  g : BitVec 3
  hs : BitVec 3
  cid : BitVec 5
deriving DecidableEq, Repr

/-- CWAIT (R215). -/
structure Cwait where
  a : BitVec 6
  cid : BitVec 5
  wa : Bool
deriving DecidableEq, Repr

/-- CTEST (R215). -/
structure Ctest where
  d : BitVec 6
  cid : BitVec 5
deriving DecidableEq, Repr

/-- PUBLISH (R215). -/
structure Publish where
  h : BitVec 3
  cid : BitVec 5
deriving DecidableEq, Repr

/-- UPD (R215). -/
structure Upd where
  h : BitVec 3
  cid : BitVec 5
  a : BitVec 6
  wa : Bool
  g : BitVec 6
  wg : Bool
deriving DecidableEq, Repr

/-- TMODE (R238). -/
structure Tmode where
  mode : BitVec 3
  a : BitVec 6
  wa : Bool
  b : BitVec 6
  wb : Bool
deriving DecidableEq, Repr

/-- TEVID (R238). -/
structure Tevid where
  sk : Bool
  a : BitVec 6
  wa : Bool
  b : BitVec 6
  wb : Bool
deriving DecidableEq, Repr

/-- TSEED (R238). -/
structure Tseed where
  a : BitVec 6
  wa : Bool
deriving DecidableEq, Repr

/-- TFWD (R238); ph is PH and w the window. -/
structure Tfwd where
  sk : Bool
  qe : Bool
  q : BitVec 3
  a : BitVec 6
  wa : Bool
  ph : BitVec 2
  w : BitVec 4
deriving DecidableEq, Repr

/-- TREV, TSAMP and TARGM (R238). -/
structure Trev where
  sk : Bool
  qe : Bool
  q : BitVec 3
  a : BitVec 6
  wa : Bool
deriving DecidableEq, Repr

/-- Extension word of TFWD and TREV, in units of 64 bytes (R238). -/
structure TrecX where
  stride : BitVec 15
  disp : BitVec 16
deriving DecidableEq, Repr

/-- TRATIO (R238). -/
structure Tratio where
  sk : Bool
  qe : Bool
  q : BitVec 3
  a : BitVec 6
  wa : Bool
  b : BitVec 6
  wb : Bool
  c : BitVec 6
  wc : Bool
deriving DecidableEq, Repr

/-- TWCLR (R238); all is A. -/
structure Twclr where
  sk : Bool
  all : Bool
  w : BitVec 4
deriving DecidableEq, Repr

/-- TSTAT (R238). -/
structure Tstat where
  sk : Bool
  d : BitVec 6
  sel : BitVec 4
deriving DecidableEq, Repr

/-- What reaches a barrier (R54, R55): an arrival of a count, with or without the error mark, or an expected count. -/
inductive BarrierAct where
  | arrive (n : BitVec 64) (err : Bool)
  | expect (n : BitVec 64)
deriving DecidableEq, Repr

/-- The instructions: rows 0 to 238 of the opcode table are slot words, rows 239 to 310 are events. In an event, `x` is a
context key (4 x core key + context), `c` a core key (24 x physical die + core), `d` a physical die, `q` a queue. -/
inductive Instr where
  | sNop
  | add (r : RR)
  | sub (r : RR)
  | mul (r : RR)
  | mulh (r : RR)
  | mulhu (r : RR)
  | div (r : RR)
  | divu (r : RR)
  | rem (r : RR)
  | remu (r : RR)
  | and (r : RR)
  | or (r : RR)
  | xor (r : RR)
  | andn (r : RR)
  | shl (r : RR)
  | shr (r : RR)
  | sra (r : RR)
  | min (r : RR)
  | max (r : RR)
  | minu (r : RR)
  | maxu (r : RR)
  | clz (r : RU)
  | ctz (r : RU)
  | popc (r : RU)
  | mov (r : RU)
  | bfx (r : Bfx)
  | bfi (r : Bfi)
  | cmp (cc : BitVec 4) (r : RR)
  | csel (r : Csel)
  | addImmediate (r : RI)
  | subImmediate (r : RI)
  | mulImmediate (r : RI)
  | andImmediate (r : RI)
  | orImmediate (r : RI)
  | xorImmediate (r : RI)
  | andnImmediate (r : RI)
  | shlImmediate (r : RI)
  | shrImmediate (r : RI)
  | sraImmediate (r : RI)
  | minImmediate (r : RI)
  | maxImmediate (r : RI)
  | minuImmediate (r : RI)
  | maxuImmediate (r : RI)
  | cmpImmediate (cc : BitVec 4) (r : RI)
  | li (r : Li)
  | lih (r : Lih)
  | la (r : La)
  | br (r : Br)
  | call (r : Call)
  | bc (cc : BitVec 4) (r : Bc)
  | jr (r : Jr)
  | callr (r : Callr)
  | ret (r : Jr)
  | ldB (r : Ld)
  | ldBu (r : Ld)
  | ldH (r : Ld)
  | ldHu (r : Ld)
  | ldW (r : Ld)
  | ldWu (r : Ld)
  | ldD (r : Ld)
  | stB (r : St)
  | stH (r : St)
  | stW (r : St)
  | stD (r : St)
  | atopAdd (r : At)
  | atopAnd (r : At)
  | atopOr (r : At)
  | atopXor (r : At)
  | atopMin (r : At)
  | atopMax (r : At)
  | atopSub (r : At)
  | atswp (r : At)
  | atcas (r : Ato)
  | atfadd (r : Ato)
  | atadds (r : At)
  | fence (r : Fence)
  | waitm (r : Waitm)
  | barrive (r : Barrive)
  | barriveExt (r : Barrive) (e : BarX)
  | bexpect (r : Bexpect)
  | bexpectExt (r : Bexpect) (e : BarX)
  | bwait (r : Bwait)
  | bwaitExt (r : Bwait) (e : BarX)
  | btest (r : Bwait)
  | btestExt (r : Bwait) (e : BarX)
  | tkget (r : Tkget)
  | tkpost (r : Tkpost)
  | tkdone (r : Tkdone)
  | trap
  | trapExt (r : TrapX)
  | tret
  | crd (r : Crd)
  | cwr (r : Cwr)
  | hbeat
  | yield
  | vadd (r : VF)
  | vsub (r : VF)
  | vmul (r : VF)
  | vmulh (r : VF)
  | vmin (r : VF)
  | vmax (r : VF)
  | vabs (r : VF)
  | vand (r : VF)
  | vor (r : VF)
  | vxor (r : VF)
  | vandn (r : VF)
  | vshl (r : VF)
  | vshr (r : VF)
  | vsra (r : VF)
  | vfadd (r : VF)
  | vfsub (r : VF)
  | vfmul (r : VF)
  | vfma (r : VF)
  | vfms (r : VF)
  | vfmin (r : VF)
  | vfmax (r : VF)
  | vrcp (r : VF)
  | vrsq (r : VF)
  | vexp2 (r : VF)
  | vlog2 (r : VF)
  | vcmp (cc : BitVec 4) (r : VF)
  | vfcmp (cc : BitVec 4) (r : VF)
  | vNop
  | pand (r : VF)
  | por (r : VF)
  | pxor (r : VF)
  | pnot (r : VF)
  | ppop (r : VF)
  | pfirst (r : VF)
  | vcvt (r : VF)
  | vsxpack (r : VF)
  | vsxunpack (r : VF)
  | vperm (r : VF)
  | vshuf (r : VF)
  | vbcast (r : VF)
  | vmovs (r : VF)
  | vsel (r : VF)
  | vcompress (r : VF)
  | vexpand (r : VF)
  | vred (r : VF)
  | vscan (r : VF)
  | vtopk (r : VF)
  | vlpmul (r : VF)
  | vlpadd (r : VF)
  | vlpmax (r : VF)
  | vlpdiv (r : VF)
  | vlpcvt (r : VF)
  | vlpsplit (r : VF)
  | vlpjoin (r : VF)
  | vrand (r : VF)
  | vld (r : VM)
  | vst (r : VM)
  | vlds (r : VM)
  | vsts (r : VM)
  | vgath (r : VG)
  | vscat (r : VG)
  | vldb (r : VM)
  | fNop
  | fopen (r : Fopen)
  | fopenExt (r : Fopen) (e : FopenX)
  | fnext (r : Fnext)
  | fskip (r : Fskip)
  | fisect (r : Fjoin)
  | funion (r : Fjoin)
  | fmerge (r : Fmerge)
  | fldv (r : Fldv)
  | fcrd (r : Fcrd)
  | femit (r : Femit)
  | fstat (r : Fstat)
  | fsave (r : Fimg)
  | frest (r : Fimg)
  | fclose (r : Fclose)
  | xNop
  | xscale (r : Xscale)
  | xexpv (r : Xexpv)
  | xfix (r : Xfix)
  | xcvt (r : Xcvt)
  | hNop
  | hld (r : Hmem)
  | hldExt (r : Hmem) (e : HmemX)
  | hst (r : Hmem)
  | hstExt (r : Hmem) (e : HmemX)
  | hset (r : Hset)
  | hfence (r : Hfence)
  | mNop
  | acalloc (r : Acalloc)
  | acfree (r : Acfree)
  | acgrant (r : Acgrant)
  | aczero (r : Aczero)
  | acrd (r : Acrd)
  | acrdSt (r : AcrdSt)
  | acwr (r : Acwr)
  | mmaBf16 (r : Mma)
  | mmaFp16 (r : Mma)
  | mmaE4m3 (r : Mma)
  | mmaE5m2 (r : Mma)
  | mmaInt8 (r : Mma)
  | mmaSx8 (r : Mma)
  | mmaSx5 (r : Mma)
  | mmaSx3 (r : Mma)
  | mcntInt4 (r : Mcnt)
  | mcntE2m1 (r : Mcnt)
  | nclr (r : Nclr)
  | nmerge (r : Nimg)
  | ndump (r : Nimg)
  | nload (r : Nimg)
  | ndrain (r : Ndrain)
  | nchk (r : Nchk)
  | rgset (r : Rgset)
  | cNop
  | copy (r : Copy)
  | copyExt (r : Copy) (e : CopyX)
  | copyt (r : Copyt)
  | copytExt (r : Copyt) (e : CopyX)
  | cgath (r : Cidx)
  | cscat (r : Cidx)
  | cred (r : Cred)
  | credExt (r : Cred) (e : CopyX)
  | cring (r : Cring)
  | cringExt (r : Cring) (e : CopyX)
  | cwait (r : Cwait)
  | ctest (r : Ctest)
  | publish (r : Publish)
  | upd (r : Upd)
  | tNop
  | tmode (r : Tmode)
  | tevid (r : Tevid)
  | tseed (r : Tseed)
  | tfwd (r : Tfwd)
  | tfwdExt (r : Tfwd) (e : TrecX)
  | trev (r : Trev)
  | trevExt (r : Trev) (e : TrecX)
  | tsamp (r : Trev)
  | targm (r : Trev)
  | tratio (r : Tratio)
  | twclr (r : Twclr)
  | tstat (r : Tstat)
  | hint (i : BitVec 27)
  | hintExt (i : BitVec 27) (ext : BitVec 31)
  | bundleIssue (x : Nat)
  | blockRelease (x : Nat)
  | gateTimeoutMark (x : Nat)
  | loadArrival (x tok : Nat)
  | accessRefusal (x tok reason : Nat)
  | deferredTrap (x : Nat)
  | heartbeatExpiry (c : Nat)
  | contextRetire (x : Nat)
  | taskDispatch (d : Nat)
  | taskDecrement (n : Nat)
  | taskCancellation (n : Nat)
  | regionAdmit (r : Nat)
  | partitionPreempt (r d : Nat)
  | partitionSwapOut (r d : Nat)
  | partitionSwapIn (r d : Nat)
  | barrierArrival (pa : Nat) (act : BarrierAct)
  | mCommandPerform (c : Nat)
  | mmaRetirement (c : Nat)
  | tCommandPerform (c : Nat)
  | fibreQueuePerform (c : Nat)
  | copyChunkWritten (c n chunk : Nat)
  | cringRoom (c n : Nat)
  | publishExchange (c n : Nat)
  | updGateOpen (c n : Nat)
  | powerOn
  | powerRemoval
  | bootctlGo
  | warmReset
  | extend (i : BitVec 3)
  | heldExtend
  | attestation
  | extctlErrRead (tag : BitVec 16)
  | throttleUpdate (level : BitVec 4) (reason : BitVec 3)
  | mwr (addr : BitVec 64) (data : List (BitVec 8))
  | mrd (addr : BitVec 64) (len : Nat) (tag : BitVec 16)
  | dbell (q : Nat) (tail : BitVec 64)
  | unknownMessageType (type : BitVec 16)
  | linkModuleDisable (n : Nat)
  | flitCrcFailure (d : Nat)
  | registerWrite (off : Nat) (val : BitVec 64)
  | qtailWrite (q : Nat) (val : BitVec 64)
  | launch (q : Nat)
  | post (q : Nat)
  | marker (q : Nat)
  | queueEntryBadOp (q : Nat)
  | queueCompletion (n : Nat)
  | qctlTeardown (q : Nat)
  | qctlReset (q : Nat)
  | frovfRead (tag : BitVec 16)
  | resumeContext (val : BitVec 64)
  | resumeCopy (val : BitVec 64)
  | resumeAll (val : BitVec 64)
  | tlbinvPage (d : Nat) (val : BitVec 64)
  | tlbinvAsid (d : Nat) (val : BitVec 64)
  | tlbinvAll (d : Nat) (val : BitVec 64)
  | tlbinvDone (d : Nat)
  | suspend
  | unsuspend
  | stopmark
  | stopmarkContextStop (x : Nat)
  | save
  | restore
  | ldtctlDrop (ldie : Nat)
  | ldtctlDropAll
  | ldtctlDone
  | diePowerUp (d : Nat)
  | diePowerDown (d : Nat)
  | strataDump
  | telclr
  | dieLoss (d : Nat)
  | cheadWrite (q : Nat) (val : BitVec 64)
  | corePowerGating (c : Nat)
deriving DecidableEq, Repr

end Sys2Proof
end

