-- ==== Sys2Proof/Machine/Event.lean ====
section
/-! DEFINITION. Machine/Event.lean: the events of the opcode table as the agenda of the machine names them, one constructor for
each event of Instr, with the same parameters; and, after those, the steps that the spec describes without a row of that table: a
register read, the end of a report, the firmware's extends, and errors in memory and management cores. -/

namespace Sys2Proof.Machine

/-- A step that an agent of the machine, or the host, takes. -/
inductive Event where
  | bundleIssue (x : Nat)
  | blockRelease (x : Nat)
  | gateTimeoutMark (x : Nat)
  | loadArrival (x tok : Nat)
  | accessRefusal (x tok reason : Nat)
  | deferredTrap (x : Nat)
  | heartbeatExpiry (c : Nat)
  | contextRetire (x : Nat)
  | taskDispatch (d : Nat)
  | taskDecrement (n : Nat)
  | taskCancellation (n : Nat)
  | regionAdmit (r : Nat)
  | partitionPreempt (r d : Nat)
  | partitionSwapOut (r d : Nat)
  | partitionSwapIn (r d : Nat)
  | barrierArrival (pa : Nat) (act : BarrierAct)
  | mCommandPerform (c : Nat)
  | mmaRetirement (c : Nat)
  | tCommandPerform (c : Nat)
  | fibreQueuePerform (c : Nat)
  | copyChunkWritten (c n chunk : Nat)
  | cringRoom (c n : Nat)
  | publishExchange (c n : Nat)
  | updGateOpen (c n : Nat)
  | powerOn
  | powerRemoval
  | bootctlGo
  | warmReset
  | extend (i : BitVec 3)
  | heldExtend
  | attestation
  | extctlErrRead (tag : BitVec 16)
  | throttleUpdate (level : BitVec 4) (reason : BitVec 3)
  | mwr (addr : BitVec 64) (data : List (BitVec 8))
  | mrd (addr : BitVec 64) (len : Nat) (tag : BitVec 16)
  | dbell (q : Nat) (tail : BitVec 64)
  | unknownMessageType (type : BitVec 16)
  | linkModuleDisable (n : Nat)
  | flitCrcFailure (d : Nat)
  | registerWrite (off : Nat) (val : BitVec 64)
  | qtailWrite (q : Nat) (val : BitVec 64)
  | launch (q : Nat)
  | post (q : Nat)
  | marker (q : Nat)
  | queueEntryBadOp (q : Nat)
  | queueCompletion (n : Nat)
  | qctlTeardown (q : Nat)
  | qctlReset (q : Nat)
  | frovfRead (tag : BitVec 16)
  | resumeContext (val : BitVec 64)
  | resumeCopy (val : BitVec 64)
  | resumeAll (val : BitVec 64)
  | tlbinvPage (d : Nat) (val : BitVec 64)
  | tlbinvAsid (d : Nat) (val : BitVec 64)
  | tlbinvAll (d : Nat) (val : BitVec 64)
  | tlbinvDone (d : Nat)
  | suspend
  | unsuspend
  | stopmark
  | stopmarkContextStop (x : Nat)
  | save
  | restore
  | ldtctlDrop (ldie : Nat)
  | ldtctlDropAll
  | ldtctlDone
  | diePowerUp (d : Nat)
  | diePowerDown (d : Nat)
  | strataDump
  | telclr
  | dieLoss (d : Nat)
  | cheadWrite (q : Nat) (val : BitVec 64)
  | corePowerGating (c : Nat)
  | registerRead (off : Nat) (tag : BitVec 16)
  | reportWritten
  | firmwareExtend (i : Nat) (digest : List (BitVec 8))
  | mcoreEcc (d : Nat)
  | mcoreHalt (d : Nat)
  | upset (w : Nat) (double : Bool)
  | arrayUpset (row : Nat) (double : Bool)
deriving DecidableEq, Repr

end Sys2Proof.Machine
end

