-- ==== Sys2Proof/Machine/FMap.lean ====
section
/-! DEFINITION. Machine/FMap.lean: finite maps from natural numbers as lists of pairs, keys strictly rising. A key that is not
listed reads as a default value, and writing the default with `fset` removes the entry, so that equal maps are equal lists.
`fput` and `fdel` serve records whose mere presence has a meaning. -/

namespace Sys2Proof.Machine

/-- A finite map: pairs of key and value, keys strictly rising. -/
abbrev FMap (α : Type) := List (Nat × α)

/-- The value at a key, the default where the key is not listed. -/
def fget {α : Type} (dflt : α) : FMap α → Nat → α
  | [], _ => dflt
  | (j, v) :: m, k => if k = j then v else fget dflt m k

/-- The entry at a key, where there is one. -/
def fget? {α : Type} : FMap α → Nat → Option α
  | [], _ => none
  | (j, v) :: m, k => if k = j then some v else fget? m k

/-- The key is listed. -/
def fhas {α : Type} (m : FMap α) (k : Nat) : Bool := (fget? m k).isSome

/-- Write a value and list it, whatever it is. -/
def fput {α : Type} : FMap α → Nat → α → FMap α
  | [], k, v => [(k, v)]
  | (j, w) :: m, k, v =>
    if k < j then (k, v) :: (j, w) :: m else if k = j then (k, v) :: m else (j, w) :: fput m k v

/-- Remove a key. -/
def fdel {α : Type} : FMap α → Nat → FMap α
  | [], _ => []
  | (j, w) :: m, k => if k = j then fdel m k else (j, w) :: fdel m k

/-- Write a value; writing the default removes the entry. -/
def fset {α : Type} [DecidableEq α] (dflt : α) (m : FMap α) (k : Nat) (v : α) : FMap α :=
  if v = dflt then fdel m k else fput m k v

/-- The entries with keys in [lo, lo + n), their keys counted from lo. -/
def fwindow {α : Type} (m : FMap α) (lo n : Nat) : FMap α :=
  m.filterMap fun (k, v) => if lo ≤ k && k < lo + n then some (k - lo, v) else none

/-- Remove every entry with a key in [lo, lo + n). -/
def fclear {α : Type} (m : FMap α) (lo n : Nat) : FMap α :=
  m.filter fun (k, _) => !(lo ≤ k && k < lo + n)

/-- The values at n keys from `i` on, as a list; every listed key is at least `i`. -/
def fexpand {α : Type} (dflt : α) : Nat → Nat → FMap α → List α
  | 0, _, _ => []
  | n + 1, i, [] => dflt :: fexpand dflt n (i + 1) []
  | n + 1, i, (k, v) :: m =>
    if k = i then v :: fexpand dflt n (i + 1) m else dflt :: fexpand dflt n (i + 1) ((k, v) :: m)

/-- The map whose values at the keys from `i` on are those of a list. -/
def fofList {α : Type} [DecidableEq α] (dflt : α) : Nat → List α → FMap α
  | _, [] => []
  | i, v :: l => if v = dflt then fofList dflt (i + 1) l else (i, v) :: fofList dflt (i + 1) l

/-- The keys rise strictly and no listed value is the default. -/
def fwf {α : Type} [DecidableEq α] (dflt : α) : FMap α → Bool
  | [] => true
  | [(_, v)] => v ≠ dflt
  | (j, v) :: (k, w) :: m => (v ≠ dflt) && (j < k) && fwf dflt ((k, w) :: m)

end Sys2Proof.Machine
end

