-- ==== Sys2Proof/Machine/Units.lean ====
section
/-! DEFINITION. Machine/Units.lean: the data types of the parts of the machine's state: registers, engines, commands in
flight, scheduler records. Everything is plain data. A context key is 4 x core key + context index, a core key is
24 x physical die + core (R11, R12). -/

namespace Sys2Proof.Machine

/-- The states of a context (R39); a SWAPPED context stands in `HardSlot` with the state that swap-in restores. -/
inductive CtxState where
  | idle | ready | running | blocked | parked | draining | halted
deriving DecidableEq, Repr

/-- Why a context is BLOCKED (R37, R40, R152 to R154): what must hold before it becomes READY. -/
inductive BlockWhy where
  | none
  /-- the M, T or F command queue, or the 32 copies, are full (0 M, 1 T, 2 F, 3 C) -/
  | queue (unit : Nat)
  /-- a completion slot still held by an active command (R216) -/
  | cid (n : Nat)
  /-- CWAIT: the masked chunk bits of a completion slot -/
  | chunks (cid : Nat) (mask : Word64)
  /-- BWAIT: the phase of the barrier at an address -/
  | barrier (ea : Word64) (phase : Nat)
  /-- WAITM: the 8-byte word at an address takes a value -/
  | word (ea : Word64) (value : Word64)
  /-- TKGET with no data task -/
  | task
  /-- an empty s (0) or v (1) register -/
  | empty (isV : Bool) (reg : Nat)
  /-- the Y bit or YIELD: another context has issued a bundle, or none is READY -/
  | yield
  /-- rejoin: the seif's other members -/
  | rejoin
  /-- the bytes that an F operation reads ahead (R260) -/
  | ahead
  /-- another member of a fused seif blocks -/
  | member (x : Nat)
  /-- TKPOST: the message queue of a die's task scheduler is full (R154) -/
  | post (d : Nat)
deriving DecidableEq, Repr

/-- A stream register (R258, R262). -/
structure Stream where
  desc : Word64
  state : BitVec 3
  atEnd : Bool
  px : Bool
  py : Bool
  escw : Bool
  bad : Bool
  cond : BitVec 3
  kind : BitVec 2
  x : BitVec 4
  y : BitVec 4
  extent : BitVec 32
  segment : BitVec 32
  entry : BitVec 32
  hi : BitVec 32
  coord : BitVec 32
  byte : BitVec 32
  bend : BitVec 32
  vbase : Word64
  count : BitVec 32
  offered : BitVec 32
deriving DecidableEq, Repr

/-- A CLOSED stream register (R258). -/
def Stream.closed : Stream :=
  { desc := 0, state := 0, atEnd := false, px := false, py := false, escw := false, bad := false, cond := 0, kind := 0,
    x := 0, y := 0, extent := 0, segment := 0, entry := 0, hi := 0, coord := 0, byte := 0, bend := 0, vbase := 0,
    count := 0, offered := 0 }

/-- A pending H-slot write (R213): of field `field` (R211), or of the whole record, due at issue `due` of its mode. -/
structure HWrite where
  h : Nat
  whole : Bool
  field : Nat
  val : HReg
  due : Nat
  handler : Bool
deriving DecidableEq, Repr

/-- An armed operation and its next issue index (R122). -/
structure Armed where
  op : Instr
  next : Nat
deriving DecidableEq, Repr

/-- The part of a context that a mark records and a rollback restores (R126): the registers, sw, rseed with the generator
counter (R181), the armed operations, the pending H-slot writes and the issue counts (R201). A register named in `sWait` or
`vWait` is empty and waits for the producer of that token (R135). -/
structure Live where
  s : FMap Word64
  v : FMap VReg
  p : FMap PReg
  q : FMap Word64
  f : FMap Stream
  h : FMap HReg
  sWait : FMap Nat
  vWait : FMap Nat
  sw : Word64
  rseed : Word64
  ctr : Word64
  armed : FMap Armed
  hPend : List HWrite
  nTask : Nat
  nHandler : Nat
deriving DecidableEq, Repr

/-- The live part of a context as an entry task's dispatch leaves it, s1 and s2 apart (R33): every register zero and full,
q all ones, sw at its Reset values, no slot armed. -/
def Live.init : Live :=
  { s := [], v := [], p := [], q := [], f := [], h := [], sWait := [], vWait := [], sw := 0, rseed := 0, ctr := 0,
    armed := [], hPend := [], nTask := 0, nHandler := 0 }

/-- An entry of the store gate (R126): who placed it (R329's source code), its alias class, the bytes by effective address,
the words written with poison marks (R269), the record an HST writes (R212) and the time it entered. `ready` is false while
an F operation has still to form the data (R261). -/
structure GateEnt where
  id : Nat
  src : Nat
  cls : Nat
  writes : List (Word64 × List Byte)
  poison : List Word64
  hst : Option (Word64 × HReg)
  ready : Bool
  time : Nat
deriving DecidableEq, Repr

/-- A long-latency producer's value on its way (R135): the register, the value, and the address to report if its data was
uncorrectable (R176). -/
structure Arrival where
  tok : Nat
  isV : Bool
  reg : Nat
  val : VReg
  poison : Bool
  pc : Word64
  slot : Nat
  va : Word64
  src : Nat
  cls : Nat
deriving DecidableEq, Repr

/-- A deferred trap that has been detected (R49), with the token of the load whose value it is about (R176), 0 where it is about
none: a rollback to a mark before that load discards the trap with the value (R90, R127). -/
structure Deferred where
  cause : Nat
  info : Word64
  slot : Nat
  tok : Nat
deriving DecidableEq, Repr

/-- One partial sum of the scale port (R191): a finite value m x 2^e, or an infinity, or a NaN. -/
inductive PCell where
  | fin (m : Int) (e : Int)
  | inf (neg : Bool)
  | nan
deriving DecidableEq, Repr

/-- The data of a port entry: cells in row-major order, `cols` per row, and the rows that carry poison (R193). -/
structure PortData where
  cols : Nat
  cells : List PCell
  poison : BitVec 32
deriving DecidableEq, Repr

/-- An entry of the partial-sum port (R201): the issue number it is tagged with, its own number, the bank, whether it is an
LPX entry and whether WIT was set; the data stands once its MMA has retired. -/
structure PortEntry where
  tag : Nat
  id : Nat
  bank : Nat
  lpx : Bool
  wit : Bool
  data : Option PortData
deriving DecidableEq, Repr

/-- What an operation of the matrix engine or the scale port does when it performs (R184). Rings are named by generation. -/
inductive MOp where
  | clear (b : Nat) (fmt : Nat)
  | read (b half tok vd : Nat)
  | write (b half : Nat) (data : VReg)
  | mma (fmt b bfmt ga gb : Nat) (ka kb wit : Bool) (k entry : Nat)
  | mcnt (fmt n ga gb : Nat) (ka kb : Bool) (k : Nat)
  | nclr (n : Nat)
  | nmerge (n : Nat) (addr : Nat)
  | ndump (n : Nat) (addr : Nat)
  | nload (n : Nat) (addr : Nat)
  | ndrain (b n : Nat) (clr rel : Bool)
  | nchk (n tok sd : Nat)
  | xscale (b : Nat) (e : Int)
  | xexpv (b : Nat) (x : VReg)
  | xfix (b g : Nat) (addr : Word64) (k : Nat) (pop : Bool)
  | xcvt (b mode : Nat) (e : Int)
  | drain (copy b : Nat)
deriving DecidableEq, Repr

/-- A command of the matrix engine's queue (R194, R202). -/
structure MCmd where
  seq : Nat
  x : Nat
  pc : Word64
  slot : Nat
  op : MOp
  port : Option PortEntry
deriving DecidableEq, Repr

/-- What a tree-engine operation does (R238). -/
inductive TOp where
  | tmode (mode : Nat) (vb rb : Word64)
  | tevid (evb evn : Word64)
  | tfwd (rec : Word64) (ph w : Nat)
  | trev (rec : Word64)
  | walk (samp : Bool) (stack : Word64) (key : Option Word64)
  | tratio (c a b : Word64)
  | twclr (all : Bool) (w : Nat)
  | tstat (tok sd sel : Nat)
deriving DecidableEq, Repr

/-- A command of the tree engine's queue (R232). -/
structure TCmd where
  seq : Nat
  x : Nat
  pc : Word64
  slot : Nat
  op : TOp
deriving DecidableEq, Repr

/-- A window of the tree engine (R230, R244): 0 EMPTY, 1 SCAN, 2 ADD; LP words are held as their 64 bits. `range` says that a
term left the range or an address failed, `bad` is the BAD mark, `pois` says that a term was uncorrectable (R233), and `first` is
the record index of the first segment. -/
structure Win where
  st : BitVec 2
  node : Nat
  kind : Nat
  mode : Nat
  acc : Int
  emax : Int
  hasMax : Bool
  sticky : Bool
  count : Nat
  isN : Bool
  zc : Nat
  pnz : Word64
  best : Word64
  bestPos : Nat
  hasBest : Bool
  range : Bool
  bad : Bool
  pois : Bool
  first : Nat
deriving DecidableEq, Repr

/-- An EMPTY window. -/
def Win.empty : Win :=
  { st := 0, node := 0, kind := 0, mode := 0, acc := 0, emax := 0, hasMax := false, sticky := false, count := 0, isN := false,
    zc := 0, pnz := 0, best := 0, bestPos := 0, hasBest := false, range := false, bad := false, pois := false, first := 0 }

/-- The tree-engine state of a context (R230), as the operations performed so far leave it. -/
structure Tree where
  mode : Nat
  vb : Word64
  rb : Word64
  evb : Word64
  evn : Word64
  wins : FMap Win
  nodes : Word64
  masked : Word64
  dstop : Bool
  nres : Bool
  lpr : Bool
  cont : Bool
deriving DecidableEq, Repr

/-- The tree-engine state at dispatch (R230). -/
def Tree.init : Tree :=
  { mode := 0, vb := 0, rb := 0, evb := 0, evn := 0, wins := [], nodes := 0, masked := 0, dstop := false, nres := false,
    lpr := false, cont := false }

/-- A union element taken by FMERGE (R269): the coordinate and the entry on each side where it is present. -/
structure MergeElem where
  coord : Nat
  ex : Option Nat
  ey : Option Nat
deriving DecidableEq, Repr

/-- What a queued fibre operation does (R260). -/
inductive FOp where
  | fldv (tok vd : Nat) (w : Nat) (elems : List (Option Word64))
  | fcrd (tok vd : Nat) (val : VReg)
  | femit (f n : Nat) (pos : Word64) (elems : List (Nat × Nat)) (gate : Nat)
  | fmerge (f fmt : Nat) (pos : Word64) (z : Bool) (elems : List MergeElem) (a b : Word64) (rm gate : Nat)
  | fstat (tok sd f sel : Nat)
  | fsave (f : Nat) (ea : Word64) (gate : Nat)
deriving DecidableEq, Repr

/-- A command of the fibre unit's queue (R260). -/
structure FCmd where
  x : Nat
  pc : Word64
  op : FOp
deriving DecidableEq, Repr

/-- The kinds of copy-unit command (R219, R225, R226). -/
inductive CopyKind where
  | copy (dirty : Bool)
  | copyt
  | gather (idx : Word64)
  | scatter (idx : Word64)
  | reduce (sr : Bool)
  | ring (gen off : Nat)
  | publish
  | upd (at_ : Word64) (desc : List Byte) (gate : Option Word64)
deriving DecidableEq, Repr

/-- An active command of the copy unit (R216, R217, R222). `done` lists the chunks written, false while a chunk's arrival is
still owed (R221), and `bad` those of them that were written poisoned; `image` is a bank as a drain copy read it, with its
poisoned rows; `waits` says that a push has not found room, that a gate has not opened, or that a PUBLISH has not performed.
`told` lists the addresses that a deferred trap has reported, and `served` the pages whose dirty bit a dirty copy has cleared.
`lost` says that its context has been torn down (R57). For an UPD, `upd` is its STATUS so far and `consts` its clip factor
and the two powers of R229. -/
structure CopyCmd where
  id : Nat
  x : Nat
  cid : Nat
  seq : Nat
  kind : CopyKind
  dst : HReg
  src : HReg
  chunks : Nat
  done : FMap Bool
  bad : List Nat
  bar : Option Word64
  pc : Word64
  waits : Bool
  parked : Bool
  image : Option (List Byte × BitVec 32)
  needImage : Bool
  told : List Word64
  served : List Word64
  upd : Word64
  consts : List Nat
  asid : Nat
  lost : Bool
deriving DecidableEq, Repr

/-- An accumulator bank (R182): ownership, grants and format as the operations issued so far leave them; cells by word
index 64 x row + 32-bit column, poison bits, witness column and WV as the operations performed so far leave them. -/
structure Bank where
  owned : Bool
  owner : Nat
  grants : BitVec 4
  fmt : Nat
  cells : FMap (BitVec 32)
  poison : BitVec 32
  wit : FMap (BitVec 32)
  wv : Bool
deriving DecidableEq, Repr

/-- An unallocated bank. -/
def Bank.free : Bank :=
  { owned := false, owner := 0, grants := 0, fmt := 0, cells := [], poison := 0, wit := [], wv := false }

/-- The counters of one cell of a counter set (R73, R195): 32 signed counters, nonzero events and zero events. -/
structure CCell where
  cnt : FMap (BitVec 20)
  nz : BitVec 20
  z : BitVec 20
deriving DecidableEq, Repr

/-- A cleared counter cell. -/
def CCell.zero : CCell := { cnt := [], nz := 0, z := 0 }

/-- A counter set (R195): ownership, format and depth as issued, format and depth as performed, the cells by index
64 x row + column, and poison bits. -/
structure CSet where
  owned : Bool
  owner : Nat
  fmt : Nat
  depth : Nat
  pfmt : Nat
  pdepth : Nat
  cells : FMap CCell
  poison : BitVec 32
deriving DecidableEq, Repr

/-- An unowned counter set. -/
def CSet.free : CSet :=
  { owned := false, owner := 0, fmt := 0, depth := 0, pfmt := 0, pdepth := 0, cells := [], poison := 0 }

/-- One generation of an operand ring (R188, R189): the tail moves at issue, head and fill when pops and pushes perform. -/
structure Ring where
  g : Nat
  owner : Nat
  base : Nat
  size : Nat
  head : Nat
  tail : Nat
  fill : Nat
deriving DecidableEq, Repr

/-- A line of the instruction store (R42): the ASID and block address it is tagged with, whether the page it was filled from is
a 2 MB one (R328), and its bytes by offset. -/
structure Line where
  asid : Nat
  block : Nat
  big : Bool
  bytes : List Host.Cell
deriving DecidableEq, Repr

/-- A translation held by a memory-side TLB (R327, R328): ASID, die-local page number in units of 64 KB, the leaf entry,
whether it is a 2 MB leaf, and where the entry stands. -/
structure TlbEnt where
  asid : Nat
  page : Nat
  leaf : Word64
  big : Bool
  addr : Nat
deriving DecidableEq, Repr

/-- A strata entry (R350) without its bytes' layout. -/
structure Strata where
  time : Nat
  seq : Nat
  kind : Nat
  fatal : Bool
  core : Nat
  ctx : Nat
  detail : List Byte
deriving DecidableEq, Repr

/-- A message the device has sent to the host (R319): its TYPE, ADDR, TAG and payload. -/
structure HostMsg where
  type : Nat
  addr : Nat
  tag : Nat
  data : List Byte
deriving DecidableEq, Repr

/-- A request that left for another module (R24): module, physical die, ASID, address, and the bytes written, if any. -/
structure FabMsg where
  modl : Nat
  pdie : Nat
  asid : Nat
  va : Word64
  kind : Nat
  data : List Byte
deriving DecidableEq, Repr

/-- A task's life in the scheduler (R32). -/
inductive TaskState where
  | waiting | ready | running (x : Nat) | done
deriving DecidableEq, Repr

/-- A posted task record (R30, R32): its address, the physical die that holds it, the region that governs it, whether it is
a data task, its seif size (R13), its dispatch keys (R33) and its state. -/
structure TaskRec where
  id : Nat
  asid : Nat
  va : Word64
  die : Nat
  region : Nat
  /-- The region on whose context it runs. -/
  home : Nat
  data : Bool
  seif : Nat
  pri : Nat
  height : Nat
  state : TaskState
  status : Nat
deriving DecidableEq, Repr

/-- One step of the task scheduler's work on a record (R32, R34): posting it, a decrement or a cancellation that a die has sent
to it, its reading at dispatch to a context, the write of STATUS or STATE, the arrival at its DONE barrier, and the messages to
its successors. -/
inductive SchedOp where
  | post (region : Nat)
  | decrement (sender : Nat)
  | cancel (sender : Nat)
  | dispatch
  | writeStatus (status : Nat)
  | writeState (state : Nat)
  | arrive (err : Bool)
  | successors (ok : Bool)
deriving DecidableEq, Repr

/-- A step of the scheduler's work still to be made, with the record whose order it keeps (R34, R361) and the die of the
scheduler: a message on its way, or `held` after a refusal until RESUME. -/
structure SchedMsg where
  id : Nat
  die : Nat
  asid : Nat
  record : Word64
  op : SchedOp
  held : Bool
deriving DecidableEq, Repr

/-- The life of a region (R325's STATE). -/
inductive RegState where
  | waiting | admitted | swapped | held | released
deriving DecidableEq, Repr

/-- A region known to the region scheduler (R28, R35, R325): its RCB, resolved values, cores and parent. -/
structure Region where
  id : Nat
  asid : Nat
  rcb : Word64
  rcbAsid : Nat
  parent : Option Nat
  pri : Nat
  fault : Nat
  cores : Nat
  contexts : Nat
  banks : Nat
  vault : Nat
  hbm : Nat
  tv : Word64
  state : RegState
  order : Nat
  admitOrder : Nat
  /-- The cores assigned to it. -/
  place : List Nat
  queue : Option Nat
  /-- Its LAUNCH carries FLAGS.HOLD (R322). -/
  holdFlag : Bool
  /-- A record has been posted into it. -/
  used : Bool
  /-- STOPMARK is under way (R332). -/
  stopping : Bool
  /-- SUSPEND is under way (R332). -/
  halting : Bool
deriving DecidableEq, Repr

/-- A queue entry that has been read and is not complete (R322 to R324): how many of its records are still to finish, and
the first status other than OK. -/
structure QEntry where
  id : Nat
  q : Nat
  index : Nat
  op : Nat
  flags : Nat
  user : Word64
  asid : Nat
  rcb : Word64
  task : Word64
  ntask : Nat
  posted : Bool
  region : Option Nat
  nfault : Nat
  status : Nat
  done : Bool
  /-- Its read of the RCB was refused, and waits for RESUME. -/
  held : Bool
  recs : List Word64
deriving DecidableEq, Repr

/-- A seif in being (R40): its core numbers on one die, the context index, and whether it is fused. -/
structure Seif where
  id : Nat
  core0 : Nat
  size : Nat
  ctx : Nat
  fused : Bool
deriving DecidableEq, Repr

/-- The control registers of a context that no rollback restores (R46): the trap registers, the handler's scratch and the
task record's address. -/
structure Control where
  tv : Word64
  tpc : Word64
  tsw : Word64
  tcause : Word64
  tinfo : Word64
  tkeep0 : Word64
  tkeep1 : Word64
  tkrec : Word64
deriving DecidableEq, Repr

/-- A restart mark (R125): the point (pc, j), the slot at which issue j resumes, whether the point is the end point of an
end bundle, whether the pc was reached by a branch, the first token of a later producer, the recovery state, and the control
registers (R127: every register returns to its value at the mark). -/
structure Mark where
  pc : Word64
  j : Nat
  slot : Nat
  ended : Bool
  jumped : Bool
  tok : Nat
  live : Live
  ctl : Control
deriving DecidableEq, Repr

/-- A context (R16, R27, R39, R46). -/
structure Ctx where
  state : CtxState
  why : BlockWhy
  pc : Word64
  j : Nat
  slot : Nat
  ended : Bool
  jumped : Bool
  live : Live
  mark : Mark
  gate : List GateEnt
  vSince : List Nat
  arrivals : List Arrival
  tokNext : Nat
  deferred : List Deferred
  banked : FMap Armed
  ports : List PortEntry
  portsH : List PortEntry
  heldX : List MCmd
  bitmaps : FMap Word64
  tree : Tree
  ctl : Control
  seif : Nat
  region : Nat
  task : Nat
  given : Option Word64
  yielded : Bool
  /-- The bytes that the issue due reads ahead have arrived (R260). -/
  arrived : Bool
  /-- The issue due has blocked, so a deferred trap takes its place (R49). -/
  blocked : Bool
  /-- The handler that runs was entered from DRAINING (R49, R51). -/
  fromEnd : Bool
  /-- It has stopped at a mark for STOPMARK (R332). -/
  stopped : Bool
deriving DecidableEq, Repr

/-- A core (R12, R17, R42, R45). `ringOf` gives the current generation of a ring; `issuing` is 4 when no context issues. -/
structure Core where
  issuing : Nat
  last : Nat
  hbp : Word64
  hbTimer : Nat
  hbMiss : Nat
  cycBase : Nat
  banks : FMap Bank
  csets : FMap CSet
  rings : FMap Ring
  ringOf : FMap Nat
  ringNext : Nat
  rcache : FMap HReg
  istore : List Line
  mq : List MCmd
  mrun : Option MCmd
  tq : List TCmd
  fq : List FCmd
  copies : List CopyCmd
  seq : Nat
  region : Nat
  gated : Bool
  halting : Bool
deriving DecidableEq, Repr

/-- What a pre-empted partition has left in a core's hardpan slot, its scratchpad apart (R43, R333; log 15): the core, and its
contexts by index. The scratchpad's bytes stand in the hardpan's own addresses. -/
structure HardSlot where
  core : Core
  ctxs : FMap Ctx
deriving DecidableEq, Repr

/-- A physical compute die: its TLB, strata ring, sequence number, and whether it is lost (R328, R349, R358). -/
structure Die where
  tlb : List TlbEnt
  strata : List Strata
  strataSeq : Nat
  lost : Bool
deriving DecidableEq, Repr

/-- The read-modify-writes of R147 to R150; `sr` is the SR bit of ATFADD. -/
inductive AtomicKind where
  | add | sub | and | or | xor | min | max | swap | cas
  | fadd (sr : Bool)
  | adds
deriving DecidableEq, Repr

/-- An operation that performs with its issue, before the issue's gated stores (R126, R146, R153, R154): an atomic with its operands S[d] and
S[d + 1], its destination and token, an arrival or expected count for a barrier, and the task operations. -/
inductive EndOp where
  | atomic (kind : AtomicKind) (ea a b : Word64) (d tok cls : Nat)
  | barrier (ea : Word64) (act : BarrierAct)
  | post (record : Word64)
  | done (record : Word64) (status : Nat)
deriving DecidableEq, Repr

/-- The issue in progress (R121, R122): which context issues, the slot being performed and its issue index, the bundle's
address, the next bundle's, its repeat count and E bit, the registers as they stood at the start of the issue, from which
every slot reads; a branch taken and whether it disarms; whether the issue ends with a mark, whether TRET has left it, the
operation that its S slot has set to perform, and the detail of an H-slot write that failed its checks (R213). -/
structure Cursor where
  x : Nat
  slot : Nat
  k : Nat
  pc : Word64
  next : Word64
  rep : Nat
  isEnd : Bool
  j : Nat
  src : Live
  target : Option Word64
  disarm : Bool
  needMark : Bool
  left : Bool
  atEnd : Option EndOp
  hFail : Option Word64
deriving DecidableEq, Repr

end Sys2Proof.Machine
end

