-- ==== Sys2Proof/Machine/State.lean ====
section
/-! DEFINITION. Machine/State.lean: the state of a JXD8 module (R11 to R26, R27 to R57, R320, R339, R352 to R354), the
reasons a step can stop, the canonical form of memory, and the state after reset. -/

namespace Sys2Proof.Machine

/-- Memory by physical address, physical die x 2^49 + die-local offset (R25): HBM, vaults and scratchpads. -/
abbrev Memory := List Host.Cell

/-- What a byte of memory that nothing has written reads as (DESIGN CHOICE, log 1). -/
def unwritten : Byte := 0

/-- The canonical form of memory: addresses strictly rising, no listed byte equal to what an unlisted one reads as. -/
def Memory.wf (m : Memory) : Bool := fwf unwritten m

/-- Reasons a step stops. -/
inductive Fault where
  /-- An access by physical address that nothing answers. No operation of this model raises it: an access to memory that R25
  leaves unpopulated takes a page fault there (log 22). Safe: nothing is claimed of it. -/
  | unpopulated (addr : Nat)
deriving DecidableEq, Repr

/-- Reasons a step is refused. -/
inductive Refusal where
  /-- An instruction that has no meaning yet, by its mnemonic. Raised by Dispatch.lean only. Safe: nothing is claimed. -/
  | notModelled (mnemonic : String)
deriving DecidableEq, Repr

/-- The whole machine. -/
structure State where
  /-- Module power (R343). -/
  power : Bool
  /-- Cycles of the 1.1 GHz clock since power-on (R350). -/
  time : Nat
  /-- Sixteenths of a cycle that throttling has withheld and THROTCYC has still to count (R344, R354). -/
  withheld : Nat
  mem : Memory
  /-- Physical 8-byte words that hold uncorrectable data (R345, R346), by word number. -/
  poison : FMap Bool
  /-- Physical 8-byte words that hold one wrong bit, which their next read corrects (R345, R346), by word number. -/
  soft : FMap Bool
  /-- Rows of accumulator banks and counter sets that hold an error at rest (R345), by `arrayRow`: true where it is
  uncorrectable. -/
  arrayErr : FMap Bool
  /-- Scale tag in [7:0] and OVF in [8] of each 512-byte chunk of vault and HBM (R150), by chunk number. -/
  tags : FMap (BitVec 9)
  /-- The module registers by offset (R320, R339, R352 to R354), where they differ from their reset value. -/
  regs : FMap Word64
  dies : FMap Die
  cores : FMap Core
  ctxs : FMap Ctx
  /-- The hardpan slots in use, by core (R43, R333; log 15). -/
  hard : FMap HardSlot
  seifs : List Seif
  /-- The fault ring's next sequence number (R329). -/
  frSeq : Nat
  /-- Extends held while a report is under way (R342): register and digest. -/
  heldExtend : List (Nat × List Byte)
  /-- The measurement registers and nonce of the report under way (R342). -/
  attSnap : Option (List Byte)
  queue : List QEntry
  /-- Completion records since a queue's last interrupt (R321's ICOAL). -/
  coal : FMap Nat
  regions : List Region
  tasks : List TaskRec
  msgs : List SchedMsg
  /-- Cached logical-die table entries (R336), by logical die. -/
  ldtCache : FMap Word64
  /-- Logical dies whose entry has been dropped or overwritten and whose next LDTCTL GO may make a REMAP entry: the entry as it was
  (R336, R351). -/
  ldtOld : FMap Word64
  /-- This module's number in the logical-die table's pairs (R336; log 16). -/
  moduleNo : Nat
  /-- The link modules that are enabled (R318), one bit each. -/
  link : BitVec 4
  /-- Messages sent to the host (R319). -/
  hostOut : List HostMsg
  /-- Requests sent to other modules (R24, R93). -/
  fabricOut : List FabMsg
  /-- The next number for a region, a queue entry, a record, a message or a posting order. -/
  nextId : Nat
  /-- The issue in progress (R121, R122). -/
  cur : Cursor
  /-- The steps to come that have been named (log 3). -/
  agenda : List Event
  /-- The count of free values taken (log 7). -/
  fresh : Nat
deriving DecidableEq, Repr

/-- The control registers of a context at reset (R46; tkeep0, tkeep1, tv and tkrec: log 2). -/
def Control.init : Control :=
  { tv := 0, tpc := 0, tsw := 0, tcause := 0, tinfo := 0, tkeep0 := 0, tkeep1 := 0, tkrec := 0 }

/-- A mark at issue 0 of the bundle at 0. -/
def Mark.init : Mark := { pc := 0, j := 0, slot := 0, ended := false, jumped := false, tok := 1, live := Live.init,
                          ctl := Control.init }

/-- An IDLE context (R39), its registers at their dispatch values (log 2). -/
def Ctx.init : Ctx :=
  { state := .idle, why := .none, pc := 0, j := 0, slot := 0, ended := false, jumped := false,
    live := Live.init, mark := Mark.init, gate := [], vSince := [], arrivals := [], tokNext := 1, deferred := [],
    banked := [], ports := [], portsH := [], heldX := [], bitmaps := [], tree := Tree.init, ctl := Control.init, seif := 0,
    region := 0, task := 0, given := none, yielded := false, arrived := false, blocked := false, fromEnd := false,
    stopped := false }

/-- A core with no context issuing, no resource owned and nothing held (R12, R17, R42, R46, R214). -/
def Core.init : Core :=
  { issuing := 4, last := 3, hbp := 0, hbTimer := 0, hbMiss := 0, cycBase := 0, banks := [], csets := [], rings := [],
    ringOf := [], ringNext := 1, rcache := [], istore := [], mq := [], mrun := none, tq := [], fq := [], copies := [],
    seq := 0, region := 0, gated := false, halting := false }

/-- A die with an empty TLB and an empty strata ring (R328, R349). -/
def Die.init : Die := { tlb := [], strata := [], strataSeq := 0, lost := false }

/-- No issue in progress. -/
def Cursor.init : Cursor :=
  { x := 0, slot := 0, k := 0, pc := 0, next := 0, rep := 0, isEnd := false, j := 0, src := Live.init, target := none,
    disarm := false, needMark := false, left := false, atEnd := none, hFail := none }

/-- The machine just after power has been applied, before the boot ROM runs (R340): registers at their Reset column, every
core and context as above, memory with nothing listed. -/
def State.reset : State :=
  { power := true, time := 0, withheld := 0, mem := [], poison := [], soft := [], arrayErr := [], tags := [], regs := [], dies := [], cores := [], ctxs := [],
    hard := [], seifs := [], frSeq := 1, heldExtend := [], attSnap := none, queue := [], coal := [], regions := [], tasks := [], msgs := [],
    ldtCache := [], ldtOld := [], moduleNo := 0, link := 0xF, hostOut := [], fabricOut := [], nextId := 1,
    cur := Cursor.init, agenda := [], fresh := 0 }

end Sys2Proof.Machine
end

