-- ==== Sys2Proof/Machine/Regs.lean ====
section
/-! DEFINITION. Machine/Regs.lean: the module registers (R320, R321, R331, R332, R336, R339, R352 to R354): their offsets,
their reset values, and one home for reads and writes of each. -/

namespace Sys2Proof.Machine

/-- The reset value of a module register (the Reset columns of R320, R339, R352, R353); 0 where the spec gives none
(DESIGN CHOICE, log 2). -/
def regReset (off : Nat) : Word64 :=
  if off == 0 then 0x02010D08 else if 0x4200 ≤ off && off ≤ 0x4240 && off % 8 == 0 then 0xFFFFFF else 0

def rQBASE (q : Nat) : Nat := 0x1000 + 64 * q
def rQCTL (q : Nat) : Nat := 0x1008 + 64 * q
def rQTAIL (q : Nat) : Nat := 0x1010 + 64 * q
def rQHEAD (q : Nat) : Nat := 0x1018 + 64 * q
def rCBASE (q : Nat) : Nat := 0x1020 + 64 * q
def rCTAIL (q : Nat) : Nat := 0x1028 + 64 * q
def rCHEAD (q : Nat) : Nat := 0x1030 + 64 * q
def rQSTAT (q : Nat) : Nat := 0x1038 + 64 * q
def rFRBASE : Nat := 0x2000
def rFRCTL : Nat := 0x2008
def rFRTAIL : Nat := 0x2010
def rFRHEAD : Nat := 0x2018
def rFROVF : Nat := 0x2020
def rRESUME : Nat := 0x2100
def rTLBINV (d : Nat) : Nat := 0x2200 + 8 * d
def rPTDIR (d : Nat) : Nat := 0x2300 + 8 * d
def rDIRTY (d : Nat) : Nat := 0x2400 + 8 * d
def rSHTAB (d : Nat) : Nat := 0x2500 + 8 * d
def rSPILL (d : Nat) : Nat := 0x2600 + 8 * d
def rREGRCB : Nat := 0x2700
def rREGARG : Nat := 0x2708
def rREGBUF : Nat := 0x2710
def rREGCMD : Nat := 0x2718
def rLDTBASE : Nat := 0x2800
def rLDTCTL : Nat := 0x2808
def rBOOTCTL : Nat := 0x3000
def rBOOTIMG : Nat := 0x3008
def rBOOTLEN : Nat := 0x3010
def rMR (i w : Nat) : Nat := 0x3100 + 32 * i + 8 * w
def rEXTDIG (w : Nat) : Nat := 0x3200 + 8 * w
def rEXTCTL : Nat := 0x3220
def rATTBUF : Nat := 0x3300
def rATTCTL : Nat := 0x3308
def rNONCE (w : Nat) : Nat := 0x3320 + 8 * w
def rMCSTAT (d : Nat) : Nat := 0x3400 + 8 * d
def rTHROT : Nat := 0x3500
def rSTRCTL : Nat := 0x4000
def rSTRBUF : Nat := 0x4008
def rSTRSAVE : Nat := 0x4010
def rDIECTL (d : Nat) : Nat := 0x4100 + 8 * d
def rCOREMASK (d : Nat) : Nat := 0x4200 + 8 * d
def rTEL (d k : Nat) : Nat := 0x4400 + 64 * d + 8 * k
def rTELCLR : Nat := 0x4800

/-- Read a module register. -/
def State.reg (s : State) (off : Nat) : Word64 := fget (regReset off) s.regs off

/-- A module register as a number. -/
def State.regN (s : State) (off : Nat) : Nat := (s.reg off).toNat

/-- Bits [hi:lo] of a module register. -/
def State.regF (s : State) (off hi lo : Nat) : Nat := fld (s.regN off) hi lo

/-- Set a module register. -/
def State.setReg (s : State) (off : Nat) (v : Word64) : State :=
  { s with regs := fset (regReset off) s.regs off v }

/-- Replace bits [hi:lo] of a number. -/
def putFld (w hi lo v : Nat) : Nat := w - fld w hi lo * 2 ^ lo + v % 2 ^ (hi + 1 - lo) * 2 ^ lo

/-- Set bits [hi:lo] of a module register. -/
def State.setRegF (s : State) (off hi lo v : Nat) : State := s.setReg off (n64 (putFld (s.regN off) hi lo v))

/-- Count an event in a telemetry counter, saturating (R354). -/
def State.count (s : State) (d k : Nat) : State :=
  let v := s.regN (rTEL d k)
  s.setReg (rTEL d k) (n64 (if v + 1 < 2 ^ 64 then v + 1 else v))

/-- BOOTCTL.STATE (R339). -/
def State.bootState (s : State) : Nat := s.regF rBOOTCTL 7 4

/-- The die is active (R11, R340, R353): after READY a powered die; before it, dies 0 to 7. A lost die is left out (R358). -/
def State.dieActive (s : State) (d : Nat) : Bool :=
  d ≤ 8 && !(fget Die.init s.dies d).lost &&
    s.regF (rMCSTAT d) 3 0 != 4 && (if s.bootState == 4 then bitAt (s.regN (rDIECTL d)) 0 else d ≤ 7)

/-- The lead die: the active die with the lowest number (R11). -/
def State.lead (s : State) : Nat := ((upTo 9).find? s.dieActive).getD 0

/-- The offsets that R320, R339, R352 to R354 list. -/
def regListed (off : Nat) : Bool :=
  off % 8 == 0 &&
    (off == 0 || (0x1000 ≤ off && off < 0x2000) || (0x2000 ≤ off && off ≤ 0x2020) || off == 0x2100 ||
     (0x2200 ≤ off && off ≤ 0x2240) || (0x2300 ≤ off && off ≤ 0x2340) || (0x2400 ≤ off && off ≤ 0x2440) ||
     (0x2500 ≤ off && off ≤ 0x2540) || (0x2600 ≤ off && off ≤ 0x2640) || (0x2700 ≤ off && off ≤ 0x2718) ||
     off == 0x2800 || off == 0x2808 || (0x3000 ≤ off && off ≤ 0x3010) || (0x3100 ≤ off && off < 0x3200) ||
     (0x3200 ≤ off && off ≤ 0x3218) || off == 0x3220 || off == 0x3300 || off == 0x3308 ||
     (0x3320 ≤ off && off ≤ 0x3338) || (0x3400 ≤ off && off ≤ 0x3440) || off == 0x3500 ||
     (0x4000 ≤ off && off ≤ 0x4010) || (0x4100 ≤ off && off ≤ 0x4140) || (0x4200 ≤ off && off ≤ 0x4240) ||
     (0x4400 ≤ off && off < 0x4640) || off == 0x4800)

/-- The bits of a register that a write sets directly (RW), where the write has no behaviour of its own. -/
def regWritable (off : Nat) : Nat :=
  let all := 2 ^ 64 - 1
  if 0x1000 ≤ off && off < 0x2000 then
    match off % 64 with
    | 0x00 => all
    | 0x08 => 0x3FFFFF
    | 0x10 => all
    | 0x20 => all
    | 0x30 => all
    | _ => 0
  else if off == 0x2000 || off == 0x2018 then all
  else if off == 0x2008 then 0xFFF
  else if 0x2300 ≤ off && off ≤ 0x2640 then all
  else if off == 0x2700 || off == 0x2710 || off == 0x2800 then all
  else if off == 0x2708 then 0x7F0FFF
  else if off == 0x3008 || off == 0x3010 || (0x3200 ≤ off && off ≤ 0x3218) || off == 0x3300 ||
      (0x3320 ≤ off && off ≤ 0x3338) || off == 0x4008 || off == 0x4010 then all
  else if off == 0x3308 then 0x1FC
  else if off == 0x3500 then 0xFFF
  else if off == 0x4000 then 0x1FE
  else if 0x4100 ≤ off && off ≤ 0x4140 then 1
  else if 0x4200 ≤ off && off ≤ 0x4240 then 0xFFFFFF
  else 0

/-- A register whose contents are never read back (WO): RESUME, EXTDIG, NONCE, TELCLR. -/
def regWriteOnly (off : Nat) : Bool :=
  off == 0x2100 || (0x3200 ≤ off && off ≤ 0x3218) || (0x3320 ≤ off && off ≤ 0x3338) || off == 0x4800

/-- What a register read returns (R320): zero where nothing is listed or the register is write-only. -/
def State.regRead (s : State) (off : Nat) : Word64 :=
  if regListed off && !regWriteOnly off then s.reg off else 0

end Sys2Proof.Machine
end

