-- ==== Sys2Proof/Machine/Op.lean ====
section
/-! DEFINITION. Machine/Op.lean: the effect type of the machine's operations and the accessors of contexts, cores and dies.
An operation either delivers a value and a next state, or ends the issue: by a trap (R48), by a block (R37), by a refusal of
an owner (R127), by a stall in which an engine must first make progress (R99, R232, R261), or by a fault of the model. -/

namespace Sys2Proof.Machine

/-- Trap causes (R48). -/
def cILLEGAL : Nat := 1
def cBADTARGET : Nat := 2
def cBADSTATUS : Nat := 3
def cEMPTY : Nat := 4
def cSHAPE : Nat := 5
def cUNALLOC : Nat := 6
def cACCESS : Nat := 7
def cDEPTH : Nat := 8
def cLPRANGE : Nat := 9
def cMALCOORD : Nat := 10
def cFPX : Nat := 11
def cPOISON : Nat := 12
def cALIGN : Nat := 13
def cPRIV : Nat := 14
def cSWTRAP : Nat := 15

/-- A trap on its way to entry (R49, R50): cause, detail, the slot field of tcause, DEF, and what tpc, SLOTRES and REPLEFT
will hold. -/
structure TrapInfo where
  cause : Nat
  info : Word64
  slotField : Nat
  deferred : Bool
  tpc : Word64
  slotRes : Nat
  repLeft : Nat
deriving DecidableEq, Repr

/-- A refused access as the fault ring records it (R329). -/
structure Refused where
  va : Word64
  reason : Nat
  acc : Nat
  src : Nat
  cls : Nat
  asid : Nat
  pdie : Nat
  core : Nat
  ctx : Nat
  cid : Nat
deriving DecidableEq, Repr

/-- The unit that must make progress before an issue can go on. -/
inductive Unit3 where
  | tree | matrix | copy
deriving DecidableEq, Repr

/-- How an operation ends an issue. -/
inductive Exit where
  | trap (t : TrapInfo)
  | block (why : BlockWhy)
  | refuse (r : Refused)
  | stall (u : Unit3)
  | fault (f : Fault)
deriving DecidableEq, Repr

/-- An operation on the machine. -/
abbrev Op (α : Type) := EStateM Exit State α

/-! ### Contexts, cores and dies -/

/-- The core of a context key. -/
def coreOf (x : Nat) : Nat := x / 4

/-- The die of a context key. -/
def dieOf (x : Nat) : Nat := x / 96

/-- The die of a core key. -/
def dieOfCore (c : Nat) : Nat := c / 24

def State.ctx (s : State) (x : Nat) : Ctx := fget Ctx.init s.ctxs x
def State.core (s : State) (c : Nat) : Core := fget Core.init s.cores c
def State.die (s : State) (d : Nat) : Die := fget Die.init s.dies d

def State.setCtx (s : State) (x : Nat) (c : Ctx) : State := { s with ctxs := fput s.ctxs x c }
def State.setCore (s : State) (k : Nat) (c : Core) : State := { s with cores := fput s.cores k c }
def State.setDie (s : State) (d : Nat) (v : Die) : State := { s with dies := fput s.dies d v }

def State.modCtx (s : State) (x : Nat) (f : Ctx → Ctx) : State := s.setCtx x (f (s.ctx x))
def State.modCore (s : State) (k : Nat) (f : Core → Core) : State := s.setCore k (f (s.core k))
def State.modDie (s : State) (d : Nat) (f : Die → Die) : State := s.setDie d (f (s.die d))

/-- The issuing context of the issue in progress. -/
def State.cctx (s : State) : Ctx := s.ctx s.cur.x

/-- The core of the issuing context. -/
def State.ccore (s : State) : Core := s.core (coreOf s.cur.x)

/-- Change the issuing context. -/
def modC (f : Ctx → Ctx) : Op Unit := modify fun s => s.modCtx s.cur.x f

/-- Change the live part of the issuing context. -/
def modL (f : Live → Live) : Op Unit := modC fun c => { c with live := f c.live }

/-- Change the core of the issuing context. -/
def modK (f : Core → Core) : Op Unit := modify fun s => s.modCore (coreOf s.cur.x) f

/-- Change the cursor. -/
def modCur (f : Cursor → Cursor) : Op Unit := modify fun s => { s with cur := f s.cur }

/-- Take the next free number (log 7). -/
def nextFree : Op Nat := modifyGet fun s => (s.fresh, { s with fresh := s.fresh + 1 })

/-- The ASID of a context's region (R325). -/
def State.asidOf (s : State) (x : Nat) : Nat :=
  match s.regions.find? (fun r => r.id == (s.ctx x).region) with
  | some r => r.asid
  | none => 0

/-- Handler mode (R47). -/
def Ctx.handler (c : Ctx) : Bool := bitAt c.live.sw.toNat 2

/-- Raise a trap at the current slot (R49, R128). -/
def trapAt {α : Type} (cause : Nat) (info : Word64) : Op α := fun s =>
  .error (.trap { cause := cause, info := info, slotField := s.cur.slot, deferred := false, tpc := s.cur.pc,
                  slotRes := s.cur.slot, repLeft := s.cur.rep - s.cur.j }) s

/-- Fold over a list with a state-changing function. -/
def forEach {α : Type} (l : List α) (f : α → Op Unit) : Op Unit :=
  match l with
  | [] => pure ()
  | a :: as => do f a; forEach as f

/-- Map a list with a state-changing function, in order. -/
def mapEach {α β : Type} (l : List α) (f : α → Op β) : Op (List β) :=
  match l with
  | [] => pure []
  | a :: as => do
    let b ← f a
    let bs ← mapEach as f
    pure (b :: bs)

/-! ### Records of events (R329, R330, R349 to R352) -/

/-- Bytes of a strata entry (R350). -/
def Strata.bytes (e : Strata) : List Byte :=
  toBytes 8 e.time ++ toBytes 4 e.seq ++ toBytes 1 e.kind ++ toBytes 1 (b2n e.fatal) ++ toBytes 1 e.core ++
    toBytes 1 e.ctx ++ (e.detail ++ List.replicate 48 0).take 48

/-- Send a message to the host (R319). -/
def State.send (s : State) (m : HostMsg) : State := { s with hostOut := s.hostOut ++ [m] }

/-- Send an interrupt (R319). -/
def State.irq (s : State) (vec : Nat) : State := s.send { type := 8, addr := vec, tag := 0, data := [] }

/-- Make a strata entry on a die (R349, R350): the ring keeps the newest 4,096. SDC and HBLOSS entries send the interrupt of
STRCTL (R352). -/
def State.strataAdd (s : State) (d kind : Nat) (fatal : Bool) (core ctx : Nat) (detail : List Byte) : State :=
  let s := s.modDie d fun v =>
    let e : Strata := { time := s.time, seq := v.strataSeq, kind := kind, fatal := fatal, core := core, ctx := ctx,
                        detail := detail }
    { v with strata := (v.strata ++ [e]).drop (v.strata.length + 1 - 4096), strataSeq := (v.strataSeq + 1) % 2 ^ 32 }
  if (kind == 2 || kind == 3) && bitAt (s.regN rSTRCTL) 1 then s.irq (s.regF rSTRCTL 7 2) else s

end Sys2Proof.Machine
end

