-- ==== Sys2Proof/Machine/Mem.lean ====
section
/-! DEFINITION. Machine/Mem.lean: physical memory (R18, R20, R25), uncorrectable words (R345, R346), the logical-die table
(R24, R26, R336), the page walk and the memory-side TLB (R327, R328), and accesses by virtual address. Every access is
performed at one point, in program order (log 5). -/

namespace Sys2Proof.Machine

/-! ### Physical addresses -/

/-- Physical address of a die-local offset. -/
def physOf (pdie off : Nat) : Nat := pdie * 2 ^ 49 + off

/-- The physical die of a physical address. -/
def pdieOf (pa : Nat) : Nat := pa / 2 ^ 49

/-- The die-local offset of a physical address. -/
def offOf (pa : Nat) : Nat := pa % 2 ^ 49

def windowBase : Nat := 0x1800000000000
def vaultBase : Nat := 0x1000000000000

/-- An offset in the HBM stack (R25). -/
def inHbm (o : Nat) : Bool := o < 2 ^ 36

/-- An offset in the visible part of a vault (R20, R25). -/
def inVault (o : Nat) : Bool := vaultBase ≤ o && o < vaultBase + 0x20000000 && o % 0x2000000 < 0x1200000

/-- An offset in the populated part of a scratchpad window (R25). -/
def inWindow (o : Nat) : Bool := windowBase ≤ o && o < windowBase + 24 * 0x400000 && o % 0x400000 < 0x300000

/-- The physical address names memory (R25). -/
def populated (pa : Nat) : Bool := pdieOf pa ≤ 8 && (inHbm (offOf pa) || inVault (offOf pa) || inWindow (offOf pa))

/-- The core key of a window address. -/
def windowCore (pa : Nat) : Nat := 24 * pdieOf pa + (offOf pa - windowBase) / 0x400000

/-- The physical address of scratchpad byte 0 of a core. -/
def scratchBase (c : Nat) : Nat := physOf (c / 24) (windowBase + c % 24 * 0x400000)

/-! ### Hardpan (R20, R26, R333) -/

/-- The physical address of byte `o` of a core's hardpan slot (R333): the share of 6 MB at the top of each vault, in vault order. -/
def hardPhys (c o : Nat) : Nat :=
  let h := c % 24 * 0x400000 + o
  physOf (c / 24) (vaultBase + h / 0x600000 * 0x2000000 + 0x1200000 + h % 0x600000)

/-- An offset in the hardpan part of a vault. -/
def inHard (o : Nat) : Bool :=
  vaultBase ≤ o && o < vaultBase + 0x20000000 && 0x1200000 ≤ o % 0x2000000 && o % 0x2000000 < 0x1800000

/-- The hardpan byte at an offset. -/
def hardByte (o : Nat) : Nat := (o - vaultBase) / 0x2000000 * 0x600000 + (o % 0x2000000 - 0x1200000)

/-- An offset in a scratchpad, or in the copy of one in hardpan. -/
def inScratch (o : Nat) : Bool := inWindow o || inHard o

/-- The offset that a program knows: for a scratchpad's copy in hardpan, that of its window (R44). -/
def programOff (o : Nat) : Nat :=
  if inHard o then windowBase + hardByte o / 0x400000 * 0x400000 + hardByte o % 0x400000 else o

/-! ### Bytes -/

/-- A byte of memory. -/
def State.byte (s : State) (pa : Nat) : Byte := fget unwritten s.mem pa

/-- `n` bytes from `pa` on. -/
def State.bytes (s : State) (pa n : Nat) : List Byte := (upTo n).map fun i => s.byte (pa + i)

/-- `n` bytes as a little-endian number (R4). -/
def State.memN (s : State) (pa n : Nat) : Nat := ofBytes (s.bytes pa n)

/-- Write bytes from `pa` on into a memory. -/
def memPut (m : Memory) (pa : Nat) : List Byte → Memory
  | [] => m
  | b :: bs => memPut (fset unwritten m pa b) (pa + 1) bs

/-- A word of the range [pa, pa + n) holds uncorrectable data. -/
def State.poisoned (s : State) (pa n : Nat) : Bool := s.poison.any fun (w, b) => b && w * 8 < pa + n && pa < w * 8 + 8

/-- Write bytes. The ECC of a word that is written whole is computed anew (R345; log 14). -/
def State.write (s : State) (pa : Nat) (bs : List Byte) : State :=
  let whole := fun (w : Nat) => pa ≤ w * 8 && w * 8 + 8 ≤ pa + bs.length
  { s with
    mem := memPut s.mem pa bs
    poison := s.poison.filter fun (w, _) => !whole w
    soft := s.soft.filter fun (w, _) => !whole w }

/-- Mark the words of a range as uncorrectable. -/
def State.poisonWords (s : State) (pa n : Nat) : State :=
  { s with
    poison := (upTo ((pa + n + 7) / 8 - pa / 8)).foldl (fun p i => fset false p (pa / 8 + i) true) s.poison }

/-- Set the dirty bit of the page of a physical address (R327). -/
def State.markDirty (s : State) (pa : Nat) : State :=
  let p := programOff (offOf pa) / 65536
  let a := physOf (pdieOf pa) (s.regN (rDIRTY (pdieOf pa)) + p / 8)
  s.write a [s.byte a ||| BitVec.ofNat 8 (2 ^ (p % 8))]

/-! ### The check of a read (R345, R346) -/

/-- Where a physical address lies, for an ECC entry (R351): 0 scratchpad, 1 vault, 2 HBM. -/
def eccWhere (pa : Nat) : Nat := if inHbm (offOf pa) then 2 else if inVault (offOf pa) then 1 else 0

/-- Telemetry counters (R354). -/
def telECCCOR : Nat := 0
def telECCUNC : Nat := 1
def telCRCRETRY : Nat := 2
def telLINKRETRY : Nat := 3
def telSDCWIT : Nat := 4
def telSDCCHK : Nat := 5
def telHBLOSS : Nat := 6
def telTHROTCYC : Nat := 7

/-- An uncorrectable word has been read (R346): ECCUNC of its die counts it and an ECC entry is made. -/
def State.eccEvent (s : State) (pa : Nat) : State :=
  (s.count (pdieOf pa) telECCUNC).strataAdd (pdieOf pa) 5 false 0xFF 0xFF (toBytes 8 (eccWhere pa) ++ toBytes 8 pa)

/-- The words of a range that hold one wrong bit are corrected in place, and ECCCOR of the die counts each (R346). -/
def State.eccCorrect (s : State) (pa n : Nat) : State :=
  let here := s.soft.filter fun (w, b) => b && w * 8 < pa + n && pa < w * 8 + 8
  here.foldl (fun t (w, _) => ({ t with soft := fdel t.soft w } : State).count (pdieOf pa) telECCCOR) s

/-- The ECC of a range is verified as it is read (R345, R346). -/
def State.eccRead (s : State) (pa n : Nat) : State :=
  let t := s.eccCorrect pa n
  if s.poisoned pa n then t.eccEvent pa else t

/-- A read that meets no wrong bit changes nothing. -/
theorem State.eccRead_clean {s : State} {pa n : Nat} (hs : s.soft = []) (hp : s.poisoned pa n = false) :
    s.eccRead pa n = s := by
  simp [State.eccRead, State.eccCorrect, hs, hp]

/-- A write performed through a translation: the bytes and the dirty bit of their page (R327). -/
def State.writeMapped (s : State) (pa : Nat) (bs : List Byte) : State := (s.markDirty pa).write pa bs

/-! ### Requests -/

/-- Who makes an access, as the fault ring names it (R329), and whether it carries the shadow mark (R218). -/
structure Req where
  asid : Nat
  src : Nat
  cls : Nat
  pdie : Nat
  core : Nat
  ctx : Nat
  cid : Nat
  shadow : Bool
deriving DecidableEq, Repr

/-- Access kinds of R329. -/
def accRead : Nat := 0
def accWrite : Nat := 1
def accAtomic : Nat := 2
def accFetch : Nat := 3
def accPublish : Nat := 4

/-- A request of a context. -/
def State.reqOf (s : State) (x src cls : Nat) : Req :=
  { asid := s.asidOf x, src := src, cls := cls, pdie := dieOf x, core := coreOf x % 24, ctx := x % 4, cid := 0xFF,
    shadow := false }

/-- Where an access lands: memory of this module, or a die of another module. -/
inductive Place where
  | here (pa : Nat)
  | away (modl pdie : Nat)
deriving DecidableEq, Repr

/-- Refuse an access (R329's reasons). -/
def refuse {α : Type} (rq : Req) (acc reason : Nat) (va : Word64) : Op α :=
  throw (.refuse { va := va, reason := reason, acc := acc, src := rq.src, cls := rq.cls, asid := rq.asid,
                   pdie := rq.pdie, core := rq.core, ctx := rq.ctx, cid := rq.cid })

/-- An 8-byte word of a table in memory that the device reads. -/
def tableWord (pa : Nat) : Op Nat := do
  let s ← get
  set (s.eccRead pa 8)
  pure (s.memN pa 8)

/-- The logical-die table entry of a logical die (R336): the cached one, else the one in memory, which is then cached. The
reserved bits of an entry are ignored (DESIGN CHOICE, log 22). -/
def ldtLookup (l : Nat) : Op Word64 := do
  let s ← get
  match fget? s.ldtCache l with
  | some e => pure e
  | none => do
    let e := n64 (← tableWord (physOf s.lead (s.regN rLDTBASE + 8 * l)))
    if bitAt e.toNat 0 then modify fun s => { s with ldtCache := fput s.ldtCache l e } else pure ()
    pure e

/-- The pages a TLB holds before it replaces one (log 17). -/
def tlbSize : Nat := 4096

/-- Install a translation (R328); a full TLB replaces an entry of the die's choosing (log 8). -/
def tlbInstall (d : Nat) (e : TlbEnt) : Op Unit := do
  let s ← get
  let v := s.die d
  if v.tlb.length < tlbSize then set (s.setDie d { v with tlb := v.tlb ++ [e] })
  else do
    let n ← nextFree
    modify fun s => s.setDie d { v with tlb := v.tlb.eraseIdx (Config.victim n % tlbSize) ++ [e] }

/-- A leaf entry is well formed (R327): reserved bits zero, the frame of a 2 MB leaf aligned, two sets only at level 4. -/
def leafOk (big : Bool) (e : Nat) : Bool :=
  fld e 15 7 == 0 && (bitAt e 4 || fld e 63 49 == 0) && (!big || (fld e 20 16 == 0 && !bitAt e 4))

/-- The page walk (R327): the leaf entry, whether it is a 2 MB leaf, and its address. -/
def walk (rq : Req) (acc d : Nat) (off : Nat) (va : Word64) : Op TlbEnt := do
  let s ← get
  let dir ← tableWord (physOf d (s.regN (rPTDIR d) + 8 * rq.asid))
  if !bitAt dir 0 then refuse rq acc 8 va
  else if fld dir 12 1 != 0 || fld dir 63 49 != 0 then refuse rq acc 5 va
  else do
    let a1 := fld dir 48 13 * 2 ^ 13 + 8 * fld off 48 39
    let e1 ← tableWord (physOf d a1)
    if !bitAt e1 0 then refuse rq acc 1 va
    else if bitAt e1 1 || fld e1 63 49 != 0 || fld e1 11 8 != 0 then refuse rq acc 5 va
    else do
      let a2 := fld e1 48 12 * 2 ^ 12 + 8 * fld off 38 30
      let e2 ← tableWord (physOf d a2)
      if !bitAt e2 0 then refuse rq acc 1 va
      else if bitAt e2 1 || fld e2 63 49 != 0 || fld e2 11 8 != 0 then refuse rq acc 5 va
      else do
        let a3 := fld e2 48 12 * 2 ^ 12 + 8 * fld off 29 21
        let e3 ← tableWord (physOf d a3)
        if !bitAt e3 0 then refuse rq acc 1 va
        else if bitAt e3 1 then
          if leafOk true e3 then
            pure { asid := rq.asid, page := off / 2 ^ 21 * 32, leaf := n64 e3, big := true, addr := physOf d a3 }
          else refuse rq acc 5 va
        else if fld e3 63 49 != 0 then refuse rq acc 5 va
        else do
          let a4 := fld e3 48 8 * 2 ^ 8 + 8 * fld off 20 16
          let e4 ← tableWord (physOf d a4)
          if !bitAt e4 0 then refuse rq acc 1 va
          else if leafOk false e4 then
            pure { asid := rq.asid, page := off / 2 ^ 16, leaf := n64 e4, big := false, addr := physOf d a4 }
          else refuse rq acc 5 va

/-- A TLB entry covers a page. -/
def TlbEnt.covers (e : TlbEnt) (asid page : Nat) : Bool :=
  e.asid == asid && (if e.big then e.page == page / 32 * 32 else e.page == page)

/-- The translation of a die-local offset: from the TLB, or by a walk whose result is then held (R328). -/
def tlbLookup (rq : Req) (acc d off : Nat) (va : Word64) : Op TlbEnt := do
  let s ← get
  match (s.die d).tlb.find? (·.covers rq.asid (off / 65536)) with
  | some e => pure e
  | none => do
    let e ← walk rq acc d off va
    tlbInstall d e
    pure e

/-- The physical address that a leaf gives an offset, for the visible or the invisible set; a page of one set, as every 2 MB page
is, refuses the shadow mark (R218, R327, R329). -/
def leafPhys (rq : Req) (acc d off : Nat) (va : Word64) (e : TlbEnt) (shadow : Bool) : Op Nat := do
  let w := e.leaf.toNat
  if e.big then
    if shadow then refuse rq acc 4 va else pure (physOf d (fld w 48 21 * 2 ^ 21 + off % 2 ^ 21))
  else if !bitAt w 4 then
    if shadow then refuse rq acc 4 va else pure (physOf d (fld w 48 16 * 2 ^ 16 + off % 2 ^ 16))
  else if bitAt w 5 == shadow then pure (physOf d (fld w 48 16 * 2 ^ 16 + off % 2 ^ 16))
  else do
    let s ← get
    let f ← tableWord (physOf d (s.regN (rSHTAB d) + 8 * fld w 63 49))
    if fld f 15 0 != 0 || fld f 63 49 != 0 then refuse rq acc 5 va
    else pure (physOf d (fld f 48 16 * 2 ^ 16 + off % 2 ^ 16))

/-- A window address whose core is power-gated refuses (R26); the cores of a die without power are held in reset, and `translate`
and the host's accesses refuse them before. -/
def windowRefuses (s : State) (pa : Nat) : Bool := inWindow (offOf pa) && (s.core (windowCore pa)).gated

/-- The ASID of a region. -/
def State.regionAsid (s : State) (r : Nat) : Option Nat := (s.regions.find? (·.id == r)).map (·.asid)

/-- Where a window access is served from the copy in hardpan (R26, R44): the core's partition is pre-empted, and either no
region is resident on the core or the request's address space is the pre-empted region's and not the resident one's (log 15). -/
def State.hardServes (s : State) (asid pa : Nat) : Option Nat :=
  if !inWindow (offOf pa) then none
  else
    let k := windowCore pa
    match fget? s.hard k with
    | none => none
    | some h =>
      let r := (s.core k).region
      if r == 0 || (s.regionAsid h.core.region == some asid && s.regionAsid r != some asid) then
        some (hardPhys k ((offOf pa - windowBase) % 0x400000))
      else none

/-- An access to a die that serves none (R26, R329, R358): a lost die refuses with reason 6. A die of this module without power
(PWR = 0, the reserve, or a failed one) has its cores held in reset, so its scratchpad windows refuse with reason 7; for its vaults
and HBM, of which the spec says nothing, the model refuses with reason 6 (DESIGN CHOICE, log 23). -/
def State.dieRefuses (s : State) (d off : Nat) : Option Nat :=
  if d > 8 || (s.die d).lost then some 6 else if s.dieActive d then none else some (if inWindow off then 7 else 6)

/-- Translate a virtual address (R24, R26, R327): the page must be valid and allow the access; a frame that R25 leaves
unpopulated refuses as a malformed entry (log 23). -/
def translate (rq : Req) (acc : Nat) (va : Word64) : Op Place := do
  let l := va.toNat / 2 ^ 49
  let off := va.toNat % 2 ^ 49
  let e ← ldtLookup l
  let s ← get
  if !bitAt e.toNat 0 then refuse rq acc 6 va
  else if fld e.toNat 12 1 != s.moduleNo then pure (.away (fld e.toNat 12 1) (fld e.toNat 16 13))
  else
    let d := fld e.toNat 16 13
    match s.dieRefuses d off with
    | some r => refuse rq acc r va
    | none => do
      let t ← tlbLookup rq acc d off va
      let w := t.leaf.toNat
      if (acc == accWrite || acc == accAtomic) && !bitAt w 2 then refuse rq acc 2 va
      else if acc == accFetch && !bitAt w 3 then refuse rq acc 3 va
      else do
        let pa ← leafPhys rq acc d off va t rq.shadow
        let s ← get
        if !populated pa then refuse rq acc 5 va
        else
          match s.hardServes rq.asid pa with
          | some ha => pure (.here ha)
          | none => if windowRefuses s pa then refuse rq acc 7 va else pure (.here pa)

/-- How an address is classed (R134): a core-local scratchpad byte, the hole above the scratchpad, or virtual. -/
inductive AddrClass where
  | scratch (a : Nat)
  | hole
  | virt
deriving DecidableEq, Repr

def classify (ea : Word64) : AddrClass :=
  if ea.toNat < 0x300000 then .scratch ea.toNat else if ea.toNat < 0x400000 then .hole else .virt

/-- Where an access by effective address lands, for a core. The hole is refused by the callers before. -/
def locate (rq : Req) (acc c : Nat) (ea : Word64) : Op Place :=
  match classify ea with
  | .scratch a => pure (.here (scratchBase c + a))
  | .hole => pure (.here (scratchBase c + ea.toNat))
  | .virt => translate rq acc ea

/-- The address is translated, so a write sets the dirty bit. -/
def isVirt (ea : Word64) : Bool := ea.toNat ≥ 0x400000

/-- Bytes read at a place, with whether they hold uncorrectable data, which is an event (R346); another module's bytes are free (log 9). -/
def readPlace (rq : Req) (va : Word64) (p : Place) (n : Nat) : Op (List Byte × Bool) := do
  match p with
  | .here pa => do
    let s ← get
    set (s.eccRead pa n)
    pure (s.bytes pa n, s.poisoned pa n)
  | .away m d => do
    modify fun s => { s with fabricOut := s.fabricOut ++
      [{ modl := m, pdie := d, asid := rq.asid, va := va, kind := accRead, data := [] }] }
    let bs ← mapEach (upTo n) fun _ => do
      let k ← nextFree
      pure (Config.remoteByte k)
    pure (bs, false)

/-- Bytes written at a place. -/
def writePlace (rq : Req) (va : Word64) (p : Place) (bs : List Byte) (mapped : Bool) : Op Unit :=
  match p with
  | .here pa => modify fun s => if mapped then s.writeMapped pa bs else s.write pa bs
  | .away m d => modify fun s => { s with fabricOut := s.fabricOut ++
      [{ modl := m, pdie := d, asid := rq.asid, va := va, kind := accWrite, data := bs }] }

/-- Read `n` bytes at a virtual address, byte order by address, one translation for each 64 KB page. -/
def readVirt (rq : Req) (va : Word64) (n : Nat) : Op (List Byte × Bool) := do
  let p ← translate rq accRead va
  readPlace rq va p n

/-- Read `n` bytes that lie in one page by effective address. -/
def readEa (rq : Req) (c : Nat) (ea : Word64) (n : Nat) : Op (List Byte × Bool) := do
  let p ← locate rq accRead c ea
  readPlace rq ea p n

/-- Write bytes that lie in one page by effective address. -/
def writeEa (rq : Req) (c : Nat) (ea : Word64) (bs : List Byte) : Op Unit := do
  let p ← locate rq accWrite c ea
  writePlace rq ea p bs (isVirt ea)

/-- Split a range into pieces that do not cross a 64-byte boundary: offset from the start and length. -/
def pieces : Nat → Nat → Nat → List (Nat × Nat)
  | 0, _, _ => []
  | fuel + 1, a, n =>
    if n == 0 then []
    else
      let k := min n (64 - a % 64)
      (a, k) :: pieces fuel (a + k) (n - k)

/-- Read any range by effective address. -/
def readRange (rq : Req) (c : Nat) (ea : Word64) (n : Nat) : Op (List Byte × Bool) := do
  let ps ← mapEach (pieces (n / 64 + 2) ea.toNat n) fun (a, k) => readEa rq c (n64 a) k
  pure (ps.flatMap (·.1), ps.any (·.2))

/-- Write any range by effective address. -/
def writeRange (rq : Req) (c : Nat) (ea : Word64) (bs : List Byte) : Op Unit :=
  forEach (pieces (bs.length / 64 + 2) ea.toNat bs.length) fun (a, k) =>
    writeEa rq c (n64 a) ((bs.drop (a - ea.toNat)).take k)

/-- The physical address of a host-form address (R319); bits above [52:0] make it name no memory. -/
def hostPhys (a : Word64) : Nat := a.toNat

/-- Run an operation and tell whether it was refused. -/
def tryOp {α : Type} (op : Op α) : Op (Except Refused α) := fun s =>
  match op s with
  | .ok a s' => .ok (.ok a) s'
  | .error (.refuse r) s' => .ok (.error r) s'
  | .error e s' => .error e s'

end Sys2Proof.Machine
end

