-- ==== Sys2Proof/Machine/Barrier.lean ====
section
/-! DEFINITION. Machine/Barrier.lean: barriers in memory (R54, R55), the fault ring (R329, R330) and undeliverable arrivals
(R34, R56, R221). -/

namespace Sys2Proof.Machine

/-- A field of a record's bytes. -/
def recFld (bs : List Byte) (off n : Nat) : Nat := ofBytes ((bs.drop off).take n)

/-! ### The fault ring -/

/-- A fault ring record without its sequence number and place (R329). -/
structure FaultRec where
  va : Word64
  kind : Nat
  reason : Nat
  access : Nat
  cls : Nat
  asid : Nat
  pdie : Nat
  core : Nat
  ctx : Nat
  cid : Nat
  parked : Bool
deriving DecidableEq, Repr

/-- The 64 bytes of a fault ring record (R329). -/
def FaultRec.bytes (r : FaultRec) (seq : Nat) : List Byte :=
  toBytes 8 r.va.toNat ++ toBytes 4 seq ++ toBytes 1 r.kind ++ toBytes 1 r.reason ++ toBytes 1 r.access ++
    toBytes 1 r.cls ++ toBytes 2 r.asid ++ toBytes 1 r.pdie ++ toBytes 1 r.core ++ toBytes 1 r.ctx ++ toBytes 1 r.cid ++
    toBytes 1 (b2n r.parked) ++ List.replicate 41 0

/-- A ring of 2^n records has room: the next index after the tail is not the head (log 20). -/
def ringRoom (n tail head : Nat) : Bool := (tail + 1) % 2 ^ n != head % 2 ^ n

/-- A record that finds no room is dropped and counted; each multiple of 64 makes an entry (R330, R351). -/
def State.faultDropped (s : State) : State :=
  let n := s.regN rFROVF + 1
  let s := s.setReg rFROVF (n64 n)
  if n % 64 == 0 then s.strataAdd s.lead 6 false 0xFF 0xFF (toBytes 8 n) else s

/-- Post a record to the module's fault ring (R329, R330). A ring whose size FRCTL does not allow has no room (log 20). -/
def faultPost (r : FaultRec) : Op Unit := do
  let s ← get
  let n := s.regF rFRCTL 4 0
  let tail := s.regN rFRTAIL
  let head := s.regN rFRHEAD
  let pa := s.regN rFRBASE + 64 * tail
  if n < 6 || n > 20 || !ringRoom n tail head || !populated pa then modify State.faultDropped
  else do
    set ({ s.write pa (r.bytes s.frSeq) with frSeq := (s.frSeq + 1) % 2 ^ 32 })
    modify fun s => s.setReg rFRTAIL (n64 ((tail + 1) % 2 ^ n))
    if tail == head && bitAt (s.regN rFRCTL) 5 then modify fun s => s.irq (s.regF rFRCTL 11 6) else pure ()

/-- The record of a refused access (R329): KIND 1. -/
def refusalRec (r : Refused) (parked : Bool) : FaultRec :=
  { va := r.va, kind := 1, reason := r.reason, access := r.acc + 8 * r.src, cls := r.cls, asid := r.asid, pdie := r.pdie,
    core := r.core, ctx := r.ctx, cid := r.cid, parked := parked }

/-! ### Accesses by physical address (R25, R319) -/

/-- The record of a refused access that bypasses translation (R25, R26; log 22): of the host, or of the module for its own
tables. -/
def physRefused (acc reason pa : Nat) : Op Unit :=
  faultPost { va := n64 pa, kind := 1, reason := reason, access := acc + 8 * 8, cls := 0, asid := 0, pdie := pdieOf pa,
              core := 0xFF, ctx := 0, cid := 0xFF, parked := false }

/-- What a read that no memory serves returns (log 22). -/
def freeBytes (n : Nat) : Op (List Byte) :=
  mapEach (upTo n) fun _ => do
    let k ← nextFree
    pure (Config.remoteByte k)

/-- Bytes at a host-form address for the device itself. An address that names no memory takes a page fault, and the bytes are
free (R25; log 22). -/
def devRead (pa n : Nat) : Op (List Byte) := do
  if populated pa && populated (pa + n - 1) then do
    let s ← get
    set (s.eccRead pa n)
    pure (s.bytes pa n)
  else do
    physRefused accRead 5 pa
    freeBytes n

/-- A write at a host-form address by the device itself. One to an address that names no memory takes a page fault and writes
nothing (R25; log 22). -/
def devWrite (pa : Nat) (bs : List Byte) : Op Unit := do
  if populated pa && populated (pa + bs.length - 1) then modify fun s => s.write pa bs
  else physRefused accWrite 5 pa

/-- The record of an arrival that could not be applied (R34, R56, R221): KIND 2. -/
def undeliverable (rq : Req) (va : Word64) : FaultRec :=
  { va := va, kind := 2, reason := 0, access := accAtomic + 8 * rq.src, cls := rq.cls, asid := rq.asid, pdie := rq.pdie,
    core := rq.core, ctx := rq.ctx, cid := rq.cid, parked := false }

/-- The record of a dependence underflow (R32): KIND 3. -/
def depUnder (asid pdie : Nat) (record : Word64) : FaultRec :=
  { va := record, kind := 3, reason := 0, access := accAtomic + 8 * 10, cls := 0, asid := asid, pdie := pdie, core := 0xFF,
    ctx := 0, cid := 0xFF, parked := false }

/-! ### Barriers -/

/-- A barrier's fields (R54). -/
structure Bar where
  expected : Nat
  arrived : Nat
  phase : Nat
  status : Nat
  flags : Nat
deriving DecidableEq, Repr

/-- The barrier at a physical address. -/
def State.bar (s : State) (pa : Nat) : Bar :=
  { expected := s.memN pa 8, arrived := s.memN (pa + 8) 8, phase := s.memN (pa + 16) 4, status := s.memN (pa + 20) 1,
    flags := s.memN (pa + 21) 1 }

/-- The bytes of a barrier's fields. -/
def Bar.bytes (b : Bar) : List Byte :=
  toBytes 8 b.expected ++ toBytes 8 b.arrived ++ toBytes 4 b.phase ++ toBytes 1 b.status ++ toBytes 1 b.flags

/-- EP and ER (R54). -/
def Bar.ep (b : Bar) : Bool := bitAt b.flags 0
def Bar.er (b : Bar) : Bool := bitAt b.flags 1

/-- STATUS codes (R54). -/
def barDONE : Nat := 1
def barOVERRUN : Nat := 2
def barERROR : Nat := 3

/-- Completion of a phase (R55): ARRIVED, EP and ER clear, PHASE advances. -/
def Bar.complete (b : Bar) (status : Nat) : Bar :=
  { b with arrived := 0, flags := b.flags / 4 * 4, phase := (b.phase + 1) % 2 ^ 32, status := status }

/-- The check made whenever EP = 1 (R55). -/
def Bar.check (b : Bar) : Bar :=
  if !b.ep then b
  else if b.arrived == b.expected then b.complete (if b.er then barERROR else barDONE)
  else if b.arrived > b.expected then b.complete barOVERRUN
  else b

/-- An arrival or a BEXPECT acts on a barrier (R55). -/
def Bar.act (b : Bar) (a : BarrierAct) : Bar :=
  match a with
  | .arrive n err =>
    let flags := if err && !b.er then b.flags + 2 else b.flags
    { b with arrived := (b.arrived + n.toNat) % 2 ^ 64, flags := flags }.check
  | .expect n => { b with expected := n.toNat, flags := if b.ep then b.flags else b.flags + 1 }.check

/-- Act on the barrier at a physical address. -/
def State.barAct (s : State) (pa : Nat) (a : BarrierAct) (mapped : Bool) : State :=
  let bs := ((s.bar pa).act a).bytes
  let s := s.eccRead pa 24
  if mapped then s.writeMapped pa bs else s.write pa bs

/-- Phase p has completed (R153): (PHASE - p) mod 2^32 lies in 1 to 2^31. -/
def phaseDone (phase p : Nat) : Bool :=
  let d := (phase + 2 ^ 32 - p % 2 ^ 32) % 2 ^ 32
  1 ≤ d && d ≤ 2 ^ 31

/-- The status word of a barrier (R153). -/
def Bar.word (b : Bar) : Word64 := n64 (b.status + b.phase * 2 ^ 8)

/-- What became of an arrival. -/
inductive Delivery where
  | applied
  | dropped
  | inHbm
deriving DecidableEq, Repr

/-- Deliver an arrival to the barrier at an address of class `ea` for a core (R54 to R56): a gated core's scratchpad drops it
with an UNDELIVERABLE record; a barrier in HBM is left to the caller; any other refusal is the caller's. -/
def barArrive (rq : Req) (c : Nat) (ea : Word64) (a : BarrierAct) : Op Delivery := fun s =>
  match locate rq accAtomic c ea s with
  | .ok (.here pa) s' =>
    if inHbm (offOf pa) then .ok .inHbm s' else .ok .applied (s'.barAct pa a (isVirt ea))
  | .ok (.away m d) s' =>
    .ok .applied { s' with fabricOut := s'.fabricOut ++
      [{ modl := m, pdie := d, asid := rq.asid, va := ea, kind := accAtomic, data := [] }] }
  | .error (.refuse r) s' =>
    if r.reason == 7 then
      match faultPost (undeliverable rq ea) s' with
      | .ok _ s'' => .ok .dropped s''
      | .error e s'' => .error e s''
    else .error (.refuse r) s'
  | .error e s' => .error e s'

end Sys2Proof.Machine
end

