-- ==== Sys2Proof/Machine/Contexts.lean ====
section
/-! DEFINITION. Machine/Contexts.lean: which context of a core issues (R12, R36, R38), the states of a context (R39), its
set-up at dispatch (R33) and its retirement (R41). -/

namespace Sys2Proof.Machine

/-- A context can be handed issue: READY, and not stopped at a mark (R38, R332). -/
def Ctx.canIssue (c : Ctx) : Bool := c.state == .ready && !c.stopped

/-- The context of core `k` that is handed issue after context `last`: the first that can issue, in the order last + 1,
last + 2, last + 3, last (R38). -/
def State.nextReady (s : State) (k last : Nat) : Option Nat :=
  ((upTo 4).map fun i => (last + 1 + i) % 4).find? fun i => (s.ctx (4 * k + i)).canIssue

/-- The issuing context still holds its core: it is RUNNING (R12). -/
def State.holdsCore (s : State) (k : Nat) : Bool :=
  (s.core k).issuing < 4 && (s.ctx (4 * k + (s.core k).issuing)).state == .running

/-- Hand issue to the next READY context where the issuing one no longer runs (R38). -/
def State.handIssue (s : State) (k : Nat) : State :=
  if s.holdsCore k then s
  else
    let c := s.core k
    let last := if c.issuing < 4 then c.issuing else c.last
    match (if c.halting || c.gated then none else s.nextReady k last) with
    | none => s.setCore k { c with issuing := 4, last := last }
    | some i =>
      (s.setCore k { c with issuing := i, last := i }).modCtx (4 * k + i) fun v => { v with state := .running }

/-- A context becomes READY, and takes issue where its core has none (R38, R39). -/
def State.makeReady (s : State) (x : Nat) : State :=
  (s.modCtx x fun c => { c with state := .ready, why := .none }).handIssue (coreOf x)

/-- A context leaves RUNNING for another state, and its core hands issue on (R38). -/
def State.leave (s : State) (x : Nat) (st : CtxState) (why : BlockWhy) : State :=
  (s.modCtx x fun c => { c with state := st, why := why }).handIssue (coreOf x)

/-! ### What engines tell a context -/

/-- Add a deferred trap to a context (R49); a BLOCKED context becomes READY. A context that has retired takes none. -/
def State.deferTrap (s : State) (x : Nat) (d : Deferred) : State :=
  if (s.ctx x).state == .idle then s
  else
    let s := s.modCtx x fun c => { c with deferred := c.deferred ++ [d] }
    let c := s.ctx x
    if c.state == .blocked && !c.handler then s.makeReady x else s

/-- sw.LPZ, sw.BESC and sw.SDC. -/
def swLPZ : Word64 := 0x200000
def swBESC : Word64 := 0x400000
def swSDC : Word64 := 0x800000

/-- Set sticky bits of a context's status word, in its mark as well, for an engine event that no rollback undoes. -/
def State.stickySw (s : State) (x : Nat) (bits : Word64) : State :=
  s.modCtx x fun c => { c with live := { c.live with sw := c.live.sw ||| bits }
                               mark := { c.mark with live := { c.mark.live with sw := c.mark.live.sw ||| bits } } }

/-! ### Release of a core's resources (R17, R41) -/

/-- A bank after its owner `i` retired: freed, its grants lapsed; a grant that `i` held on another's bank lapses. -/
def Bank.release (b : Bank) (i : Nat) : Bank :=
  if b.owned && b.owner == i then { b with owned := false, grants := 0 }
  else { b with grants := b.grants &&& ~~~ BitVec.ofNat 4 (2 ^ i) }

/-- A counter set after context `i` retired. -/
def CSet.release (n : CSet) (i : Nat) : CSet := if n.owned && n.owner == i then { n with owned := false } else n

/-- The resources of a core after context `i` retired (R41): banks, grants, counter sets and rings. -/
def Core.release (c : Core) (i : Nat) : Core :=
  { c with
    banks := c.banks.map fun (k, b) => (k, b.release i)
    csets := c.csets.map fun (k, n) => (k, n.release i)
    ringOf := c.ringOf.filter fun (_, g) =>
      match fget? c.rings g with
      | some r => r.owner != i
      | none => false }

/-- A context after retirement (R41, R213, R230, R258): IDLE, sticky state cleared, pending H-slot writes discarded, stream
registers closed, tree-engine state cleared, nothing held or gated. Its other registers keep their values. -/
def Ctx.retired (c : Ctx) : Ctx :=
  { c with
    state := .idle, why := .none, gate := [], vSince := [], deferred := [], banked := [], ports := [], portsH := [],
    heldX := [], tree := Tree.init, seif := 0, region := 0, task := 0, given := none, yielded := false, arrived := false,
    blocked := false,
    fromEnd := false, stopped := false, arrivals := [], ended := false,
    live := { c.live with armed := [], hPend := [], f := [], sWait := [], vWait := [] } }

/-- The read of a bank for a copy, which is the copy's (R218, R222). -/
def MOp.isDrain (o : MOp) : Bool :=
  match o with
  | .drain _ _ => true
  | _ => false

/-- Retire a context (R41). Commands of it that its core's engines have not started are dropped (R57); in a normal
retirement there are none. -/
def State.retire (s : State) (x : Nat) : State :=
  let k := coreOf x
  let c := s.core k
  let c := { c.release (x % 4) with
             mq := c.mq.filter (fun m => m.x != x || m.op.isDrain), tq := c.tq.filter (·.x != x), fq := c.fq.filter (·.x != x) }
  ((s.setCore k c).modCtx x Ctx.retired).handIssue k

/-- The context that an entry task's dispatch sets up (R33, R46, R210, R216, R230, R258): PC at ENTRY, s1 and s2, tkrec, tv;
every other register as `Live.init`. tkeep0 and tkeep1 keep what they held (log 2). -/
def Ctx.dispatched (c : Ctx) (entry arg rec tv : Word64) (region task seif : Nat) : Ctx :=
  let live := { Live.init with s := fset 0 (fset 0 [] 1 arg) 2 rec }
  let ctl := { Control.init with tv := tv, tkrec := rec, tkeep0 := c.ctl.tkeep0, tkeep1 := c.ctl.tkeep1 }
  { Ctx.init with
    state := .ready, pc := entry, live := live, tokNext := c.tokNext
    mark := { pc := entry, j := 0, slot := 0, ended := false, jumped := false, tok := c.tokNext, live := live, ctl := ctl }
    ctl := ctl
    region := region, task := task, seif := seif }

end Sys2Proof.Machine
end

