-- ==== Sys2Proof/Machine/Float.lean ====
section
/-! DEFINITION. Machine/Float.lean: the number formats of R58 to R61, exact values, rounding (R65, R66, R83), flags (R67) and
the floating-point operations of the vector unit, the matrix engine and the adders. Operands are converted to exact values
m x 2^e, the operation is exact, and the result is rounded once. -/

namespace Sys2Proof.Machine

/-- A binary floating-point format (R59): exponent bits, fraction bits, bias, the code of the largest finite value, the code
of infinity where the format has one, and the canonical NaN. -/
structure Fmt where
  ebits : Nat
  mbits : Nat
  bias : Nat
  maxCode : Nat
  infCode : Option Nat
  nanCode : Nat
deriving DecidableEq, Repr

def fp32 : Fmt := ⟨8, 23, 127, 0x7F7FFFFF, some 0x7F800000, 0x7FC00000⟩
def fp16 : Fmt := ⟨5, 10, 15, 0x7BFF, some 0x7C00, 0x7E00⟩
def bf16 : Fmt := ⟨8, 7, 127, 0x7F7F, some 0x7F80, 0x7FC0⟩
def e5m2 : Fmt := ⟨5, 2, 15, 0x7B, some 0x7C, 0x7E⟩
def e4m3 : Fmt := ⟨4, 3, 7, 0x7E, none, 0x7F⟩

/-- The width of a format in bits. -/
def Fmt.bits (f : Fmt) : Nat := 1 + f.ebits + f.mbits

/-- The code of a negative value from that of the positive one. -/
def Fmt.signed (f : Fmt) (neg : Bool) (code : Nat) : Nat := if neg then code + 2 ^ (f.ebits + f.mbits) else code

/-- A value: m x 2^e with a sign (so that zero has one), an infinity, or a NaN, signalling or quiet (R60). -/
inductive FVal where
  | fin (neg : Bool) (m : Nat) (e : Int)
  | inf (neg : Bool)
  | nan (sig : Bool)
deriving DecidableEq, Repr

/-- The flags of R67, in the order of tinfo: NV 16, DZ 8, OF 4, UF 2, NX 1. -/
def NV : Nat := 16
def DZ : Nat := 8
def OF : Nat := 4
def UF : Nat := 2
def NX : Nat := 1

/-- A code of a format and the flags raised. -/
abbrev Flagged := Nat × Nat

/-- The value of a code (R59, R60). -/
def Fmt.val (f : Fmt) (code : Nat) : FVal :=
  let c := code % 2 ^ (f.ebits + f.mbits)
  let neg := bitAt code (f.ebits + f.mbits)
  let ex := c / 2 ^ f.mbits
  let fr := c % 2 ^ f.mbits
  match f.infCode with
  | some ic =>
    if c == ic then .inf neg
    else if c > ic then .nan (!bitAt fr (f.mbits - 1))
    else if ex == 0 then .fin neg fr (1 - (f.bias : Int) - f.mbits)
    else .fin neg (fr + 2 ^ f.mbits) ((ex : Int) - f.bias - f.mbits)
  | none =>
    if c == f.nanCode then .nan false
    else if ex == 0 then .fin neg fr (1 - (f.bias : Int) - f.mbits)
    else .fin neg (fr + 2 ^ f.mbits) ((ex : Int) - f.bias - f.mbits)

/-- The rounding modes of R47. -/
def RNE : Nat := 0
def RZ : Nat := 1
def RUP : Nat := 2
def RDN : Nat := 3

/-- Whether a magnitude rounds up: `rem` against the unit `2 * half`, `more` for what lies below the remainder. -/
def roundsUp (rm : Nat) (neg odd : Bool) (rem half : Nat) (more : Bool) : Bool :=
  if rm == RNE then rem > half || (rem == half && half != 0 && (more || odd))
  else if rm == RUP then !neg && (rem != 0 || more)
  else if rm == RDN then neg && (rem != 0 || more)
  else false

/-- The magnitude m x 2^e (plus something smaller than 2^e where `more`) in units of 2^q, rounded; and whether it is
inexact. -/
def roundMag (rm : Nat) (neg : Bool) (m : Nat) (e q : Int) (more : Bool) : Nat × Bool :=
  if q ≤ e then
    let v := m * 2 ^ (e - q).toNat
    (if roundsUp rm neg (v % 2 == 1) 0 0 more then v + 1 else v, more)
  else
    let sh := (q - e).toNat
    let v := m / 2 ^ sh
    let rem := m % 2 ^ sh
    (if roundsUp rm neg (v % 2 == 1) rem (2 ^ (sh - 1)) more then v + 1 else v, rem != 0 || more)

/-- Overflow per mode and sign (R65): true where an infinity is delivered, false where the largest finite value is. -/
def overflowsToInf (rm : Nat) (neg : Bool) : Bool := rm == RNE || (rm == RUP && !neg) || (rm == RDN && neg)

/-- What overflow delivers (R65); a format without infinity delivers its NaN (R69). -/
def Fmt.overflow (f : Fmt) (rm : Nat) (neg : Bool) : Nat :=
  if overflowsToInf rm neg then
    match f.infCode with
    | some ic => f.signed neg ic
    | none => f.nanCode
  else f.signed neg f.maxCode

/-- Round a nonzero or zero magnitude to a format with subnormals kept (R65, R83), with the flags OF, UF and NX of R67.
Tininess is detected after rounding. -/
def Fmt.round (f : Fmt) (rm : Nat) (neg : Bool) (m : Nat) (e : Int) (more : Bool) : Flagged :=
  if m == 0 then (f.signed neg 0, 0)
  else
    let top : Int := (Nat.log2 m : Int) + e
    let low : Int := 1 - (f.bias : Int) - f.mbits
    let q : Int := max (top - f.mbits) low
    let (v, inexact) := roundMag rm neg m e q more
    let code := v + (q - low).toNat * 2 ^ f.mbits
    if code > f.maxCode then (f.overflow rm neg, OF ||| NX)
    else
      let small := top < 1 - (f.bias : Int)
      let tiny := small && (roundMag rm neg m e (top - f.mbits) more).1 != 2 ^ (f.mbits + 1) ||
        (small && top < -(f.bias : Int))
      (f.signed neg code, (if inexact then NX else 0) ||| (if inexact && tiny then UF else 0))

/-- The code is a subnormal or a zero. -/
def Fmt.below (f : Fmt) (code : Nat) : Bool := code % 2 ^ (f.ebits + f.mbits) < 2 ^ f.mbits

/-- Round with FO (R66): a subnormal result, or a zero from a nonzero value, is delivered as zero with UF and NX. -/
def Fmt.roundO (f : Fmt) (fo : Bool) (rm : Nat) (neg : Bool) (m : Nat) (e : Int) (more : Bool) : Flagged :=
  let r := f.round rm neg m e more
  if fo && m != 0 && f.below r.1 then (f.signed neg 0, UF ||| NX) else r

/-- The canonical NaN, with NV where `sig`. -/
def Fmt.qnan (f : Fmt) (nv : Bool) : Flagged := (f.nanCode, if nv then NV else 0)

/-- An infinity. -/
def Fmt.infinity (f : Fmt) (neg : Bool) : Nat :=
  match f.infCode with
  | some ic => f.signed neg ic
  | none => f.nanCode

/-- FI (R66): a subnormal input reads as zero of its sign. -/
def Fmt.valI (f : Fmt) (fi : Bool) (code : Nat) : FVal :=
  match f.val code with
  | .fin neg m e => if fi && f.below code then .fin neg 0 e else .fin neg m e
  | v => v

def FVal.isNan : FVal → Bool
  | .nan _ => true
  | _ => false

def FVal.isSig : FVal → Bool
  | .nan s => s
  | _ => false

def FVal.negate : FVal → FVal
  | .fin n m e => .fin (!n) m e
  | .inf n => .inf (!n)
  | .nan s => .nan s

/-- The signed significand of a finite value in units of 2^q, for q at most its exponent. -/
def scaled (neg : Bool) (m : Nat) (e q : Int) : Int :=
  let v : Int := (m * 2 ^ (e - q).toNat : Nat)
  if neg then -v else v

/-- The exact sum of two finite values, as sign, magnitude and exponent; an exact zero takes the sign of IEEE 754. -/
def addFin (rm : Nat) (n1 : Bool) (m1 : Nat) (e1 : Int) (n2 : Bool) (m2 : Nat) (e2 : Int) : Bool × Nat × Int :=
  let q := min e1 e2
  let s := scaled n1 m1 e1 q + scaled n2 m2 e2 q
  if s == 0 then ((if m1 == 0 && m2 == 0 && n1 == n2 then n1 else rm == RDN), 0, q)
  else (s < 0, s.natAbs, q)

/-- a + b of two values (R163), rounded to `f`. -/
def Fmt.add (f : Fmt) (fo : Bool) (rm : Nat) (a b : FVal) : Flagged :=
  let sig := a.isSig || b.isSig
  match a, b with
  | .nan _, _ => f.qnan sig
  | _, .nan _ => f.qnan sig
  | .inf n1, .inf n2 => if n1 == n2 then (f.infinity n1, 0) else f.qnan true
  | .inf n, _ => (f.infinity n, 0)
  | _, .inf n => (f.infinity n, 0)
  | .fin n1 m1 e1, .fin n2 m2 e2 =>
    let (n, m, e) := addFin rm n1 m1 e1 n2 m2 e2
    f.roundO fo rm n m e false

/-- The exact product of two values; none where it is invalid (0 x infinity). -/
def mulVal (a b : FVal) : Option FVal :=
  match a, b with
  | .nan s1, .nan s2 => some (.nan (s1 || s2))
  | .nan s, _ => some (.nan s)
  | _, .nan s => some (.nan s)
  | .inf n1, .inf n2 => some (.inf (n1 != n2))
  | .inf n1, .fin n2 m _ => if m == 0 then none else some (.inf (n1 != n2))
  | .fin n1 m _, .inf n2 => if m == 0 then none else some (.inf (n1 != n2))
  | .fin n1 m1 e1, .fin n2 m2 e2 => some (.fin (n1 != n2) (m1 * m2) (e1 + e2))

/-- a x b (R163). -/
def Fmt.mul (f : Fmt) (fo : Bool) (rm : Nat) (a b : FVal) : Flagged :=
  match mulVal a b with
  | none => f.qnan true
  | some (.nan s) => f.qnan s
  | some (.inf n) => (f.infinity n, 0)
  | some (.fin n m e) => f.roundO fo rm n m e false

/-- a x b + c with one rounding (R163, R81). -/
def Fmt.fma (f : Fmt) (fo : Bool) (rm : Nat) (a b c : FVal) : Flagged :=
  match mulVal a b with
  | none => f.qnan true
  | some p => f.add fo rm p c

/-- -1, 0 or 1 as value `a` is below, equal to or above `b`; both are numbers, and the two zeros are equal. -/
def cmpVal (a b : FVal) : Int :=
  match a, b with
  | .fin n1 m1 e1, .fin n2 m2 e2 =>
    let q := min e1 e2
    let d := scaled n1 m1 e1 q - scaled n2 m2 e2 q
    if d < 0 then -1 else if d == 0 then 0 else 1
  | .inf n1, .inf n2 => if n1 == n2 then 0 else if n1 then -1 else 1
  | .inf n, _ => if n then -1 else 1
  | _, .inf n => if n then 1 else -1
  | _, _ => 0

/-- The sign of a value. -/
def FVal.neg : FVal → Bool
  | .fin n _ _ => n
  | .inf n => n
  | .nan _ => false

/-- Deliver a value that needs no rounding in `f`, FO apart (VFMIN, VFMAX). -/
def Fmt.deliver (f : Fmt) (fo : Bool) (rm : Nat) (v : FVal) : Flagged :=
  match v with
  | .fin n m e => f.roundO fo rm n m e false
  | .inf n => (f.infinity n, 0)
  | .nan s => f.qnan s

/-- VFMIN and VFMAX (R164): `wantMax` selects the maximum. -/
def Fmt.minmax (f : Fmt) (wantMax fo : Bool) (rm : Nat) (a b : FVal) : Flagged :=
  let sig := if a.isSig || b.isSig then NV else 0
  let r := match a, b with
    | .nan _, .nan _ => f.qnan false
    | .nan _, v => f.deliver fo rm v
    | v, .nan _ => f.deliver fo rm v
    | x, y =>
      let c := cmpVal x y
      let less := c < 0 || (c == 0 && x.neg && !y.neg)
      f.deliver fo rm (if less == wantMax then y else x)
  (r.1, r.2 ||| sig)

/-- The largest r with r x r at most n, found bit by bit from bit `k`. -/
def isqrtFrom : Nat → Nat → Nat → Nat
  | 0, n, r => if (r + 1) * (r + 1) ≤ n then r + 1 else r
  | k + 1, n, r =>
    let t := r + 2 ^ (k + 1)
    isqrtFrom k n (if t * t ≤ n then t else r)

/-- The integer square root. -/
def isqrt (n : Nat) : Nat := isqrtFrom (Nat.log2 n / 2 + 1) n 0

/-- 1 / a (R163, R164). -/
def Fmt.rcp (f : Fmt) (fo : Bool) (rm : Nat) (a : FVal) : Flagged :=
  match a with
  | .nan s => f.qnan s
  | .inf n => (f.signed n 0, 0)
  | .fin n m e =>
    if m == 0 then (f.infinity n, DZ)
    else
      let k := Nat.log2 m + 40
      f.roundO fo rm n (2 ^ k / m) (-(k : Int) - e) (2 ^ k % m != 0)

/-- 1 / sqrt a (R163, R164). -/
def Fmt.rsq (f : Fmt) (fo : Bool) (rm : Nat) (a : FVal) : Flagged :=
  match a with
  | .nan s => f.qnan s
  | .inf n => if n then f.qnan true else (f.signed false 0, 0)
  | .fin n m e =>
    if m == 0 then (f.infinity n, DZ)
    else if n then f.qnan true
    else
      let odd := e % 2 != 0
      let m' := if odd then 2 * m else m
      let e' := if odd then e - 1 else e
      let k := Nat.log2 m' + 40
      let r := isqrt (2 ^ (2 * k) / m')
      f.roundO fo rm false r (-(k : Int) - e' / 2) (r * r * m' != 2 ^ (2 * k))

/-- sqrt a rounded RNE to a format, for a finite value that is not negative (R229). -/
def Fmt.sqrt (f : Fmt) (a : FVal) : Nat :=
  match a with
  | .nan _ => f.nanCode
  | .inf n => if n then f.nanCode else f.infinity false
  | .fin n m e =>
    if m == 0 then f.signed n 0
    else if n then f.nanCode
    else
      let odd := e % 2 != 0
      let m' := if odd then 2 * m else m
      let e' := if odd then e - 1 else e
      let r := isqrt (m' * 2 ^ 120)
      (f.round RNE false r (e' / 2 - 60) (r * r != m' * 2 ^ 120)).1

/-- a / b rounded RNE to a format (R229). -/
def Fmt.div (f : Fmt) (a b : FVal) : Nat :=
  match a, b with
  | .nan _, _ => f.nanCode
  | _, .nan _ => f.nanCode
  | .inf _, .inf _ => f.nanCode
  | .inf n1, .fin n2 _ _ => f.infinity (n1 != n2)
  | .fin n1 _ _, .inf n2 => f.signed (n1 != n2) 0
  | .fin n1 m1 e1, .fin n2 m2 e2 =>
    if m2 == 0 then (if m1 == 0 then f.nanCode else f.infinity (n1 != n2))
    else
      let k := Nat.log2 m2 + 40
      (f.round RNE (n1 != n2) (m1 * 2 ^ k / m2) (e1 - e2 - k) (m1 * 2 ^ k % m2 != 0)).1

/-! ### 2^x and log2 x (R163): the exact result is irrational except where it is stated exactly, so a lower bound of some
two hundred bits and a mark that more follows decide the rounding (log 10). -/

/-- The working precision of the two series, in bits after the point. -/
def workBits : Nat := 384

/-- The sum of 2^P / (k x 2^k) for k from 1 to n: ln 2 in units of 2^-P, from below. -/
def ln2Sum : Nat → Nat → Nat
  | 0, _ => 0
  | n + 1, p => ln2Sum n p + 2 ^ p / ((n + 1) * 2 ^ (n + 1))

/-- e^y in units of 2^-P for y in units of 2^-P: the first terms of the series, from below; `t` is the current term. -/
def expSum (p y : Nat) : Nat → Nat → Nat → Nat
  | 0, _, _ => 0
  | n + 1, k, t => t + expSum p y n (k + 1) (t * y / 2 ^ p / k)

/-- 2^f for a fraction f in units of 2^-P, in units of 2^-P, from below. -/
def exp2Frac (fr : Nat) : Nat :=
  let y := fr * ln2Sum workBits workBits / 2 ^ workBits
  expSum workBits y 90 1 (2 ^ workBits)

/-- 2^a (R163, R164). -/
def Fmt.exp2 (f : Fmt) (fo : Bool) (rm : Nat) (a : FVal) : Flagged :=
  match a with
  | .nan s => f.qnan s
  | .inf n => if n then (f.signed false 0, 0) else (f.infinity false, 0)
  | .fin n m e =>
    let big := 4 * f.bias + 600
    let mag := if e ≥ 0 then m * 2 ^ (min e 20).toNat else m / 2 ^ (-e).toNat
    if m == 0 then f.roundO fo rm false 1 0 false
    else if mag ≥ big || e > 20 then
      if n then f.roundO fo rm false 1 (-(big : Int)) true else f.roundO fo rm false 1 big false
    else
      let x := scaled n m e (-(workBits : Int))
      let whole := x / (2 ^ workBits : Nat)
      let fr := (x % (2 ^ workBits : Nat)).toNat
      if fr == 0 then f.roundO fo rm false 1 whole false
      else
        let v := exp2Frac fr
        f.roundO fo rm false (v / 2 ^ 128) (whole - 256) true

/-- The bits of log2 t for t in [1, 2), t in units of 2^-P: n bits after the point. -/
def log2Bits (p : Nat) : Nat → Nat → Nat → Nat
  | 0, _, acc => acc
  | n + 1, t, acc =>
    let s := t * t / 2 ^ p
    if s ≥ 2 ^ (p + 1) then log2Bits p n (s / 2) (2 * acc + 1) else log2Bits p n s (2 * acc)

/-- log2 a (R163, R164). -/
def Fmt.log2 (f : Fmt) (fo : Bool) (rm : Nat) (a : FVal) : Flagged :=
  match a with
  | .nan s => f.qnan s
  | .inf n => if n then f.qnan true else (f.infinity false, 0)
  | .fin n m e =>
    if m == 0 then (f.infinity true, DZ)
    else if n then f.qnan true
    else
      let l := Nat.log2 m
      let whole : Int := (l : Int) + e
      if m == 2 ^ l then f.roundO fo rm (whole < 0) whole.natAbs 0 false
      else
        let frac := log2Bits 512 170 (m * 2 ^ (512 - l)) 0
        let v : Int := whole * (2 ^ 170 : Nat) + frac
        if v ≥ 0 then f.roundO fo rm false v.toNat (-170) true
        else f.roundO fo rm true (v.natAbs - 1) (-170) true

/-! ### Conversions (R68, R69) -/

/-- A value rounded to an integer in a mode, and whether that was inexact. -/
def roundInt (rm : Nat) (neg : Bool) (m : Nat) (e : Int) : Int × Bool :=
  let (v, ix) := roundMag rm neg m e 0 false
  (if neg then -(v : Int) else v, ix)

/-- A value to a narrower format (R68, R69) with `.s` and FO. -/
def Fmt.convert (f : Fmt) (fo sat : Bool) (rm : Nat) (v : FVal) : Flagged :=
  match v with
  | .nan s => f.qnan s
  | .inf n =>
    match f.infCode with
    | some ic => (f.signed n ic, 0)
    | none => if sat then (f.signed n f.maxCode, NV) else (f.nanCode, NV)
  | .fin n m e =>
    let r := f.roundO fo rm n m e false
    if sat && r.2 &&& OF != 0 then (f.signed n f.maxCode, r.2) else r

/-- The value of an E2M1 code (R61), the escape read as -0.0. -/
def e2m1Val (c : Nat) : FVal :=
  let ex := c / 2 % 4
  let mb := c % 2
  if ex == 0 then .fin (bitAt c 3) mb (-1) else .fin (bitAt c 3) (2 + mb) ((ex : Int) - 2)

/-- The magnitude codes 0 to 7 of E2M1 in units of 0.5 (R61). -/
def e2m1Units (c : Nat) : Nat :=
  match c % 8 with
  | 0 => 0 | 1 => 1 | 2 => 2 | 3 => 3 | 4 => 4 | 5 => 6 | 6 => 8 | _ => 12

/-- A magnitude to an E2M1 magnitude code (R68): precision one fraction bit, smallest step 0.5, largest 6. -/
def e2m1Round (fo : Bool) (rm : Nat) (neg : Bool) (m : Nat) (e : Int) : Flagged :=
  if m == 0 then (0, 0)
  else
    let f : Fmt := ⟨2, 1, 1, 7, none, 8⟩
    let r := f.round rm neg m e false
    let big := r.2 &&& OF != 0
    let code := if big then 7 else r.1 % 8
    if fo && !big && f.below code then (0, UF ||| NX)
    else if code == 0 then (0, r.2) else (if neg then code + 8 else code, r.2)

/-- A value to E2M1 (R69). -/
def toE2m1 (fo : Bool) (rm : Nat) (v : FVal) : Flagged :=
  match v with
  | .nan _ => (0, NV)
  | .inf n => (if n then 15 else 7, NV)
  | .fin n m e => e2m1Round fo rm n m e

/-- A value to an n-bit integer (R69). -/
def toInt (n : Nat) (sat : Bool) (rm : Nat) (v : FVal) : Flagged :=
  let lo : Int := -(2 ^ (n - 1) : Nat)
  let hi : Int := (2 ^ (n - 1) : Nat) - 1
  match v with
  | .nan _ => (if sat then 0 else wrapN n lo, NV)
  | .inf s => (wrapN n (if sat && !s then hi else lo), NV)
  | .fin s m e =>
    let (r, ix) := roundInt rm s m e
    if r < lo || r > hi then (wrapN n (if sat && r > hi then hi else lo), NV)
    else (wrapN n r, if ix then NX else 0)

/-- An integer as a value. -/
def ofInt (i : Int) : FVal := .fin (i < 0) i.natAbs 0

/-- round_sr of R83 with 16 random bits. -/
def Fmt.roundSr (f : Fmt) (neg : Bool) (m : Nat) (e : Int) (r : Nat) : Nat :=
  let lo := f.round RZ neg m e false
  if lo.2 &&& NX == 0 then lo.1
  else if lo.1 == f.signed neg f.maxCode || lo.2 &&& OF != 0 then (f.round RNE neg m e false).1
  else
    let top : Int := (Nat.log2 m : Int) + e
    let q : Int := max (top - f.mbits) (1 - (f.bias : Int) - f.mbits)
    let sh := (q - e).toNat
    let d := (m % 2 ^ sh) * 2 ^ 16 / 2 ^ sh
    if d + r ≥ 2 ^ 16 then lo.1 + 1 else lo.1

/-! ### Shared-exponent blocks (R62 to R64, R70) -/

/-- The element width of SX format 0 (SX8), 1 (SX5), 2 (SX3). -/
def sxW (f : Nat) : Nat := if f == 0 then 8 else if f == 1 then 5 else 3

/-- The bytes of a block. -/
def sxBytes (f : Nat) : Nat := 2 + 2 * sxW f

/-- The block exponent of a block, read as one little-endian number. -/
def sxE (b : Nat) : Nat := b % 256

/-- The shift of group g. -/
def sxT (b g : Nat) : Nat := fld b (8 + 2 * g + 1) (8 + 2 * g)

/-- Element i. -/
def sxQ (f b i : Nat) : Int := sgn (sxW f) (fld b (16 + sxW f * i + sxW f - 1) (16 + sxW f * i))

/-- The value of element i (R63); a NaN block gives NaNs. -/
def sxVal (f b i : Nat) : FVal :=
  if sxE b == 0xFF then .nan false
  else
    let q := sxQ f b i
    .fin (q < 0) q.natAbs ((sxE b : Int) - 127 - sxT b (i / 4) - (sxW f - 2 : Nat))

/-- P of R64 for two blocks of a format. -/
def sxDot (f x y : Nat) : Int :=
  (upTo 16).foldl (fun acc i => acc + sxQ f x i * sxQ f y i * (2 ^ (6 - sxT x (i / 4) - sxT y (i / 4)) : Nat)) 0

/-- The larger of two nonnegative magnitudes m x 2^e. -/
def magMax (a b : Nat × Int) : Nat × Int :=
  if a.1 == 0 then b else if b.1 == 0 then a
  else if cmpVal (.fin false a.1 a.2) (.fin false b.1 b.2) < 0 then b else a

/-- The largest t in 0 to 3 with G < 2^(E - 126 - t) (R70). -/
def sxShift (g : Nat × Int) (ex : Int) : Nat :=
  let ok (t : Nat) := g.1 == 0 || cmpVal (.fin false g.1 g.2) (.fin false 1 (ex - 126 - t)) < 0
  if ok 3 then 3 else if ok 2 then 2 else if ok 1 then 1 else 0

/-- VSXPACK of 16 values (R70): the block as a number, and flags. -/
def sxPack (f rm : Nat) (xs : List FVal) : Flagged :=
  let bad := xs.any fun v => match v with | .fin _ _ _ => false | _ => true
  if bad then
    (0xFF, if xs.any (fun v => match v with | .inf _ => true | .nan s => s | _ => false) then NV else 0)
  else
    let mags := xs.map fun v => match v with | .fin _ m e => (m, e) | _ => (0, 0)
    let mx := mags.foldl magMax (0, 0)
    if mx.1 == 0 then (0, 0)
    else
      let ex : Int := max 0 ((Nat.log2 mx.1 : Int) + mx.2 + 127)
      let ts := (upTo 4).map fun g => sxShift (((mags.drop (4 * g)).take 4).foldl magMax (0, 0)) ex
      let w := sxW f
      let go := fun (acc : Flagged × Nat) (v : FVal) =>
        let i := acc.2
        match v with
        | .fin n m e =>
          let u : Int := ex - 127 - (ts.getD (i / 4) 0) - (w - 2 : Nat)
          let (a, ix) := roundMag rm n m e u false
          let q : Int := if n then -(a : Int) else a
          let hi : Int := (2 ^ (w - 1) : Nat) - 1
          let lo : Int := -(2 ^ (w - 1) : Nat)
          let c := if q > hi then hi else if q < lo then lo else q
          let fl := (if c != q then OF ||| NX else 0) ||| (if ix then NX else 0) |||
            (if m != 0 && c == 0 then UF else 0)
          ((acc.1.1 + wrapN w c * 2 ^ (16 + w * i), acc.1.2 ||| fl), i + 1)
        | _ => (acc.1, i + 1)
      let r := (xs.foldl go ((0, 0), 0)).1
      let tb := (upTo 4).foldl (fun acc g => acc + ts.getD g 0 * 2 ^ (2 * g)) 0
      (ex.toNat + tb * 256 + r.1, r.2)

/-- 2^n times a value. -/
def FVal.scale (v : FVal) (n : Int) : FVal :=
  match v with
  | .fin s m e => .fin s m (e + n)
  | w => w

end Sys2Proof.Machine
end

