-- ==== Sys2Proof/Machine/LogProb.lean ====
section
/-! DEFINITION. Machine/LogProb.lean: LP64 and LP32 words and their arithmetic (R75 to R80). Words are natural numbers below
2^64 (2^32). Where an exponent leaves its range, the operation answers none: the LPRANGE of R80. -/

namespace Sys2Proof.Machine

def lpOne : Nat := 0
def lpZero : Nat := 0x8000000000000000
def lpN : Nat := 0x2000000000000000

def lpZ (w : Nat) : Bool := bitAt w 63
def lpS (w : Nat) : Bool := bitAt w 62
def lpE (w : Nat) : Int := sgn 29 (fld w 60 32)
def lpF (w : Nat) : Nat := w % 2 ^ 32

/-- is_n of R77: N set, or Z with any other bit. -/
def lpIsN (w : Nat) : Bool := bitAt w 61 || (lpZ w && w != lpZero)

/-- lp_pack (R77). -/
def lpPack (s : Bool) (e : Int) (f : Nat) : Option Nat :=
  if e < -(2 ^ 28 : Nat) || e > (2 ^ 28 : Nat) - 1 then none
  else some ((if s then 2 ^ 62 else 0) + wrapN 29 e * 2 ^ 32 + f)

/-- round_int_rne of m / 2^sh. -/
def rneShift (m sh : Nat) : Nat := (roundMag RNE false m (-(sh : Int)) 0 false).1

/-- lp_mul (R77). -/
def lpMul (a b : Nat) : Option Nat :=
  if lpIsN a || lpIsN b then some lpN
  else if lpZ a || lpZ b then some lpZero
  else
    let m := (2 ^ 32 + lpF a) * (2 ^ 32 + lpF b)
    let e := lpE a + lpE b
    let (sh, e) := if m ≥ 2 ^ 65 then (33, e + 1) else (32, e)
    let q := rneShift m sh
    let (q, e) := if q == 2 ^ 33 then (2 ^ 32, e + 1) else (q, e)
    lpPack (lpS a != lpS b) e (q - 2 ^ 32)

/-- lp_div (R77). -/
def lpDiv (a b : Nat) : Option Nat :=
  if lpIsN a || lpIsN b || lpZ b then some lpN
  else if lpZ a then some lpZero
  else
    let x := 2 ^ 32 + lpF a
    let y := 2 ^ 32 + lpF b
    let e := lpE a - lpE b
    let (x, e) := if x < y then (2 * x, e - 1) else (x, e)
    let n := x * 2 ^ 40
    let q := (roundMag RNE false (n / y) (-8) 0 (n % y != 0)).1
    let (q, e) := if q == 2 ^ 33 then (2 ^ 32, e + 1) else (q, e)
    lpPack (lpS a != lpS b) e (q - 2 ^ 32)

/-- Value order of two words that are not N, exact zero being 0: -1, 0 or 1 as a is below, equal to or above b. -/
def lpCmp (a b : Nat) : Int :=
  let key (w : Nat) : Int × Int :=
    let mag : Int := (lpE w + 268435456) * 4294967296 + (lpF w : Int)
    if lpZ w then (0, 0) else if lpS w then (-1, -mag) else (1, mag)
  let x := key a
  let y := key b
  if x.1 < y.1 then -1 else if x.1 > y.1 then 1 else if x.2 < y.2 then -1 else if x.2 > y.2 then 1 else 0

/-- lp_max (R77): a tie returns the first operand. -/
def lpMax (a b : Nat) : Nat :=
  if lpIsN a || lpIsN b then lpN else if lpCmp b a > 0 then b else a

/-- The last part of lp_sum (R78), from the test of the accumulator onwards. -/
def lpFinish (acc emax : Int) (sticky : Bool) : Option Nat :=
  if acc == 0 then (if sticky then none else some lpZero)
  else
    let g := acc.natAbs
    let l := Nat.log2 g
    let s := acc < 0
    if l ≤ 32 then lpPack s (emax + l - 175) (g * 2 ^ (32 - l) - 2 ^ 32)
    else
      let k := (roundMag RNE false g (-((l - 32 : Nat) : Int)) 0 sticky).1
      let (k, l) := if k == 2 ^ 33 then (2 ^ 32, l + 1) else (k, l)
      lpPack s (emax + l - 175) (k - 2 ^ 32)

/-- One term placed against emax (R78): its aligned magnitude with sign, and whether bits were cut off. -/
def lpPlace (emax : Int) (t : Nat) : Int × Bool :=
  let m : Nat := (2 ^ 32 + lpF t) * 2 ^ 143
  let sh := (emax - lpE t).toNat
  if sh > 200 then (0, true)
  else
    let a : Nat := m / 2 ^ sh
    (if lpS t then -(a : Int) else (a : Int), decide (a * 2 ^ sh ≠ m))

/-- The largest exponent of the terms that are not exact zero. -/
def lpMaxE (ts : List Nat) : Option Int :=
  ts.foldl (fun acc t => if lpZ t then acc else
    match acc with
    | none => some (lpE t)
    | some e => some (max e (lpE t))) none

/-- lp_sum (R78). -/
def lpSum (ts : List Nat) : Option Nat :=
  if ts.any lpIsN then some lpN
  else
    match lpMaxE ts with
    | none => some lpZero
    | some emax =>
      let r := ts.foldl (fun (acc : Int × Bool) t =>
        if lpZ t then acc else
          let p := lpPlace emax t
          (acc.1 + p.1, acc.2 || p.2)) (0, false)
      lpFinish r.1 emax r.2

/-- Products of neighbouring entries. -/
def lpPairs : List Nat → Option (List Nat)
  | a :: b :: rest =>
    match lpMul a b, lpPairs rest with
    | some v, some vs => some (v :: vs)
    | _, _ => none
  | l => some l

/-- The product of a group of 16 as a tree of four levels (R79). -/
def lpGroup (g : List Nat) : Option Nat :=
  let g16 := g ++ List.replicate (16 - g.length) lpOne
  ((((lpPairs g16).bind lpPairs).bind lpPairs).bind lpPairs).map fun l => l.headD lpOne

/-- The product of a list in groups of 16 onto a running product (R79); `n` bounds the groups. -/
def lpGroups : Nat → Nat → List Nat → Option Nat
  | 0, pnz, _ => some pnz
  | _ + 1, pnz, [] => some pnz
  | n + 1, pnz, c => (lpGroup (c.take 16)).bind fun g => (lpMul pnz g).bind fun p => lpGroups n p (c.drop 16)

/-- Exact-zero entries replaced by one (R79). -/
def lpOnes (c : List Nat) : List Nat := c.map fun t => if lpZ t then lpOne else t

/-- lp_prod (R79): value, zero count, product of the nonzero entries. -/
def lpProd (c : List Nat) : Option (Nat × Nat × Nat) :=
  if c.any lpIsN then some (lpN, 0, lpN)
  else
    let zc := (c.filter lpZ).length
    (lpGroups (c.length / 16 + 1) lpOne (lpOnes c)).map fun pnz => (if zc > 0 then lpZero else pnz, zc, pnz)

/-- An LP32 word is N: Z with any other bit (R76). -/
def lp32IsN (w : Nat) : Bool := bitAt w 31 && w % 2 ^ 32 != 0x80000000

/-- LP32 to LP64, exactly (R76). -/
def lp32To (w : Nat) : Nat :=
  if lp32IsN w then lpN
  else if bitAt w 31 then lpZero
  else (if bitAt w 30 then 2 ^ 62 else 0) + wrapN 29 (sgn 16 (fld w 29 14)) * 2 ^ 32 + fld w 13 0 * 2 ^ 18

/-- LP64 to LP32 (R76); none for LPRANGE. -/
def lpTo32 (w : Nat) : Option Nat :=
  if lpIsN w then some 0xC0000000
  else if lpZ w then some 0x80000000
  else
    let q := rneShift (2 ^ 32 + lpF w) 18
    let (q, e) := if q == 2 ^ 15 then (2 ^ 14, lpE w + 1) else (q, lpE w)
    if e < -32768 || e > 32767 then none
    else some ((if lpS w then 2 ^ 30 else 0) + wrapN 16 e * 2 ^ 14 + (q - 2 ^ 14))

/-- The value of an LP64 word that is not N; exact zero is +0. -/
def lpVal (w : Nat) : FVal :=
  if lpIsN w then .nan false
  else if lpZ w then .fin false 0 0
  else .fin (lpS w) (2 ^ 32 + lpF w) (lpE w - 32)

/-- The LP64 word nearest to a finite value, ties to even; none where its exponent leaves the range (R76, R204). -/
def lpOfMag (neg : Bool) (m : Nat) (e : Int) : Option Nat :=
  if m == 0 then some lpZero
  else
    let top : Int := (Nat.log2 m : Int) + e
    let q := (roundMag RNE neg m e (top - 32) false).1
    let (q, top) := if q == 2 ^ 33 then (2 ^ 32, top + 1) else (q, top)
    lpPack neg top (q - 2 ^ 32)

/-- An FP32 value as an LP64 word (R68): exact for finite values; with the flags NV raises. -/
def lpOfFloat (v : FVal) : Flagged :=
  match v with
  | .nan s => (lpN, if s then NV else 0)
  | .inf _ => (lpN, NV)
  | .fin n m e => ((lpOfMag n m e).getD lpN, 0)

/-- An LP64 word as FP32 (R68), rounded in a mode; a large or small exponent is cut to the range where the result no longer
depends on it. -/
def lpToFloat (rm : Nat) (w : Nat) : Flagged :=
  match lpVal w with
  | .nan _ => (fp32.nanCode, 0)
  | .inf n => (fp32.infinity n, 0)
  | .fin n m e =>
    if m == 0 then (0, 0) else fp32.round rm n m (max (-400) (min 400 e)) false

end Sys2Proof.Machine
end

