-- ==== Sys2Proof/Machine/MatrixRun.lean ====
section
/-! DEFINITION. Machine/MatrixRun.lean: what the operations of the matrix engine and the scale port do when they perform (R71 to
R74, R81, R182 to R206). -/

namespace Sys2Proof.Machine

/-! ### Banks, counter sets, rings -/

/-- Bank formats (R182). -/
def bFP32 : Nat := 0
def bINT32 : Nat := 1
def bLPX : Nat := 2

def Core.bank (c : Core) (b : Nat) : Bank := fget Bank.free c.banks b
def Core.setBank (c : Core) (b : Nat) (v : Bank) : Core := { c with banks := fput c.banks b v }
def Core.cset (c : Core) (n : Nat) : CSet := fget CSet.free c.csets n
def Core.setCset (c : Core) (n : Nat) (v : CSet) : Core := { c with csets := fput c.csets n v }

/-- Cut a list into `count` pieces of n. -/
def chunksOf {α : Type} (n : Nat) : Nat → List α → List (List α)
  | 0, _ => []
  | k + 1, l => l.take n :: chunksOf n k (l.drop n)

/-- The 32-bit words of a bank, row by row. -/
def Bank.words (b : Bank) : List (BitVec 32) := fexpand 0 2048 0 b.cells

/-- The rows of an FP32 or INT32 bank. -/
def Bank.rows (b : Bank) : List (List Nat) := chunksOf 64 32 (b.words.map (·.toNat))

/-- The rows of an LPX bank. -/
def Bank.lpRows (b : Bank) : List (List Nat) :=
  b.rows.map fun r => (chunksOf 2 32 r).map fun w => w.getD 0 0 + 2 ^ 32 * w.getD 1 0

/-- Replace all cells of a bank. -/
def Bank.putRows (b : Bank) (rows : List (List Nat)) : Bank :=
  { b with cells := fofList 0 0 (rows.flatten.map (BitVec.ofNat 32)) }

/-- Replace all cells of an LPX bank. -/
def Bank.putLpRows (b : Bank) (rows : List (List Nat)) : Bank :=
  b.putRows (rows.map fun r => r.flatMap fun v => [v % 2 ^ 32, v / 2 ^ 32])

/-- A bank cleared to the value of its format, with its poison bits and witness (R182, R186). -/
def Bank.clear (b : Bank) (fmt : Nat) : Bank :=
  { b with
    cells := if fmt == bLPX then (upTo 1024).map fun i => (2 * i + 1, 0x80000000) else []
    poison := 0, wit := [], wv := true }

/-- The byte addresses of n bytes of a ring from offset `off` after its head (R189), by physical address. -/
def Ring.addrs (r : Ring) (k off n : Nat) : List Nat :=
  (upTo n).map fun i => scratchBase k + r.base + (r.head + off + i) % r.size

/-- The pieces of n bytes of a ring from offset `off` after its head: physical address and length. -/
def Ring.spans (r : Ring) (k off n : Nat) : List (Nat × Nat) :=
  let a := (r.head + off) % r.size
  let base := scratchBase k + r.base
  let first := min n (r.size - a)
  if first == n then [(base + a, n)] else [(base + a, first), (base, n - first)]

/-- The bytes of a tile. -/
def State.tile (s : State) (r : Ring) (k off n : Nat) : List Byte := (r.spans k off n).flatMap fun (a, m) => s.bytes a m

/-- The first uncorrectable piece of a tile, by physical address. -/
def State.tileBad (s : State) (r : Ring) (k off n : Nat) : Option Nat :=
  ((r.spans k off n).find? fun (a, m) => s.poisoned a m).map (·.1)

/-- The rows of a tile that hold uncorrectable data, as a mask; `m` bytes a row, 32 rows. -/
def State.tileRowsBad (s : State) (r : Ring) (k off m : Nat) : Nat :=
  if s.poison.isEmpty then 0
  else (upTo 32).foldl (fun acc i => if (s.tileBad r k (off + m * i) m).isSome then acc + 2 ^ i else acc) 0

/-- Pop a tile (R189). -/
def Core.pop (c : Core) (g t : Nat) : Core :=
  match fget? c.rings g with
  | some r => { c with rings := fput c.rings g { r with head := (r.head + t) % r.size, fill := r.fill - t } }
  | none => c

/-- A generation of a ring. -/
def Core.ringGen (c : Core) (g : Nat) : Ring :=
  (fget? c.rings g).getD { g := 0, owner := 0, base := 0, size := 512, head := 0, tail := 0, fill := 0 }

/-! ### Exact values -/

/-- The exact sum of two values (IEEE 754 for the special ones). -/
def FVal.plus (a b : FVal) : FVal :=
  match a, b with
  | .nan _, _ => .nan false
  | _, .nan _ => .nan false
  | .inf n1, .inf n2 => if n1 == n2 then .inf n1 else .nan false
  | .inf n, _ => .inf n
  | _, .inf n => .inf n
  | .fin n1 m1 e1, .fin n2 m2 e2 =>
    let r := addFin RNE n1 m1 e1 n2 m2 e2
    .fin r.1 r.2.1 r.2.2

/-- The exact product; an invalid one is a NaN. -/
def FVal.times (a b : FVal) : FVal := (mulVal a b).getD (.nan false)

/-- A value rounded RNE to FP32, canonical where it is a NaN. -/
def toFp32 (v : FVal) : Nat := (fp32.deliver false RNE v).1

/-- A finite or special value as a partial sum. -/
def PCell.ofVal (v : FVal) : PCell :=
  match v with
  | .fin n m e => .fin (if n then -(m : Int) else m) e
  | .inf n => .inf n
  | .nan _ => .nan

/-- A partial sum as a value. -/
def PCell.val (c : PCell) : FVal :=
  match c with
  | .fin m e => .fin (m < 0) m.natAbs e
  | .inf n => .inf n
  | .nan => .nan false

/-! ### Products (R190, R191) -/

/-- MMA formats by minor (R190): 0 BF16, 1 FP16, 2 E4M3, 3 E5M2, 4 INT8, 5 SX8, 6 SX5, 7 SX3. -/
def mmaFmt (f : Nat) : Fmt :=
  match f with
  | 0 => bf16
  | 1 => fp16
  | 2 => e4m3
  | _ => e5m2

/-- The bytes of an A tile and of a B tile (R190). -/
def mmaBytes (f bfmt k : Nat) : Nat × Nat :=
  if bfmt == bLPX then (1024, 1024)
  else if f ≤ 1 then (64 * k, 128 * k)
  else if f ≤ 4 then (32 * k, 64 * k)
  else (32 * sxBytes (f - 5), 64 * sxBytes (f - 5))

/-- Elements of n bytes in a list of bytes. -/
def codesOf (n count : Nat) (bs : List Byte) : List Nat := (chunksOf n count bs).map ofBytes

/-- Column j of a list of rows. -/
def columnOf {α : Type} (d : α) (rows : List (List α)) (j : Nat) : List α := rows.map fun r => r.getD j d

/-- The columns of a list of rows. -/
def columnsOf {α : Type} (d : α) (cols : Nat) (rows : List (List α)) : List (List α) := (upTo cols).map (columnOf d rows)

/-- One cell of an FP32 MMA (R81): groups of g products with the accumulator, each sum exact and rounded RNE once. -/
def mmaCell (g : Nat) (c : Nat) (a b : List FVal) : Nat :=
  (chunksOf g (a.length / g) (List.zipWith FVal.times a b)).foldl
    (fun c ps => toFp32 (ps.foldl FVal.plus (fp32.val c))) c

/-- Apply a function to every cell with its A row and B column. -/
def mapCells {α β : Type} (rows : List (List Nat)) (as : List α) (bs : List β) (f : Nat → α → β → Nat) : List (List Nat) :=
  List.zipWith (fun r a => List.zipWith (fun c b => f c a b) r bs) rows as

/-- The dot product of integers. -/
def dotInt (a b : List Int) : Int := (List.zipWith (· * ·) a b).foldl (· + ·) 0

/-- The rows of a mask that fail a test. -/
def failMask (l : List Bool) : Nat := ((upTo l.length).zip l).foldl (fun acc (i, b) => if b then acc + 2 ^ i else acc) 0

/-- The witness of a bank as 32 words. -/
def Bank.witness (b : Bank) : List Nat := (fexpand 0 32 0 b.wit).map (·.toNat)

/-- Replace the witness column. -/
def Bank.putWitness (b : Bank) (w : List Nat) : Bank := { b with wit := fofList 0 0 (w.map (BitVec.ofNat 32)) }

/-- An SDC event (R192, R199, R347, R351): sw.SDC, a strata entry, and a counter. -/
def State.sdcEvent (s : State) (x source unit info low : Nat) (pc : Word64) : State :=
  ((s.stickySw x swSDC).count (dieOf x) (if source == 0 then telSDCWIT else telSDCCHK)).strataAdd (dieOf x) 2 false
    (coreOf x % 24) (x % 4)
    (toBytes 1 source ++ toBytes 3 unit ++ toBytes 4 info ++ toBytes 4 low ++ toBytes 4 0 ++ toBytes 8 pc.toNat)

/-- INT8: C + A x B, wrapping; with WIT the witness column and the failing rows where WV was set (R192). -/
def Bank.mmaInt (b : Bank) (as bcols : List (List Int)) (wit : Bool) : Bank × Nat :=
  let rows := mapCells b.rows as bcols fun c a col => wrapN 32 ((c : Int) + dotInt a col)
  let b' := b.putRows rows
  if wit then
    let bsum := (upTo (bcols.headD []).length).map fun k => (bcols.map fun c => c.getD k 0).foldl (· + ·) 0
    let w := List.zipWith (fun (w : Nat) a => wrapN 32 ((w : Int) + dotInt a bsum)) b.witness as
    let fails := List.zipWith (fun r w => wrapN 32 ((r.foldl (· + ·) 0 : Nat) : Int) != w) rows w
    (b'.putWitness w, if b.wv then failMask fails else 0)
  else ({ b' with wv := false }, 0)

/-- The exponents and products of an SX MMA (R64, R191): cell (i, j) is P x 2^(Ea + Eb - 260 - 2(w - 2)), a NaN where a block
is one. -/
def sxCells (f : Nat) (as bs : List Nat) : List PCell :=
  as.flatMap fun x => bs.map fun y =>
    if sxE x == 0xFF || sxE y == 0xFF then .nan
    else .fin (sxDot f x y) ((sxE x : Int) + sxE y - 260 - 2 * ((sxW f : Int) - 2))

/-- The exact products of an LPX MMA (R191). -/
def lpxCells (f : Fmt) (as bcols : List (List Nat)) : List PCell :=
  let av := as.map fun r => r.map f.val
  let bv := bcols.map fun c => c.map f.val
  av.flatMap fun a => bv.map fun b =>
    match List.zipWith FVal.times a b with
    | [] => .fin 0 0
    | p :: ps => PCell.ofVal (ps.foldl FVal.plus p)

/-- An entry's data reaches every place that has bound it (R201, R202). -/
def PortEntry.fill (id : Nat) (d : PortData) (e : PortEntry) : PortEntry := if e.id == id then { e with data := some d } else e

/-- A command whose bound entry takes data. -/
def MCmd.fill (id : Nat) (d : PortData) (m : MCmd) : MCmd := { m with port := m.port.map (·.fill id d) }

/-- The data of a port entry stands from its MMA's retirement on. -/
def State.fillPort (s : State) (x id : Nat) (d : PortData) : State :=
  let s := s.modCtx x fun c =>
    { c with ports := c.ports.map (·.fill id d), portsH := c.portsH.map (·.fill id d), heldX := c.heldX.map (·.fill id d) }
  s.modCore (coreOf x) fun c => { c with mq := c.mq.map (·.fill id d) }

/-- POISON as a deferred trap of a command, with the ECC event of the read (R193, R346). -/
def State.enginePoison (s : State) (m : MCmd) (pa : Nat) : State :=
  (s.eccEvent pa).deferTrap m.x { cause := cPOISON, info := m.pc, slot := m.slot, tok := 0 }

/-- The single wrong bits of a tile are corrected as it is read (R345, R346). -/
def State.tileCorrect (s : State) (r : Ring) (k off n : Nat) : State :=
  (r.spans k off n).foldl (fun t (a, l) => t.eccCorrect a l) s

/-- MMA at its retirement (R191 to R193). -/
def mmaRetire (m : MCmd) (fmt b bfmt ga gb : Nat) (ka kb wit : Bool) (k entry : Nat) (s : State) : State :=
  let key := coreOf m.x
  let c := s.core key
  let ra := c.ringGen ga
  let rb := c.ringGen gb
  let t := mmaBytes fmt bfmt k
  let offB := if ga == gb then t.1 else 0
  let aBytes := s.tile ra key 0 t.1
  let bBytes := s.tile rb key offB t.2
  let badA := s.tileRowsBad ra key 0 (t.1 / 32)
  let badPa := (s.tileBad ra key 0 t.1).orElse fun _ => s.tileBad rb key offB t.2
  let badRows := BitVec.ofNat 32 (if (s.tileBad rb key offB t.2).isSome then 2 ^ 32 - 1 else badA)
  let bank := c.bank b
  let s' :=
    if bfmt == bLPX then
      let as := chunksOf 16 32 (codesOf 2 512 aBytes)
      let bs := columnsOf 0 32 (chunksOf 32 16 (codesOf 2 512 bBytes))
      s.fillPort m.x entry { cols := 32, cells := lpxCells (mmaFmt fmt) as bs, poison := badRows }
    else if fmt ≥ 5 then
      let f := fmt - 5
      let n := sxBytes f
      s.fillPort m.x entry { cols := 64, cells := sxCells f (codesOf n 32 aBytes) (codesOf n 64 bBytes), poison := badRows }
    else if fmt == 4 then
      let as := chunksOf k 32 ((codesOf 1 (32 * k) aBytes).map (sgn 8))
      let bs := columnsOf 0 64 (chunksOf 64 k ((codesOf 1 (64 * k) bBytes).map (sgn 8)))
      let r := bank.mmaInt as bs wit
      let s := s.setCore key (c.setBank b { r.1 with poison := r.1.poison ||| badRows })
      if r.2 != 0 then s.sdcEvent m.x 0 b r.2 0 m.pc else s
    else
      let n := if fmt ≤ 1 then 2 else 1
      let f := mmaFmt fmt
      let as := chunksOf k 32 ((codesOf n (32 * k) aBytes).map f.val)
      let bs := columnsOf (.fin false 0 0) 64 (chunksOf 64 k ((codesOf n (64 * k) bBytes).map f.val))
      let rows := mapCells bank.rows as bs (mmaCell (if fmt ≤ 1 then 4 else 8))
      s.setCore key (c.setBank b { bank.putRows rows with poison := bank.poison ||| badRows, wv := false })
  let s' := (s'.tileCorrect ra key 0 t.1).tileCorrect rb key offB t.2
  let s' := s'.modCore key fun c =>
    if ga == gb then (if ka then c else c.pop ga (t.1 + t.2))
    else
      let c := if ka then c else c.pop ga t.1
      if kb then c else c.pop gb t.2
  match badPa with
  | some pa => s'.enginePoison m pa
  | none => s'

/-! ### Counting (R71 to R73, R195, R196) -/

/-- Class weights of E2M1 (R71), in units of 2^-2: the product of two magnitudes in units of 0.5. -/
def e2m1Weights : List Nat := [1, 2, 3, 4, 6, 8, 9, 12, 16, 18, 24, 32, 36, 48, 64, 72, 96, 144]

/-- Class values of INT4 (R72). -/
def int4Values : List Nat :=
  [1, 2, 3, 4, 5, 6, 7, 8, 9, 10, 12, 14, 15, 16, 18, 20, 21, 24, 25, 28, 30, 32, 35, 36, 40, 42, 48, 49, 56, 64]

/-- The weights of a set's format: 1 INT4, 2 E2M1, 0 none (R197, R198). -/
def csetWeights (fmt : Nat) : List Nat := if fmt == 1 then int4Values else if fmt == 2 then e2m1Weights else []

/-- The outcome of one K-element (R73): the class and the sign, or a zero event; and BESC. -/
def countOne (fmt a b : Nat) : Option (Nat × Bool) × Bool :=
  if fmt == 2 then
    if a == 8 then (none, false)
    else if b == 8 then (none, true)
    else
      let v := e2m1Units a * e2m1Units b
      (if v == 0 then none else some (e2m1Weights.idxOf v, bitAt a 3 != bitAt b 3), false)
  else
    let v := sgn 4 a * sgn 4 b
    (if v == 0 then none else some (int4Values.idxOf v.natAbs, v < 0), false)

/-- Count one K-element in a cell; BESC is kept beside it. -/
def CCell.count (fmt : Nat) (c : CCell × Bool) (ab : Nat × Nat) : CCell × Bool :=
  match countOne fmt ab.1 ab.2 with
  | (none, e) => ({ c.1 with z := c.1.z + 1 }, c.2 || e)
  | (some (k, neg), _) =>
    ({ c.1 with nz := c.1.nz + 1, cnt := fset 0 c.1.cnt k (fget 0 c.1.cnt k + (if neg then -1 else 1)) }, c.2)

/-- The 4-bit elements of bytes, the low half first (R58). -/
def nibbles (bs : List Byte) : List Nat := bs.flatMap fun b => [b.toNat % 16, b.toNat / 16]

/-- The cells of a set as 2,048, row by row. -/
def CSet.all (n : CSet) : List CCell := fexpand CCell.zero 2048 0 n.cells

/-- Replace all cells of a set. -/
def CSet.putAll (n : CSet) (l : List CCell) : CSet := { n with cells := fofList CCell.zero 0 l }

/-- MCNT at its retirement (R73, R189, R193, R196). -/
def mcntRetire (m : MCmd) (fmt n ga gb : Nat) (ka kb : Bool) (k : Nat) (s : State) : State :=
  let key := coreOf m.x
  let c := s.core key
  let ra := c.ringGen ga
  let rb := c.ringGen gb
  let ta := 16 * k
  let tb := 32 * k
  let offB := if ga == gb then ta else 0
  let as := chunksOf k 32 (nibbles (s.tile ra key 0 ta))
  let bs := columnsOf 0 64 (chunksOf 64 k (nibbles (s.tile rb key offB tb)))
  let badPa := (s.tileBad ra key 0 ta).orElse fun _ => s.tileBad rb key offB tb
  let badRows := BitVec.ofNat 32 (if (s.tileBad rb key offB tb).isSome then 2 ^ 32 - 1 else s.tileRowsBad ra key 0 (ta / 32))
  let set := c.cset n
  let rs := List.zipWith (fun row a => List.zipWith (fun cell b => (a.zip b).foldl (CCell.count fmt) (cell, false)) row bs)
    (chunksOf 64 32 set.all) as
  let flat := rs.flatten
  let set' := { set.putAll (flat.map (·.1)) with poison := set.poison ||| badRows, pdepth := set.pdepth + k, pfmt := fmt }
  let c := c.setCset n set'
  let c := if ga == gb then (if ka then c else c.pop ga (ta + tb))
           else
             let c := if ka then c else c.pop ga ta
             if kb then c else c.pop gb tb
  let s := ((s.setCore key c).tileCorrect ra key 0 ta).tileCorrect rb key offB tb
  let s := if flat.any (·.2) then s.stickySw m.x swBESC else s
  match badPa with
  | some pa => s.enginePoison m pa
  | none => s

/-! ### Counter images (R197) -/

/-- The bytes of an image. -/
def imageBytes : Nat := 262208

/-- The bytes of a cell in an image. -/
def CCell.bytes (c : CCell) : List Byte :=
  ((upTo 32).flatMap fun i => toBytes 3 (wrapN 24 (fget 0 c.cnt i).toInt)) ++ toBytes 3 c.nz.toNat ++ toBytes 3 c.z.toNat ++
    List.replicate 26 0

/-- The cell that 128 bytes of an image give; only the low 20 bits of a counter are taken. -/
def CCell.ofBytes (bs : List Byte) : CCell :=
  let v := fun (i : Nat) => BitVec.ofNat 20 (Sys2Proof.Machine.ofBytes ((bs.drop (3 * i)).take 3))
  { cnt := fofList 0 0 ((upTo 32).map v), nz := v 32, z := v 33 }

/-- Two cells added modulo 2^20 (R197). -/
def CCell.plus (a b : CCell) : CCell :=
  { cnt := fofList 0 0 ((upTo 32).map fun i => fget 0 a.cnt i + fget 0 b.cnt i), nz := a.nz + b.nz, z := a.z + b.z }

/-- The image of a set; cell (i, j) stands at 0x40 + 128 x (64 i + j) (log 29). -/
def CSet.image (n : CSet) : List Byte :=
  toBytes 4 n.pdepth ++ toBytes 1 n.pfmt ++ List.replicate 59 0 ++ n.all.flatMap CCell.bytes

/-- The cells of an image. -/
def imageCells (bs : List Byte) : List CCell := (chunksOf 128 2048 (bs.drop 64)).map CCell.ofBytes

/-- The rows of an image that hold uncorrectable data; the header concerns all. -/
def State.imageBad (s : State) (pa : Nat) : Nat :=
  if s.poisoned pa 64 then 2 ^ 32 - 1
  else (upTo 32).foldl (fun acc i => if s.poisoned (pa + 64 + 8192 * i) 8192 then acc + 2 ^ i else acc) 0

/-- NLOAD and NMERGE as they perform (R193, R197): neither clears a poison bit. -/
def loadImage (m : MCmd) (merge : Bool) (n addr : Nat) (s : State) : State :=
  let key := coreOf m.x
  let pa := scratchBase key + addr
  let bs := s.bytes pa imageBytes
  let c := s.core key
  let set := c.cset n
  let depth := Sys2Proof.Machine.ofBytes (bs.take 4)
  let fmt := Sys2Proof.Machine.ofBytes ((bs.drop 4).take 1)
  let bad := s.imageBad pa
  let cells := imageCells bs
  let set' := if merge then
      { set.putAll (List.zipWith CCell.plus set.all cells) with
        pdepth := set.pdepth + depth, pfmt := if set.pfmt == 0 then fmt else set.pfmt
        poison := set.poison ||| BitVec.ofNat 32 bad }
    else { set.putAll cells with pdepth := depth, pfmt := fmt, poison := set.poison ||| BitVec.ofNat 32 bad }
  let s := (s.setCore key (c.setCset n set')).eccCorrect pa imageBytes
  if bad != 0 then s.enginePoison m pa else s

/-! ### Draining and checking (R198, R199) -/

/-- The drained value of a cell (R74). -/
def CCell.drained (fmt : Nat) (c : CCell) : Int :=
  ((upTo 30).zip (csetWeights fmt)).foldl (fun (acc : Int) (iw : Nat × Nat) => acc + (fget 0 c.cnt iw.1).toInt * (iw.2 : Int)) 0

/-- NDRAIN (R193, R198). -/
def Core.ndrain (c : Core) (b n : Nat) (clr : Bool) : Core :=
  let bank := c.bank b
  let set := c.cset n
  let rows := List.zipWith (List.zipWith fun (v : Nat) cell => wrapN 32 ((v : Int) + CCell.drained set.pfmt cell)) bank.rows
    (chunksOf 64 32 set.all)
  let set' := if clr then { set with cells := [], pdepth := 0 } else set
  (c.setBank b { bank.putRows rows with poison := bank.poison ||| set.poison, wv := false }).setCset n set'

/-- The three properties of R73 fail in a cell. -/
def CCell.fails (depth : Nat) (c : CCell) : Bool :=
  let cs := (fexpand 0 32 0 c.cnt).map (·.toInt)
  let sum : Int := cs.foldl (· + ·) 0
  c.nz.toNat + c.z.toNat != depth || (cs.foldl (fun (acc : Nat) v => acc + v.natAbs) 0) > c.nz.toNat || (sum - (c.nz.toNat : Int)) % 2 != 0

/-- The number of failing cells of a set and the lowest of them. -/
def CSet.failing (n : CSet) : Nat × Nat :=
  let l := ((upTo 2048).zip n.all).filter fun (_, c) => c.fails n.pdepth
  (l.length, (l.map (·.1)).headD 0)

/-! ### The scale port (R202 to R206) -/

/-- The extra exponent of XSCALE, cut to a range outside which the FP32 result no longer depends on it. -/
def scaleExp (e : Int) : Int := max (-4000) (min 4000 e)

/-- 2^n times a partial sum. -/
def PCell.scaled (c : PCell) (n : Int) : FVal := c.val.scale n

/-- A value is an infinity or a NaN. -/
def FVal.special (v : FVal) : Bool :=
  match v with
  | .fin _ _ _ => false
  | _ => true

/-- |v|. -/
def FVal.magnitude (v : FVal) : FVal :=
  match v with
  | .fin _ m e => .fin false m e
  | w => w

/-- A row fails the SX witness comparison (R192). -/
def sxRowFails (row : List Nat) (w : Nat) : Bool :=
  let cs := row.map fp32.val
  let wv := fp32.val w
  let zero : FVal := .fin false 0 0
  if wv.special || cs.any FVal.special then false
  else
    let diff := (cs.foldl FVal.plus zero).plus wv.negate
    let bound := (cs.foldl (fun acc c => acc.plus c.magnitude) wv.magnitude).scale (-10)
    cmpVal diff.magnitude bound > 0

/-- XSCALE (R192, R203): the bank and the failing rows. -/
def Bank.xscale (b : Bank) (e : Int) (wit : Bool) (d : PortData) : Bank × Nat :=
  let ps := (chunksOf 64 32 d.cells).map fun r => r.map fun p => p.scaled (scaleExp e)
  let rows := List.zipWith (List.zipWith fun c p => toFp32 ((fp32.val c).plus p)) b.rows ps
  let b' := { b.putRows rows with poison := b.poison ||| d.poison }
  if wit then
    let w := List.zipWith (fun w r => toFp32 (r.foldl FVal.plus (fp32.val w))) b.witness ps
    (b'.putWitness w, if b.wv then failMask (List.zipWith sxRowFails rows w) else 0)
  else ({ b' with wv := false }, 0)

/-- One cell of XEXPV (R204): none for LPRANGE. -/
def xexpvCell (x : Int) (c : Nat) (p : PCell) : Option Nat :=
  match p with
  | .fin m e => (lpOfMag (m < 0) m.natAbs (e + x)).bind fun t => lpSum [c, t]
  | _ => lpSum [c, lpN]

/-- XEXPV (R193, R204): the bank, whose cells change where none is out of range and which takes the entry's poison, and the mask of
rows that have such a cell. -/
def Bank.xexpv (b : Bank) (x : VReg) (d : PortData) : Bank × Nat :=
  let ps := chunksOf 32 32 d.cells
  let xs := ((upTo 32).map fun i => x.toNat / 2 ^ (32 * i) % 2 ^ 32).map (sgn 32)
  let rows := List.zipWith (fun r px => List.zipWith (xexpvCell px.2) r px.1) b.lpRows (ps.zip xs)
  let mask := failMask (rows.map fun r => r.any (·.isNone))
  if mask != 0 then ({ b with poison := b.poison ||| d.poison }, mask)
  else ({ b.putLpRows (rows.map fun r => r.map fun v => v.getD 0) with poison := b.poison ||| d.poison, wv := false }, 0)

/-- The value of an E2M1 code in units of 2^-1, 0 for the escape code (R74). -/
def e2m1Half (c : Nat) : Int := if bitAt c 3 then -(e2m1Units c : Int) else e2m1Units c

/-- Apply the side list of XFIX (R205) in order to the rows: the rows, and the address of an entry that stops it. -/
def xfixList (s : State) (base limit k : Nat) (brows : List (List Nat)) :
    Nat → Nat → List (List Nat) → List (List Nat) × Option Nat
  | 0, _, rows => (rows, none)
  | n + 1, a, rows =>
    let w := s.memN (base + a) 8
    let kk := fld w 15 0
    if a + 8 > limit || kk ≥ k || fld w 31 21 != 0 || fld w 63 44 != 0 then (rows, some a)
    else
      let v := sgn 12 (fld w 43 32)
      let bk := brows.getD kk []
      let row := List.zipWith (fun (c : Nat) b => wrapN 32 ((c : Int) + v * e2m1Half b)) (rows.getD (fld w 20 16) []) bk
      xfixList s base limit k brows n (a + 8) (rows.set (fld w 20 16) row)

/-- XFIX as it performs (R189, R193, R205). -/
def performXfix (m : MCmd) (b g : Nat) (addr : Word64) (k : Nat) (pop : Bool) (s : State) : State :=
  let key := coreOf m.x
  let c := s.core key
  let r := c.ringGen g
  let t := 32 * k
  if r.fill < t then s.deferTrap m.x { cause := cACCESS, info := n64 (r.g + 2 * 2 ^ 8), slot := m.slot, tok := 0 }
  else
    let base := scratchBase key
    let a := addr.toNat
    let brows := chunksOf 64 k (nibbles (s.tile r key 0 t))
    let n := s.memN (base + a) 8
    let bank := c.bank b
    let res := xfixList s base 0x300000 k brows n (a + 8) bank.rows
    let listLen := 8 + 8 * min n (0x300000 / 8)
    let badPa := (s.tileBad r key 0 t).orElse fun _ => if s.poisoned (base + a) listLen then some (base + a) else none
    let bank' := { bank.putRows res.1 with
                   poison := if badPa.isSome then BitVec.allOnes 32 else bank.poison, wv := false }
    let c := c.setBank b bank'
    let c := if pop && res.2.isNone then c.pop g t else c
    let s := ((s.setCore key c).tileCorrect r key 0 t).eccCorrect (base + a) listLen
    let s := match res.2 with
      | some a => s.deferTrap m.x { cause := cACCESS, info := n64 a, slot := m.slot, tok := 0 }
      | none => s
    match badPa with
    | some pa => s.enginePoison m pa
    | none => s

/-- XCVT (R206): mode 0 i2f, 1 f2i. -/
def xcvtCell (mode : Nat) (e : Int) (c : Nat) : Nat :=
  if mode == 0 then
    let i := sgn 32 c
    toFp32 (.fin (i < 0) i.natAbs e)
  else
    match fp32.val c with
    | .nan _ => 0
    | .inf n => wrapN 32 (if n then -(2 ^ 31 : Nat) else (2 ^ 31 : Nat) - 1)
    | .fin n m x =>
      let v := (roundInt RNE n m (x + e)).1
      wrapN 32 (max (-(2 ^ 31 : Nat)) (min ((2 ^ 31 : Nat) - 1) v))

/-! ### Performing a command -/

/-- Half-row `half` = 2 row + h of a bank as a register (R187). -/
def Bank.half (b : Bank) (half : Nat) : VReg :=
  BitVec.ofNat 1024 (ofBytes ((fexpand 0 32 0 (fwindow b.cells (32 * half) 32)).flatMap fun w => toBytes 4 w.toNat))

/-- Write a half-row. -/
def Bank.putHalf (b : Bank) (half : Nat) (v : VReg) : Bank :=
  let ws := (upTo 32).map fun i => BitVec.ofNat 32 (v.toNat / 2 ^ (32 * i))
  { b with
    cells := ((upTo 32).zip ws).foldl (fun m (i, w) => fset 0 m (32 * half + i) w) b.cells, wv := false }

/-- The 8 KB of a bank. -/
def Bank.image (b : Bank) : List Byte := b.words.flatMap fun w => toBytes 4 w.toNat

/-- A change to a bank by a command. -/
def onBank (m : MCmd) (b : Nat) (f : Bank → Bank) (s : State) : State :=
  s.modCore (coreOf m.x) fun c => c.setBank b (f (c.bank b))

/-- An arrival of a command's value. -/
def MCmd.sends (m : MCmd) (isV : Bool) (reg tok : Nat) (v : VReg) (s : State) : State :=
  s.modCtx m.x fun c => { c with arrivals := c.arrivals ++
    [{ tok := tok, isV := isV, reg := reg, val := v, poison := false, pc := m.pc, slot := m.slot, va := m.pc, src := 7,
       cls := 0 }] }

/-- A queued operation that resets a counter set's depth (R196). -/
def MOp.resets (o : MOp) (n : Nat) : Bool :=
  match o with
  | .nclr k => k == n
  | .nload k _ => k == n
  | .ndrain _ k c _ => k == n && c
  | _ => false

/-- The ring that is short of tiles when an operation performs (R189), if one is. -/
def MOp.short (o : MOp) (c : Core) : Option Nat :=
  let test := fun (ga gb ta tb : Nat) =>
    if ga == gb then (if (c.ringGen ga).fill < ta + tb then some ga else none)
    else if (c.ringGen ga).fill < ta then some ga
    else if (c.ringGen gb).fill < tb then some gb
    else none
  match o with
  | .mma fmt _ bfmt ga gb _ _ _ k _ => test ga gb (mmaBytes fmt bfmt k).1 (mmaBytes fmt bfmt k).2
  | .mcnt _ _ ga gb _ _ k => test ga gb (16 * k) (32 * k)
  | _ => none

/-- An MMA or MCNT that performs nothing for want of tiles (R189, R196); the format that an MCNT set at its issue stands (R195;
log 29). -/
def shortOp (m : MCmd) (g : Nat) (s : State) : State :=
  let key := coreOf m.x
  let s := s.deferTrap m.x
    { cause := cACCESS, info := n64 (((s.core key).ringGen g).g + 2 * 2 ^ 8), slot := m.slot, tok := 0 }
  match m.op with
  | .mcnt fmt n _ _ _ _ k =>
    s.modCore key fun c =>
      let v := c.cset n
      c.setCset n { v with pfmt := fmt, depth := if c.mq.any (·.op.resets n) then v.depth else v.depth - k }
  | _ => s

/-! ### The arrays' own ECC (R345, R346) -/

/-- The number of a row of a core's arrays: banks 0 to 31, then the counter sets, 32 rows each. -/
def arrayRow (k arr row : Nat) : Nat := 32 * (34 * k + arr) + row

/-- The arrays that an operation reads as it performs: a bank by its number, counter set n as 32 + n. -/
def MOp.reads (o : MOp) : List Nat :=
  match o with
  | .read b _ _ _ => [b]
  | .write b _ _ => [b]
  | .mma fmt b bfmt _ _ _ _ _ _ _ => if bfmt == bLPX || fmt ≥ 5 then [] else [b]
  | .mcnt _ n _ _ _ _ _ => [32 + n]
  | .nmerge n _ => [32 + n]
  | .ndump n _ => [32 + n]
  | .ndrain b n _ _ => [b, 32 + n]
  | .nchk n _ _ => [32 + n]
  | .xscale b _ => [b]
  | .xexpv b _ => [b]
  | .xfix b _ _ _ _ => [b]
  | .xcvt b _ _ => [b]
  | .drain _ b => [b]
  | .clear _ _ => []
  | .nclr _ => []
  | .nload _ _ => []

/-- The arrays that an operation writes whole without reading them. -/
def MOp.renews (o : MOp) : List Nat :=
  match o with
  | .clear b _ => [b]
  | .nclr n => [32 + n]
  | .nload n _ => [32 + n]
  | _ => []

/-- A row of an array is found uncorrectable: its poison bit is set, ECCUNC counts it, and an ECC entry is made, whose address is
free, since an array has none (R351; log 14). -/
def State.arrayBad (s : State) (k i : Nat) : State :=
  let arr := i / 32 % 34
  let bit : BitVec 32 := BitVec.ofNat 32 (2 ^ (i % 32))
  let s := s.modCore k fun c =>
    if arr < 32 then c.setBank arr { c.bank arr with poison := (c.bank arr).poison ||| bit }
    else c.setCset (arr - 32) { c.cset (arr - 32) with poison := (c.cset (arr - 32)).poison ||| bit }
  let t := (s.count (k / 24) telECCUNC).strataAdd (k / 24) 5 false (k % 24) 0xFF
    (toBytes 8 4 ++ toBytes 8 (Config.freeField s.fresh 2).toNat)
  { t with fresh := s.fresh + 1 }

/-- The ECC of an array is verified as it is read: a row with one wrong bit is corrected and counted. -/
def State.arrayRead (s : State) (k arr : Nat) : State :=
  let here := s.arrayErr.filter fun (i, _) => i / 32 == 34 * k + arr
  here.foldl (fun t (i, bad) => if bad then t.arrayBad k i else t.count (k / 24) telECCCOR)
    { s with arrayErr := s.arrayErr.filter fun (i, _) => i / 32 != 34 * k + arr }

/-- The arrays of an operation as it finds them. -/
def MCmd.checked (m : MCmd) (s : State) : State :=
  let k := coreOf m.x
  if s.arrayErr.isEmpty then s
  else
    let s := m.op.reads.foldl (fun t a => t.arrayRead k a) s
    { s with arrayErr := s.arrayErr.filter fun (i, _) => !m.op.renews.any fun a => i / 32 == 34 * k + a }

/-- What a command does to the arrays as it finds them. -/
def MCmd.act (m : MCmd) (s : State) : State :=
  let key := coreOf m.x
  match m.op with
  | .clear b fmt => onBank m b (·.clear fmt) s
  | .read b half tok vd => m.sends true vd tok (((s.core key).bank b).half half) s
  | .write b half data => onBank m b (·.putHalf half data) s
  | .mma fmt b bfmt ga gb ka kb wit k entry => mmaRetire m fmt b bfmt ga gb ka kb wit k entry s
  | .mcnt fmt n ga gb ka kb k => mcntRetire m fmt n ga gb ka kb k s
  | .nclr n => s.modCore key fun c => c.setCset n { c.cset n with cells := [], pdepth := 0, pfmt := 0, poison := 0 }
  | .nmerge n addr => loadImage m true n addr s
  | .nload n addr => loadImage m false n addr s
  | .ndump n addr => s.write (scratchBase key + addr) ((s.core key).cset n).image
  | .ndrain b n clr _ => s.modCore key fun c => c.ndrain b n clr
  | .nchk n tok sd =>
    let f := ((s.core key).cset n).failing
    let s := m.sends false sd tok (BitVec.ofNat 1024 f.1) s
    if f.1 != 0 then s.sdcEvent m.x 1 n f.1 f.2 m.pc else s
  | .xscale b e =>
    match m.port.bind (·.data) with
    | none => s
    | some d =>
      let r := ((s.core key).bank b).xscale e ((m.port.map (·.wit)).getD false) d
      let s := onBank m b (fun _ => r.1) s
      if r.2 != 0 then s.sdcEvent m.x 0 b r.2 0 m.pc else s
  | .xexpv b x =>
    match m.port.bind (·.data) with
    | none => s
    | some d =>
      let r := ((s.core key).bank b).xexpv x d
      let s := onBank m b (fun _ => r.1) s
      if r.2 != 0 then s.deferTrap m.x { cause := cLPRANGE, info := n64 r.2, slot := m.slot, tok := 0 } else s
  | .xfix b g addr k pop => performXfix m b g addr k pop s
  | .xcvt b mode e =>
    onBank m b (fun v => { v.putRows (v.rows.map fun r => r.map (xcvtCell mode e)) with wv := false }) s
  | .drain copy b =>
    let v := (s.core key).bank b
    s.modCore key fun c =>
      { c with copies := c.copies.map fun p =>
          if p.id == copy then { p with image := some (v.image, v.poison), needImage := false } else p }

/-- What a command does at its retirement or, for all but MMA and MCNT, when it performs. -/
def MCmd.run (m : MCmd) (s : State) : State := m.act (m.checked s)

/-- An operation of a context that occupies its core's array runs to its retirement (R57). -/
def State.finishRun (s : State) (x : Nat) : State :=
  match (s.core (coreOf x)).mrun with
  | some m => if m.x == x then m.run (s.modCore (coreOf x) fun c => { c with mrun := none }) else s
  | none => s

end Sys2Proof.Machine
end

