-- ==== Sys2Proof/WellFormed.lean ====
section
/-! DEFINITION. WellFormed.lean: which instructions are legal (R116 to R123, R130, R131 and the limits that each entry of
spec/08 to spec/13 gives). A decoded word that is not well formed is ILLEGAL. Bits that must be zero and are not fields are
checked by the decoder. -/

namespace Sys2Proof

/-- A condition code of CMP, BC and VCMP that R130 assigns. -/
def ccInt (cc : BitVec 4) : Bool := cc.toNat ≤ 9

/-- A condition code of VFCMP that R130 assigns. -/
def ccFloat (cc : BitVec 4) : Bool := cc.toNat ≤ 7

/-- R138: a shift immediate lies in 0 to 63. -/
def RI.shiftOk (r : RI) : Bool := r.imm.toNat ≤ 63

/-- R139: pos + width does not exceed 64. -/
def fieldOk (wm1 pos : BitVec 6) : Bool := pos.toNat + wm1.toNat + 1 ≤ 64

/-- R116, R131: the stride is zero unless the form is sticky. -/
def strideOk {n : Nat} (sk : Bool) (stride : BitVec n) : Bool := sk || stride.toNat == 0

/-- R116: a load takes rlx or acq; a relaxed access has scope 0; scopes 5 to 7 are illegal. -/
def Ld.ok (r : Ld) : Bool :=
  (r.ord.toNat ≤ 1) && (r.scope.toNat ≤ 4) && (r.ord.toNat != 0 || r.scope.toNat == 0) && strideOk r.sk r.stride

/-- R116: a store takes rlx or rel. -/
def St.ok (r : St) : Bool :=
  (r.ord.toNat == 0 || r.ord.toNat == 2) && (r.scope.toNat ≤ 4) && (r.ord.toNat != 0 || r.scope.toNat == 0) &&
    strideOk r.sk r.stride

/-- R116, R146: an atomic takes every order. -/
def At.ok (r : At) : Bool :=
  (r.scope.toNat ≤ 4) && (r.ord.toNat != 0 || r.scope.toNat == 0) && strideOk r.sk r.stride

/-- R146: the d of ATADDS is even. -/
def At.pairOk (r : At) : Bool := r.ok && r.d.toNat % 2 == 0

/-- R146: ATFADD, whose d is even. -/
def Ato.ok (r : Ato) : Bool :=
  (r.scope.toNat ≤ 4) && (r.ord.toNat != 0 || r.scope.toNat == 0) && strideOk r.sk r.stride && r.d.toNat % 2 == 0

/-- R116, R148: ATCAS, whose scope may also serve the failure order. -/
def Ato.casOk (r : Ato) : Bool :=
  (r.scope.toNat ≤ 4) && (r.ord.toNat != 0 || r.opt || r.scope.toNat == 0) && strideOk r.sk r.stride &&
    r.d.toNat % 2 == 0

/-- R120: a v register number. -/
def vreg (r : BitVec 9) : Bool := r.toNat < 320

/-- R117: an s register in a 9-bit field. -/
def sreg9 (r : BitVec 9) : Bool := r.toNat < 64

/-- R117: a p register in a 9-bit field. -/
def preg9 (r : BitVec 9) : Bool := r.toNat < 16

/-- No use of FI, FO or SAT. -/
def VF.noOpt (r : VF) : Bool := !r.fi && !r.fo && !r.sat

/-- The field c is unused. -/
def VF.noC (r : VF) : Bool := r.c.toNat == 0 && !r.wc

/-- The field b is unused. -/
def VF.noB (r : VF) : Bool := r.b.toNat == 0 && !r.wb

/-- The three fields d, a and b name v registers. -/
def VF.vvv (r : VF) : Bool := vreg r.d && vreg r.a && vreg r.b

/-- R162: an integer operation; `u` and `sat` say whether the table allows U and SAT. -/
def VF.intOk (r : VF) (u sat : Bool) : Bool :=
  r.vvv && r.noC && !r.fi && !r.fo && (r.sub.toNat == 0 || (u && r.sub.toNat == 1)) && (sat || !r.sat)

/-- R163: width h or w; Sub[0] selects BF16 at width h only. -/
def VF.fpWidth (r : VF) : Bool := (r.w.toNat == 1 && r.sub.toNat ≤ 1) || (r.w.toNat == 2 && r.sub.toNat == 0)

/-- R163: a two-operand floating-point operation. -/
def VF.fp2 (r : VF) : Bool := r.vvv && r.noC && r.fpWidth && !r.sat

/-- R163: VFMA and VFMS. -/
def VF.fp3 (r : VF) : Bool := r.vvv && vreg r.c && r.fpWidth && !r.sat

/-- R163: a single-operand floating-point operation. -/
def VF.fp1 (r : VF) : Bool := r.vvv && r.noB && r.noC && r.fpWidth && !r.sat

/-- R165: VCMP. -/
def VF.cmpOk (r : VF) : Bool := preg9 r.d && vreg r.a && vreg r.b && r.noC && r.noOpt && r.sub.toNat == 0

/-- R165: VFCMP. -/
def VF.fcmpOk (r : VF) : Bool := preg9 r.d && vreg r.a && vreg r.b && r.noC && r.fpWidth && !r.fo && !r.sat

/-- R166: PAND, POR, PXOR. -/
def VF.pOk (r : VF) : Bool :=
  preg9 r.d && preg9 r.a && preg9 r.b && r.noC && r.noOpt && r.w.toNat == 0 && r.sub.toNat == 0 && r.p.toNat == 0 &&
    !r.wa && !r.wb

/-- R166: PNOT. -/
def VF.pnotOk (r : VF) : Bool := r.pOk && r.b.toNat == 0

/-- R166: PPOP and PFIRST. -/
def VF.pcountOk (r : VF) : Bool :=
  sreg9 r.d && preg9 r.a && r.noB && r.noC && r.noOpt && r.sub.toNat == 0 && r.p.toNat == 0 && !r.wa

/-- R167: the formats of a conversion code, source then destination, as element bits and whether the format is
floating-point; none for an unassigned code. -/
def cvtShape (code : Nat) : Option ((Nat × Bool) × (Nat × Bool)) :=
  match code with
  | 0x01 => some ((16, true), (32, true))
  | 0x02 => some ((16, true), (32, true))
  | 0x03 => some ((8, true), (32, true))
  | 0x04 => some ((8, true), (32, true))
  | 0x05 => some ((4, true), (32, true))
  | 0x06 => some ((32, true), (16, true))
  | 0x07 => some ((32, true), (16, true))
  | 0x08 => some ((32, true), (8, true))
  | 0x09 => some ((32, true), (8, true))
  | 0x0A => some ((32, true), (4, true))
  | 0x0B => some ((16, true), (16, true))
  | 0x0C => some ((16, true), (16, true))
  | 0x0D => some ((4, false), (32, true))
  | 0x0E => some ((8, false), (32, true))
  | 0x0F => some ((32, false), (32, true))
  | 0x10 => some ((32, true), (32, false))
  | 0x11 => some ((32, true), (8, false))
  | 0x12 => some ((4, false), (8, false))
  | 0x13 => some ((4, false), (32, false))
  | 0x14 => some ((8, false), (32, false))
  | 0x15 => some ((32, false), (8, false))
  | 0x16 => some ((32, false), (4, false))
  | 0x17 => some ((8, false), (4, false))
  | _ => none

/-- R167: the codes on which SAT is allowed. -/
def cvtSat (code : Nat) : Bool :=
  (0x06 ≤ code && code ≤ 0x0C) || code == 0x10 || code == 0x11 || (0x15 ≤ code && code ≤ 0x17)

/-- R167, R168: VCVT. -/
def VF.cvtOk (r : VF) : Bool :=
  vreg r.d && vreg r.a && r.noB && !r.wc && r.w.toNat == 0 &&
    match cvtShape r.c.toNat with
    | none => false
    | some ((sb, sf), (db, df)) =>
      (sf || !r.fi) && (df || !r.fo) && (cvtSat r.c.toNat || !r.sat) && r.sub.toNat < max sb db / min sb db

/-- R169: VSXPACK and VSXUNPACK. -/
def VF.sxOk (r : VF) : Bool :=
  vreg r.d && vreg r.a && r.noB && r.noC && r.noOpt && r.p.toNat == 0 &&
    ((r.w.toNat == 0 && r.sub.toNat ≤ 2) || (r.w.toNat == 1 && r.sub.toNat ≤ 4) || r.w.toNat == 2)

/-- R170: VPERM. -/
def VF.permOk (r : VF) : Bool := r.vvv && r.noC && r.noOpt && r.sub.toNat == 0

/-- R171: VSHUF. -/
def VF.shufOk (r : VF) : Bool :=
  r.vvv && r.noC && r.noOpt && (r.sub.toNat < 4 || (r.sub.toNat == 4 && r.noB))

/-- R170: VBCAST. -/
def VF.bcastOk (r : VF) : Bool :=
  vreg r.d && sreg9 r.a && r.noB && r.noC && r.noOpt && r.sub.toNat == 0

/-- R172: VMOVS; Sub[0] = 1 extracts, and Sub[1] = 1 then sign-extends. -/
def VF.movsOk (r : VF) : Bool :=
  sreg9 r.b && r.noC && r.noOpt && r.p.toNat == 0 &&
    ((r.sub.toNat == 0 && vreg r.d && sreg9 r.a) ||
      ((r.sub.toNat == 1 || r.sub.toNat == 3) && sreg9 r.d && vreg r.a))

/-- R170: VSEL. -/
def VF.selOk (r : VF) : Bool := r.vvv && preg9 r.c && !r.wc && r.noOpt && r.sub.toNat == 0

/-- R170: VCOMPRESS and VEXPAND. -/
def VF.packOk (r : VF) : Bool :=
  vreg r.d && vreg r.a && r.noB && r.noC && r.noOpt && r.sub.toNat == 0

/-- R173: VRED and VSCAN. -/
def VF.redOk (r : VF) : Bool :=
  vreg r.d && vreg r.a && r.noB && r.noC && !r.sat &&
    (if r.sub.toNat ≤ 4 then !r.fi && !r.fo else r.w.toNat == 1 || r.w.toNat == 2)

/-- R174: VTOPK; c holds k. -/
def VF.topkOk (r : VF) : Bool :=
  r.vvv && !r.wc && r.noOpt && (r.w.toNat == 1 || r.w.toNat == 2) && r.sub.toNat % 4 != 3 && r.d.toNat % 2 == 0 &&
    1 ≤ r.c.toNat && r.c.toNat ≤ (if r.w.toNat == 1 then 64 else 32) && (r.sub.toNat ≥ 4 || r.noB)

/-- R177: VLPMUL, VLPADD, VLPMAX, VLPDIV. -/
def VF.lpOk (r : VF) : Bool := r.vvv && r.noC && r.noOpt && r.w.toNat == 3 && r.sub.toNat == 0

/-- R178: VLPCVT. -/
def VF.lpcvtOk (r : VF) : Bool := vreg r.d && vreg r.a && r.noB && r.noC && r.noOpt && r.w.toNat == 3

/-- R179: VLPSPLIT; c names a destination. -/
def VF.splitOk (r : VF) : Bool :=
  vreg r.d && vreg r.a && vreg r.c && !r.wc && r.noB && r.noOpt && r.w.toNat == 3 && r.sub.toNat < 4 && r.p.toNat == 0

/-- R180: VLPJOIN. -/
def VF.joinOk (r : VF) : Bool := r.vvv && r.noC && r.noOpt && r.w.toNat == 3 && r.sub.toNat < 2

/-- R181: VRAND; Sub[0] = 1 selects uniform, of width w only. -/
def VF.randOk (r : VF) : Bool :=
  vreg r.d && r.a.toNat == 0 && !r.wa && r.noB && r.noC && r.noOpt &&
    (r.sub.toNat == 0 || (r.sub.toNat == 1 && r.w.toNat == 2))

/-- R118, R175: a vector load. -/
def VM.loadOk (r : VM) : Bool := vreg r.v && !r.wv && strideOk r.sk r.stride

/-- R118, R175: a vector store. -/
def VM.storeOk (r : VM) : Bool := vreg r.v && strideOk r.sk r.stride

/-- R175: VLDS and VSTS read s(base + 1), so base 63 is illegal. -/
def VM.stridedOk (r : VM) : Bool := r.s.toNat != 63

/-- R197: a counter-set field is 0 or 1. -/
def cset (n : BitVec 2) : Bool := n.toNat < 2

/-- R190: K from its field. -/
def kOf (km : BitVec 12) : Nat := 16 * (km.toNat + 1)

/-- R189, R190: an MMA whose K is at most `kmax` and which may carry WIT or not. -/
def Mma.ok (r : Mma) (kmax : Nat) (wit : Bool) : Bool :=
  (kOf r.km ≤ kmax) && (wit || !r.wit) && (r.ga != r.gb || r.ka == r.kb)

/-- R119, R131: q names a tile predicate with QE = 1, and is an unused field with QE = 0. -/
def tileOk (qe : Bool) (q : BitVec 3) : Bool := qe || q == 0

/-- R189, R190, R195: an MCNT. -/
def Mcnt.ok (r : Mcnt) : Bool := cset r.n && kOf r.km ≤ 65536 && (r.ga != r.gb || r.ka == r.kb)

/-- R188: base + size stays inside the scratchpad. -/
def Rgset.ok (r : Rgset) : Bool := r.base.toNat * 64 + r.size.toNat * 512 ≤ 0x300000

/-- R215: with BA = 0 the a and Wa fields are 0; the stride needs the sticky bit. -/
def CopyX.ok (e : CopyX) (sk : Bool) : Bool := strideOk sk e.stride && (e.ba || (e.a.toNat == 0 && !e.wa))

/-- R215: as CopyX.ok, for CGATH and CSCAT. -/
def Cidx.ok (r : Cidx) : Bool := strideOk r.sk r.stride && (r.ba || (r.a.toNat == 0 && !r.wa))

/-- The instruction is legal (R131). Events have no encoding and nothing to check. -/
def Instr.wellFormed : Instr → Bool
  | .sNop => true
  | .add _ => true
  | .sub _ => true
  | .mul _ => true
  | .mulh _ => true
  | .mulhu _ => true
  | .div _ => true
  | .divu _ => true
  | .rem _ => true
  | .remu _ => true
  | .and _ => true
  | .or _ => true
  | .xor _ => true
  | .andn _ => true
  | .shl _ => true
  | .shr _ => true
  | .sra _ => true
  | .min _ => true
  | .max _ => true
  | .minu _ => true
  | .maxu _ => true
  | .clz _ => true
  | .ctz _ => true
  | .popc _ => true
  | .mov _ => true
  | .bfx r => fieldOk r.wm1 r.pos
  | .bfi r => fieldOk r.wm1 r.pos
  | .cmp cc _ => ccInt cc
  | .csel _ => true
  | .addImmediate _ => true
  | .subImmediate _ => true
  | .mulImmediate _ => true
  | .andImmediate _ => true
  | .orImmediate _ => true
  | .xorImmediate _ => true
  | .andnImmediate _ => true
  | .shlImmediate r => r.shiftOk
  | .shrImmediate r => r.shiftOk
  | .sraImmediate r => r.shiftOk
  | .minImmediate _ => true
  | .maxImmediate _ => true
  | .minuImmediate _ => true
  | .maxuImmediate _ => true
  | .cmpImmediate cc _ => ccInt cc
  | .li _ => true
  | .lih _ => true
  | .la _ => true
  | .br _ => true
  | .call _ => true
  | .bc cc _ => ccInt cc
  | .jr _ => true
  | .callr _ => true
  | .ret _ => true
  | .ldB r => r.ok
  | .ldBu r => r.ok
  | .ldH r => r.ok
  | .ldHu r => r.ok
  | .ldW r => r.ok
  | .ldWu r => r.ok
  | .ldD r => r.ok
  | .stB r => r.ok
  | .stH r => r.ok
  | .stW r => r.ok
  | .stD r => r.ok
  | .atopAdd r => r.ok
  | .atopAnd r => r.ok
  | .atopOr r => r.ok
  | .atopXor r => r.ok
  | .atopMin r => r.ok
  | .atopMax r => r.ok
  | .atopSub r => r.ok
  | .atswp r => r.ok
  | .atcas r => r.casOk
  | .atfadd r => r.ok
  | .atadds r => r.pairOk
  | .fence r => r.scope.toNat ≤ 4
  | .waitm _ => true
  | .barrive _ => true
  | .barriveExt _ _ => true
  | .bexpect _ => true
  | .bexpectExt _ _ => true
  | .bwait _ => true
  | .bwaitExt _ _ => true
  | .btest _ => true
  | .btestExt _ _ => true
  | .tkget _ => true
  | .tkpost _ => true
  | .tkdone _ => true
  | .trap => true
  | .trapExt _ => true
  | .tret => true
  | .crd _ => true
  | .cwr _ => true
  | .hbeat => true
  | .yield => true
  | .vadd r => r.intOk true true
  | .vsub r => r.intOk true true
  | .vmul r => r.intOk false false
  | .vmulh r => r.intOk true false
  | .vmin r => r.intOk true false
  | .vmax r => r.intOk true false
  | .vabs r => r.intOk false true && r.noB
  | .vand r => r.intOk false false
  | .vor r => r.intOk false false
  | .vxor r => r.intOk false false
  | .vandn r => r.intOk false false
  | .vshl r => r.intOk false false
  | .vshr r => r.intOk false false
  | .vsra r => r.intOk false false
  | .vfadd r => r.fp2
  | .vfsub r => r.fp2
  | .vfmul r => r.fp2
  | .vfma r => r.fp3
  | .vfms r => r.fp3
  | .vfmin r => r.fp2
  | .vfmax r => r.fp2
  | .vrcp r => r.fp1
  | .vrsq r => r.fp1
  | .vexp2 r => r.fp1
  | .vlog2 r => r.fp1
  | .vcmp cc r => ccInt cc && r.cmpOk
  | .vfcmp cc r => ccFloat cc && r.fcmpOk
  | .vNop => true
  | .pand r => r.pOk
  | .por r => r.pOk
  | .pxor r => r.pOk
  | .pnot r => r.pnotOk
  | .ppop r => r.pcountOk
  | .pfirst r => r.pcountOk
  | .vcvt r => r.cvtOk
  | .vsxpack r => r.sxOk
  | .vsxunpack r => r.sxOk
  | .vperm r => r.permOk
  | .vshuf r => r.shufOk
  | .vbcast r => r.bcastOk
  | .vmovs r => r.movsOk
  | .vsel r => r.selOk
  | .vcompress r => r.packOk
  | .vexpand r => r.packOk
  | .vred r => r.redOk
  | .vscan r => r.redOk
  | .vtopk r => r.topkOk
  | .vlpmul r => r.lpOk
  | .vlpadd r => r.lpOk
  | .vlpmax r => r.lpOk
  | .vlpdiv r => r.lpOk
  | .vlpcvt r => r.lpcvtOk
  | .vlpsplit r => r.splitOk
  | .vlpjoin r => r.joinOk
  | .vrand r => r.randOk
  | .vld r => r.loadOk
  | .vst r => r.storeOk
  | .vlds r => r.loadOk && r.stridedOk
  | .vsts r => r.storeOk && r.stridedOk
  | .vgath r => vreg r.v && vreg r.x && !r.wv
  | .vscat r => vreg r.v && vreg r.x
  | .vldb r => r.loadOk
  | .fNop => true
  | .fopen _ => true
  | .fopenExt r e => !r.o || e.b.toNat ≤ 62
  | .fnext _ => true
  | .fskip _ => true
  | .fisect _ => true
  | .funion _ => true
  | .fmerge _ => true
  | .fldv r => vreg r.vd
  | .fcrd r => vreg r.vd && 2 ≤ r.w.toNat
  | .femit r => r.v.toNat ≤ 318
  | .fstat r => r.sel.toNat ≤ 5
  | .fsave _ => true
  | .frest _ => true
  | .fclose _ => true
  | .xNop => true
  | .xscale _ => true
  | .xexpv r => vreg r.va
  | .xfix _ => true
  | .xcvt r => r.mode.toNat ≤ 1
  | .hNop => true
  | .hld _ => true
  | .hldExt r e => strideOk r.sk e.stride
  | .hst _ => true
  | .hstExt r e => strideOk r.sk e.stride
  | .hset r => r.field.toNat ≤ 9
  | .hfence r => r.one || (r.a.toNat == 0 && !r.wa)
  | .mNop => true
  | .acalloc r => r.fmt.toNat ≤ 2 && tileOk r.qe r.q
  | .acfree r => tileOk r.qe r.q
  | .acgrant r => tileOk r.qe r.q
  | .aczero r => tileOk r.qe r.q
  | .acrd r => vreg r.vd && strideOk r.sk r.stride && tileOk r.qe r.q
  | .acrdSt r => tileOk r.qe r.q
  | .acwr r => vreg r.vs && strideOk r.sk r.stride && tileOk r.qe r.q
  | .mmaBf16 r => r.ok 16384 false && tileOk r.qe r.q
  | .mmaFp16 r => r.ok 16384 false && tileOk r.qe r.q
  | .mmaE4m3 r => r.ok 32768 false && tileOk r.qe r.q
  | .mmaE5m2 r => r.ok 32768 false && tileOk r.qe r.q
  | .mmaInt8 r => r.ok 32768 true && tileOk r.qe r.q
  | .mmaSx8 r => r.ok 16 true && tileOk r.qe r.q
  | .mmaSx5 r => r.ok 16 true && tileOk r.qe r.q
  | .mmaSx3 r => r.ok 16 true && tileOk r.qe r.q
  | .mcntInt4 r => r.ok && tileOk r.qe r.q
  | .mcntE2m1 r => r.ok && tileOk r.qe r.q
  | .nclr r => cset r.n && tileOk r.qe r.q
  | .nmerge r => cset r.n && tileOk r.qe r.q
  | .ndump r => cset r.n && tileOk r.qe r.q
  | .nload r => cset r.n && tileOk r.qe r.q
  | .ndrain r => cset r.n && tileOk r.qe r.q
  | .nchk r => cset r.n && tileOk r.qe r.q
  | .rgset r => r.ok && tileOk r.qe r.q
  | .cNop => true
  | .copy r => tileOk r.qe r.q
  | .copyExt r e => e.ok r.sk && tileOk r.qe r.q
  | .copyt r => tileOk r.qe r.q
  | .copytExt r e => e.ok r.sk && tileOk r.qe r.q
  | .cgath r => r.ok && tileOk r.qe r.q
  | .cscat r => r.ok && tileOk r.qe r.q
  | .cred r => tileOk r.qe r.q
  | .credExt r e => e.ok r.sk && tileOk r.qe r.q
  | .cring r => tileOk r.qe r.q
  | .cringExt r e => e.ok r.sk && tileOk r.qe r.q
  | .cwait _ => true
  | .ctest _ => true
  | .publish _ => true
  | .upd _ => true
  | .tNop => true
  | .tmode r => r.mode.toNat ≤ 4
  | .tevid _ => true
  | .tseed _ => true
  | .tfwd r => (r.ph.toNat != 0 || r.w.toNat == 0) && tileOk r.qe r.q
  | .tfwdExt r e => (r.ph.toNat != 0 || r.w.toNat == 0) && strideOk r.sk e.stride && tileOk r.qe r.q
  | .trev r => tileOk r.qe r.q
  | .trevExt r e => strideOk r.sk e.stride && tileOk r.qe r.q
  | .tsamp r => tileOk r.qe r.q
  | .targm r => tileOk r.qe r.q
  | .tratio r => tileOk r.qe r.q
  | .twclr r => !r.all || r.w.toNat == 0
  | .tstat r => r.sel.toNat ≤ 3
  | .hint _ => true
  | .hintExt _ _ => true
  | .bundleIssue _ => true
  | .blockRelease _ => true
  | .gateTimeoutMark _ => true
  | .loadArrival _ _ => true
  | .accessRefusal _ _ _ => true
  | .deferredTrap _ => true
  | .heartbeatExpiry _ => true
  | .contextRetire _ => true
  | .taskDispatch _ => true
  | .taskDecrement _ => true
  | .taskCancellation _ => true
  | .regionAdmit _ => true
  | .partitionPreempt _ _ => true
  | .partitionSwapOut _ _ => true
  | .partitionSwapIn _ _ => true
  | .barrierArrival _ _ => true
  | .mCommandPerform _ => true
  | .mmaRetirement _ => true
  | .tCommandPerform _ => true
  | .fibreQueuePerform _ => true
  | .copyChunkWritten _ _ _ => true
  | .cringRoom _ _ => true
  | .publishExchange _ _ => true
  | .updGateOpen _ _ => true
  | .powerOn => true
  | .powerRemoval => true
  | .bootctlGo => true
  | .warmReset => true
  | .extend _ => true
  | .heldExtend => true
  | .attestation => true
  | .extctlErrRead _ => true
  | .throttleUpdate _ _ => true
  | .mwr _ _ => true
  | .mrd _ _ _ => true
  | .dbell _ _ => true
  | .unknownMessageType _ => true
  | .linkModuleDisable _ => true
  | .flitCrcFailure _ => true
  | .registerWrite _ _ => true
  | .qtailWrite _ _ => true
  | .launch _ => true
  | .post _ => true
  | .marker _ => true
  | .queueEntryBadOp _ => true
  | .queueCompletion _ => true
  | .qctlTeardown _ => true
  | .qctlReset _ => true
  | .frovfRead _ => true
  | .resumeContext _ => true
  | .resumeCopy _ => true
  | .resumeAll _ => true
  | .tlbinvPage _ _ => true
  | .tlbinvAsid _ _ => true
  | .tlbinvAll _ _ => true
  | .tlbinvDone _ => true
  | .suspend => true
  | .unsuspend => true
  | .stopmark => true
  | .stopmarkContextStop _ => true
  | .save => true
  | .restore => true
  | .ldtctlDrop _ => true
  | .ldtctlDropAll => true
  | .ldtctlDone => true
  | .diePowerUp _ => true
  | .diePowerDown _ => true
  | .strataDump => true
  | .telclr => true
  | .dieLoss _ => true
  | .cheadWrite _ _ => true
  | .corePowerGating _ => true

/-- The instruction is legal. -/
abbrev WellFormed (i : Instr) : Prop := i.wellFormed = true

end Sys2Proof
end

