-- ==== Sys2Proof/Decode.lean ====
section
/-! DEFINITION. Decode.lean: the decoder of a slot word (R114 to R119, R128 to R132) and, after it, the encoder. A slot word
has a major in [31:28], L in [27], SK in [26], a minor in [25:20] and a form-specific area [19:0]; an extension word follows
when L = 1. The decoder refuses every pattern of R131: a form reader answers none where a bit that the form does not use is
nonzero, and the result must be well formed. -/

namespace Sys2Proof

open Machine (fld b2n toBytes ofBytes)

/-- A one-bit field as a truth value. -/
def flag (n : Nat) : Bool := n == 1

/-- The fields of RR; every other bit must be 0. -/
def RR.read (f : Nat) : Option RR :=
  some { sk := flag (fld f 26 26), d := BitVec.ofNat 6 (fld f 19 14), a := BitVec.ofNat 6 (fld f 13 8), b := BitVec.ofNat 6 (fld f 7 2), wa := flag (fld f 1 1), wb := flag (fld f 0 0) }

/-- The fields of RU; every other bit must be 0. -/
def RU.read (f : Nat) : Option RU :=
  if fld f 7 2 == 0 && fld f 0 0 == 0 then
    some { sk := flag (fld f 26 26), d := BitVec.ofNat 6 (fld f 19 14), a := BitVec.ofNat 6 (fld f 13 8), wa := flag (fld f 1 1) }
  else none

/-- The fields of RI; every other bit must be 0. -/
def RI.read (f x : Nat) : Option RI :=
  if fld f 7 2 == 0 && fld f 0 0 == 0 then
    some { sk := flag (fld f 26 26), d := BitVec.ofNat 6 (fld f 19 14), a := BitVec.ofNat 6 (fld f 13 8), wa := flag (fld f 1 1), imm := BitVec.ofNat 31 (fld x 30 0) }
  else none

/-- The fields of Bfx; every other bit must be 0. -/
def Bfx.read (f x : Nat) : Option Bfx :=
  if fld f 7 2 == 0 && fld f 0 0 == 0 && fld x 30 12 == 0 then
    some { sk := flag (fld f 26 26), d := BitVec.ofNat 6 (fld f 19 14), a := BitVec.ofNat 6 (fld f 13 8), wa := flag (fld f 1 1), wm1 := BitVec.ofNat 6 (fld x 11 6), pos := BitVec.ofNat 6 (fld x 5 0) }
  else none

/-- The fields of Bfi; every other bit must be 0. -/
def Bfi.read (f x : Nat) : Option Bfi :=
  if fld f 7 2 == 0 && fld x 30 12 == 0 then
    some { sk := flag (fld f 26 26), d := BitVec.ofNat 6 (fld f 19 14), a := BitVec.ofNat 6 (fld f 13 8), wa := flag (fld f 1 1), wd := flag (fld f 0 0), wm1 := BitVec.ofNat 6 (fld x 11 6), pos := BitVec.ofNat 6 (fld x 5 0) }
  else none

/-- The fields of Csel; every other bit must be 0. -/
def Csel.read (f x : Nat) : Option Csel :=
  if fld x 30 7 == 0 then
    some { sk := flag (fld f 26 26), d := BitVec.ofNat 6 (fld f 19 14), a := BitVec.ofNat 6 (fld f 13 8), b := BitVec.ofNat 6 (fld f 7 2), wa := flag (fld f 1 1), wb := flag (fld f 0 0), wc := flag (fld x 6 6), c := BitVec.ofNat 6 (fld x 5 0) }
  else none

/-- The fields of Li; every other bit must be 0. -/
def Li.read (f x : Nat) : Option Li :=
  if fld f 13 3 == 0 && fld f 1 0 == 0 then
    some { sk := flag (fld f 26 26), d := BitVec.ofNat 6 (fld f 19 14), i31 := flag (fld f 2 2), imm := BitVec.ofNat 31 (fld x 30 0) }
  else none

/-- The fields of Lih; every other bit must be 0. -/
def Lih.read (f x : Nat) : Option Lih :=
  if fld f 7 3 == 0 && fld f 0 0 == 0 then
    some { sk := flag (fld f 26 26), d := BitVec.ofNat 6 (fld f 19 14), a := BitVec.ofNat 6 (fld f 13 8), wa := flag (fld f 1 1), i31 := flag (fld f 2 2), imm := BitVec.ofNat 31 (fld x 30 0) }
  else none

/-- The fields of La; every other bit must be 0. -/
def La.read (f x : Nat) : Option La :=
  if fld f 13 4 == 0 && fld f 1 0 == 0 then
    some { sk := flag (fld f 26 26), d := BitVec.ofNat 6 (fld f 19 14), m := flag (fld f 3 3), i31 := flag (fld f 2 2), imm := BitVec.ofNat 31 (fld x 30 0) }
  else none

/-- The fields of Br; every other bit must be 0. -/
def Br.read (f x : Nat) : Option Br :=
  if fld f 26 26 == 0 && fld f 19 3 == 0 && fld f 1 0 == 0 then
    some { dis := flag (fld f 2 2), off := BitVec.ofNat 31 (fld x 30 0) }
  else none

/-- The fields of Call; every other bit must be 0. -/
def Call.read (f x : Nat) : Option Call :=
  if fld f 26 26 == 0 && fld f 13 3 == 0 && fld f 1 0 == 0 then
    some { d := BitVec.ofNat 6 (fld f 19 14), dis := flag (fld f 2 2), off := BitVec.ofNat 31 (fld x 30 0) }
  else none

/-- The fields of Bc; every other bit must be 0. -/
def Bc.read (f x : Nat) : Option Bc :=
  if fld f 26 26 == 0 && fld f 19 14 == 0 then
    some { a := BitVec.ofNat 6 (fld f 13 8), b := BitVec.ofNat 6 (fld f 7 2), wa := flag (fld f 1 1), wb := flag (fld f 0 0), off := BitVec.ofNat 31 (fld x 30 0) }
  else none

/-- The fields of Jr; every other bit must be 0. -/
def Jr.read (f : Nat) : Option Jr :=
  if fld f 26 26 == 0 && fld f 19 14 == 0 && fld f 7 2 == 0 && fld f 0 0 == 0 then
    some { a := BitVec.ofNat 6 (fld f 13 8), wa := flag (fld f 1 1) }
  else none

/-- The fields of Callr; every other bit must be 0. -/
def Callr.read (f : Nat) : Option Callr :=
  if fld f 26 26 == 0 && fld f 7 2 == 0 && fld f 0 0 == 0 then
    some { d := BitVec.ofNat 6 (fld f 19 14), a := BitVec.ofNat 6 (fld f 13 8), wa := flag (fld f 1 1) }
  else none

/-- The fields of Ld; every other bit must be 0. -/
def Ld.read (f x : Nat) : Option Ld :=
  if fld f 2 2 == 0 && fld f 0 0 == 0 then
    some { sk := flag (fld f 26 26), d := BitVec.ofNat 6 (fld f 19 14), a := BitVec.ofNat 6 (fld f 13 8), cls := BitVec.ofNat 3 (fld f 7 5), ord := BitVec.ofNat 2 (fld f 4 3), wa := flag (fld f 1 1), disp := BitVec.ofNat 15 (fld x 30 16), stride := BitVec.ofNat 13 (fld x 15 3), scope := BitVec.ofNat 3 (fld x 2 0) }
  else none

/-- The fields of St; every other bit must be 0. -/
def St.read (f x : Nat) : Option St :=
  if fld f 2 2 == 0 then
    some { sk := flag (fld f 26 26), d := BitVec.ofNat 6 (fld f 19 14), a := BitVec.ofNat 6 (fld f 13 8), cls := BitVec.ofNat 3 (fld f 7 5), ord := BitVec.ofNat 2 (fld f 4 3), wa := flag (fld f 1 1), wd := flag (fld f 0 0), disp := BitVec.ofNat 15 (fld x 30 16), stride := BitVec.ofNat 13 (fld x 15 3), scope := BitVec.ofNat 3 (fld x 2 0) }
  else none

/-- The fields of At; every other bit must be 0. -/
def At.read (f x : Nat) : Option At :=
  if fld f 2 2 == 0 then
    some { sk := flag (fld f 26 26), d := BitVec.ofNat 6 (fld f 19 14), a := BitVec.ofNat 6 (fld f 13 8), cls := BitVec.ofNat 3 (fld f 7 5), ord := BitVec.ofNat 2 (fld f 4 3), wa := flag (fld f 1 1), wd := flag (fld f 0 0), disp := BitVec.ofNat 15 (fld x 30 16), stride := BitVec.ofNat 13 (fld x 15 3), scope := BitVec.ofNat 3 (fld x 2 0) }
  else none

/-- The fields of Ato; every other bit must be 0. -/
def Ato.read (f x : Nat) : Option Ato :=
  some { sk := flag (fld f 26 26), d := BitVec.ofNat 6 (fld f 19 14), a := BitVec.ofNat 6 (fld f 13 8), cls := BitVec.ofNat 3 (fld f 7 5), ord := BitVec.ofNat 2 (fld f 4 3), opt := flag (fld f 2 2), wa := flag (fld f 1 1), wd := flag (fld f 0 0), disp := BitVec.ofNat 15 (fld x 30 16), stride := BitVec.ofNat 13 (fld x 15 3), scope := BitVec.ofNat 3 (fld x 2 0) }

/-- The fields of Fence; every other bit must be 0. -/
def Fence.read (f : Nat) : Option Fence :=
  if fld f 26 26 == 0 && fld f 19 11 == 0 && fld f 7 4 == 0 && fld f 1 0 == 0 then
    some { scope := BitVec.ofNat 3 (fld f 10 8), kind := BitVec.ofNat 2 (fld f 3 2) }
  else none

/-- The fields of Waitm; every other bit must be 0. -/
def Waitm.read (f x : Nat) : Option Waitm :=
  if fld f 26 26 == 0 && fld x 15 8 == 0 && fld x 4 0 == 0 then
    some { d := BitVec.ofNat 6 (fld f 19 14), a := BitVec.ofNat 6 (fld f 13 8), b := BitVec.ofNat 6 (fld f 7 2), wa := flag (fld f 1 1), wb := flag (fld f 0 0), disp := BitVec.ofNat 15 (fld x 30 16), cls := BitVec.ofNat 3 (fld x 7 5) }
  else none

/-- The fields of Barrive; every other bit must be 0. -/
def Barrive.read (f : Nat) : Option Barrive :=
  if fld f 26 26 == 0 && fld f 19 15 == 0 then
    some { e := flag (fld f 14 14), a := BitVec.ofNat 6 (fld f 13 8), b := BitVec.ofNat 6 (fld f 7 2), wa := flag (fld f 1 1), wb := flag (fld f 0 0) }
  else none

/-- The fields of Bexpect; every other bit must be 0. -/
def Bexpect.read (f : Nat) : Option Bexpect :=
  if fld f 26 26 == 0 && fld f 19 14 == 0 then
    some { a := BitVec.ofNat 6 (fld f 13 8), b := BitVec.ofNat 6 (fld f 7 2), wa := flag (fld f 1 1), wb := flag (fld f 0 0) }
  else none

/-- The fields of Bwait; every other bit must be 0. -/
def Bwait.read (f : Nat) : Option Bwait :=
  if fld f 26 26 == 0 then
    some { d := BitVec.ofNat 6 (fld f 19 14), a := BitVec.ofNat 6 (fld f 13 8), b := BitVec.ofNat 6 (fld f 7 2), wa := flag (fld f 1 1), wb := flag (fld f 0 0) }
  else none

/-- The fields of BarX; every other bit must be 0. -/
def BarX.read (x : Nat) : Option BarX :=
  if fld x 15 0 == 0 then
    some { disp := BitVec.ofNat 15 (fld x 30 16) }
  else none

/-- The fields of Tkget; every other bit must be 0. -/
def Tkget.read (f : Nat) : Option Tkget :=
  if fld f 26 26 == 0 && fld f 13 0 == 0 then
    some { d := BitVec.ofNat 6 (fld f 19 14) }
  else none

/-- The fields of Tkpost; every other bit must be 0. -/
def Tkpost.read (f : Nat) : Option Tkpost :=
  if fld f 26 26 == 0 && fld f 19 14 == 0 && fld f 7 2 == 0 && fld f 0 0 == 0 then
    some { a := BitVec.ofNat 6 (fld f 13 8), wa := flag (fld f 1 1) }
  else none

/-- The fields of Tkdone; every other bit must be 0. -/
def Tkdone.read (f : Nat) : Option Tkdone :=
  if fld f 26 26 == 0 && fld f 19 14 == 0 then
    some { a := BitVec.ofNat 6 (fld f 13 8), b := BitVec.ofNat 6 (fld f 7 2), wa := flag (fld f 1 1), wb := flag (fld f 0 0) }
  else none

/-- The fields of TrapX; every other bit must be 0. -/
def TrapX.read (x : Nat) : Option TrapX :=
  some { imm := BitVec.ofNat 31 (fld x 30 0) }

/-- The fields of Crd; every other bit must be 0. -/
def Crd.read (f : Nat) : Option Crd :=
  if fld f 26 26 == 0 && fld f 7 0 == 0 then
    some { d := BitVec.ofNat 6 (fld f 19 14), cr := BitVec.ofNat 6 (fld f 13 8) }
  else none

/-- The fields of Cwr; every other bit must be 0. -/
def Cwr.read (f : Nat) : Option Cwr :=
  if fld f 26 26 == 0 && fld f 7 2 == 0 && fld f 0 0 == 0 then
    some { cr := BitVec.ofNat 6 (fld f 19 14), a := BitVec.ofNat 6 (fld f 13 8), wa := flag (fld f 1 1) }
  else none

/-- The fields of VF; every other bit must be 0. -/
def VF.read (f x : Nat) : Option VF :=
  some { sk := flag (fld f 26 26), w := BitVec.ofNat 2 (fld f 19 18), d := BitVec.ofNat 9 (fld f 17 9), a := BitVec.ofNat 9 (fld f 8 0), b := BitVec.ofNat 9 (fld x 30 22), c := BitVec.ofNat 9 (fld x 21 13), p := BitVec.ofNat 4 (fld x 12 9), wa := flag (fld x 8 8), wb := flag (fld x 7 7), wc := flag (fld x 6 6), fi := flag (fld x 5 5), fo := flag (fld x 4 4), sat := flag (fld x 3 3), sub := BitVec.ofNat 3 (fld x 2 0) }

/-- The fields of VM; every other bit must be 0. -/
def VM.read (f x : Nat) : Option VM :=
  if fld f 0 0 == 0 then
    some { sk := flag (fld f 26 26), w := BitVec.ofNat 2 (fld f 19 18), v := BitVec.ofNat 9 (fld f 17 9), s := BitVec.ofNat 6 (fld f 8 3), wb := flag (fld f 2 2), wv := flag (fld f 1 1), disp := BitVec.ofNat 14 (fld x 30 17), stride := BitVec.ofNat 10 (fld x 16 7), cls := BitVec.ofNat 3 (fld x 6 4), p := BitVec.ofNat 4 (fld x 3 0) }
  else none

/-- The fields of VG; every other bit must be 0. -/
def VG.read (f x : Nat) : Option VG :=
  if fld f 0 0 == 0 && fld x 20 7 == 0 then
    some { sk := flag (fld f 26 26), w := BitVec.ofNat 2 (fld f 19 18), v := BitVec.ofNat 9 (fld f 17 9), s := BitVec.ofNat 6 (fld f 8 3), wb := flag (fld f 2 2), wv := flag (fld f 1 1), x := BitVec.ofNat 9 (fld x 30 22), wx := flag (fld x 21 21), cls := BitVec.ofNat 3 (fld x 6 4), p := BitVec.ofNat 4 (fld x 3 0) }
  else none

/-- The fields of Fopen; every other bit must be 0. -/
def Fopen.read (f : Nat) : Option Fopen :=
  if fld f 26 26 == 0 && fld f 19 16 == 0 then
    some { f := BitVec.ofNat 4 (fld f 15 12), a := BitVec.ofNat 6 (fld f 11 6), wa := flag (fld f 5 5), o := flag (fld f 4 4), disp := BitVec.ofNat 4 (fld f 3 0) }
  else none

/-- The fields of FopenX; every other bit must be 0. -/
def FopenX.read (x : Nat) : Option FopenX :=
  if fld x 30 16 == 0 then
    some { b := BitVec.ofNat 6 (fld x 15 10), wb := flag (fld x 9 9), segi := BitVec.ofNat 9 (fld x 8 0) }
  else none

/-- The fields of Fnext; every other bit must be 0. -/
def Fnext.read (f : Nat) : Option Fnext :=
  if fld f 19 16 == 0 && fld f 3 0 == 0 then
    some { sk := flag (fld f 26 26), f := BitVec.ofNat 4 (fld f 15 12), nm1 := BitVec.ofNat 8 (fld f 11 4) }
  else none

/-- The fields of Fskip; every other bit must be 0. -/
def Fskip.read (f : Nat) : Option Fskip :=
  if fld f 19 16 == 0 && fld f 3 0 == 0 then
    some { sk := flag (fld f 26 26), f := BitVec.ofNat 4 (fld f 15 12), b := BitVec.ofNat 6 (fld f 11 6), wb := flag (fld f 5 5), t := flag (fld f 4 4) }
  else none

/-- The fields of Fjoin; every other bit must be 0. -/
def Fjoin.read (f : Nat) : Option Fjoin :=
  if fld f 19 16 == 0 && fld f 3 0 == 0 then
    some { sk := flag (fld f 26 26), d := BitVec.ofNat 4 (fld f 15 12), x := BitVec.ofNat 4 (fld f 11 8), y := BitVec.ofNat 4 (fld f 7 4) }
  else none

/-- The fields of Fmerge; every other bit must be 0. -/
def Fmerge.read (f x : Nat) : Option Fmerge :=
  if fld f 19 16 == 0 && fld f 4 0 == 0 && fld x 30 16 == 0 && fld x 1 0 == 0 then
    some { sk := flag (fld f 26 26), fo := BitVec.ofNat 4 (fld f 15 12), fu := BitVec.ofNat 4 (fld f 11 8), fmt := BitVec.ofNat 2 (fld f 7 6), z := flag (fld f 5 5), a := BitVec.ofNat 6 (fld x 15 10), wa := flag (fld x 9 9), b := BitVec.ofNat 6 (fld x 8 3), wb := flag (fld x 2 2) }
  else none

/-- The fields of Fldv; every other bit must be 0. -/
def Fldv.read (f x : Nat) : Option Fldv :=
  if fld f 19 16 == 0 && fld f 7 0 == 0 && fld x 30 16 == 0 then
    some { sk := flag (fld f 26 26), f := BitVec.ofNat 4 (fld f 15 12), w := BitVec.ofNat 2 (fld f 11 10), k := flag (fld f 9 9), side := flag (fld f 8 8), vd := BitVec.ofNat 9 (fld x 15 7), a := BitVec.ofNat 6 (fld x 6 1), wa := flag (fld x 0 0) }
  else none

/-- The fields of Fcrd; every other bit must be 0. -/
def Fcrd.read (f x : Nat) : Option Fcrd :=
  if fld f 19 16 == 0 && fld f 8 0 == 0 && fld x 30 16 == 0 && fld x 6 0 == 0 then
    some { sk := flag (fld f 26 26), f := BitVec.ofNat 4 (fld f 15 12), w := BitVec.ofNat 2 (fld f 11 10), k := flag (fld f 9 9), vd := BitVec.ofNat 9 (fld x 15 7) }
  else none

/-- The fields of Femit; every other bit must be 0. -/
def Femit.read (f x : Nat) : Option Femit :=
  if fld f 19 16 == 0 && fld f 4 0 == 0 && fld x 30 16 == 0 && fld x 6 0 == 0 then
    some { sk := flag (fld f 26 26), f := BitVec.ofNat 4 (fld f 15 12), w := BitVec.ofNat 2 (fld f 11 10), p := BitVec.ofNat 4 (fld f 9 6), wv := flag (fld f 5 5), v := BitVec.ofNat 9 (fld x 15 7) }
  else none

/-- The fields of Fstat; every other bit must be 0. -/
def Fstat.read (f : Nat) : Option Fstat :=
  if fld f 19 16 == 0 && fld f 2 0 == 0 then
    some { sk := flag (fld f 26 26), f := BitVec.ofNat 4 (fld f 15 12), d := BitVec.ofNat 6 (fld f 11 6), sel := BitVec.ofNat 3 (fld f 5 3) }
  else none

/-- The fields of Fimg; every other bit must be 0. -/
def Fimg.read (f : Nat) : Option Fimg :=
  if fld f 26 26 == 0 && fld f 19 16 == 0 && fld f 4 0 == 0 then
    some { f := BitVec.ofNat 4 (fld f 15 12), a := BitVec.ofNat 6 (fld f 11 6), wa := flag (fld f 5 5) }
  else none

/-- The fields of Fclose; every other bit must be 0. -/
def Fclose.read (f : Nat) : Option Fclose :=
  if fld f 26 26 == 0 && fld f 19 16 == 0 && fld f 11 0 == 0 then
    some { f := BitVec.ofNat 4 (fld f 15 12) }
  else none

/-- The fields of Xscale; every other bit must be 0. -/
def Xscale.read (f : Nat) : Option Xscale :=
  if fld f 19 16 == 0 && fld f 8 0 == 0 then
    some { sk := flag (fld f 26 26), a := BitVec.ofNat 6 (fld f 15 10), wa := flag (fld f 9 9) }
  else none

/-- The fields of Xexpv; every other bit must be 0. -/
def Xexpv.read (f x : Nat) : Option Xexpv :=
  if fld f 19 0 == 0 && fld x 30 10 == 0 then
    some { sk := flag (fld f 26 26), wa := flag (fld x 9 9), va := BitVec.ofNat 9 (fld x 8 0) }
  else none

/-- The fields of Xfix; every other bit must be 0. -/
def Xfix.read (f x : Nat) : Option Xfix :=
  if fld f 19 16 == 0 && fld x 30 12 == 0 then
    some { sk := flag (fld f 26 26), b := BitVec.ofNat 5 (fld f 15 11), g := BitVec.ofNat 3 (fld f 10 8), a := BitVec.ofNat 6 (fld f 7 2), wa := flag (fld f 1 1), pop := flag (fld f 0 0), km := BitVec.ofNat 12 (fld x 11 0) }
  else none

/-- The fields of Xcvt; every other bit must be 0. -/
def Xcvt.read (f x : Nat) : Option Xcvt :=
  if fld f 19 16 == 0 && fld f 8 0 == 0 && fld x 30 8 == 0 then
    some { sk := flag (fld f 26 26), b := BitVec.ofNat 5 (fld f 15 11), mode := BitVec.ofNat 2 (fld f 10 9), e := BitVec.ofNat 8 (fld x 7 0) }
  else none

/-- The fields of Hmem; every other bit must be 0. -/
def Hmem.read (f : Nat) : Option Hmem :=
  if fld f 19 16 == 0 && fld f 5 0 == 0 then
    some { sk := flag (fld f 26 26), h := BitVec.ofNat 3 (fld f 15 13), a := BitVec.ofNat 6 (fld f 12 7), wa := flag (fld f 6 6) }
  else none

/-- The fields of HmemX; every other bit must be 0. -/
def HmemX.read (x : Nat) : Option HmemX :=
  some { stride := BitVec.ofNat 15 (fld x 30 16), disp := BitVec.ofNat 16 (fld x 15 0) }

/-- The fields of Hset; every other bit must be 0. -/
def Hset.read (f : Nat) : Option Hset :=
  if fld f 19 16 == 0 && fld f 1 0 == 0 then
    some { sk := flag (fld f 26 26), h := BitVec.ofNat 3 (fld f 15 13), field := BitVec.ofNat 4 (fld f 12 9), a := BitVec.ofNat 6 (fld f 8 3), wa := flag (fld f 2 2) }
  else none

/-- The fields of Hfence; every other bit must be 0. -/
def Hfence.read (f : Nat) : Option Hfence :=
  if fld f 26 26 == 0 && fld f 19 16 == 0 && fld f 7 0 == 0 then
    some { one := flag (fld f 15 15), a := BitVec.ofNat 6 (fld f 14 9), wa := flag (fld f 8 8) }
  else none

/-- The fields of Acalloc; every other bit must be 0. -/
def Acalloc.read (f : Nat) : Option Acalloc :=
  if fld f 26 26 == 0 && fld f 8 0 == 0 then
    some { qe := flag (fld f 19 19), q := BitVec.ofNat 3 (fld f 18 16), b := BitVec.ofNat 5 (fld f 15 11), fmt := BitVec.ofNat 2 (fld f 10 9) }
  else none

/-- The fields of Acfree; every other bit must be 0. -/
def Acfree.read (f : Nat) : Option Acfree :=
  if fld f 26 26 == 0 && fld f 10 0 == 0 then
    some { qe := flag (fld f 19 19), q := BitVec.ofNat 3 (fld f 18 16), b := BitVec.ofNat 5 (fld f 15 11) }
  else none

/-- The fields of Acgrant; every other bit must be 0. -/
def Acgrant.read (f : Nat) : Option Acgrant :=
  if fld f 26 26 == 0 && fld f 7 0 == 0 then
    some { qe := flag (fld f 19 19), q := BitVec.ofNat 3 (fld f 18 16), b := BitVec.ofNat 5 (fld f 15 11), ctx := BitVec.ofNat 2 (fld f 10 9), r := flag (fld f 8 8) }
  else none

/-- The fields of Aczero; every other bit must be 0. -/
def Aczero.read (f : Nat) : Option Aczero :=
  if fld f 10 0 == 0 then
    some { sk := flag (fld f 26 26), qe := flag (fld f 19 19), q := BitVec.ofNat 3 (fld f 18 16), b := BitVec.ofNat 5 (fld f 15 11) }
  else none

/-- The fields of Acrd; every other bit must be 0. -/
def Acrd.read (f x : Nat) : Option Acrd :=
  if fld f 4 0 == 0 && fld x 15 9 == 0 then
    some { sk := flag (fld f 26 26), qe := flag (fld f 19 19), q := BitVec.ofNat 3 (fld f 18 16), b := BitVec.ofNat 5 (fld f 15 11), row := BitVec.ofNat 5 (fld f 10 6), h := flag (fld f 5 5), stride := BitVec.ofNat 15 (fld x 30 16), vd := BitVec.ofNat 9 (fld x 8 0) }
  else none

/-- The fields of AcrdSt; every other bit must be 0. -/
def AcrdSt.read (f x : Nat) : Option AcrdSt :=
  if fld f 10 0 == 0 && fld x 30 6 == 0 then
    some { sk := flag (fld f 26 26), qe := flag (fld f 19 19), q := BitVec.ofNat 3 (fld f 18 16), b := BitVec.ofNat 5 (fld f 15 11), sd := BitVec.ofNat 6 (fld x 5 0) }
  else none

/-- The fields of Acwr; every other bit must be 0. -/
def Acwr.read (f x : Nat) : Option Acwr :=
  if fld f 4 0 == 0 && fld x 15 10 == 0 then
    some { sk := flag (fld f 26 26), qe := flag (fld f 19 19), q := BitVec.ofNat 3 (fld f 18 16), b := BitVec.ofNat 5 (fld f 15 11), row := BitVec.ofNat 5 (fld f 10 6), h := flag (fld f 5 5), stride := BitVec.ofNat 15 (fld x 30 16), wv := flag (fld x 9 9), vs := BitVec.ofNat 9 (fld x 8 0) }
  else none

/-- The fields of Mma; every other bit must be 0. -/
def Mma.read (f x : Nat) : Option Mma :=
  if fld f 10 9 == 0 && fld x 30 12 == 0 then
    some { sk := flag (fld f 26 26), qe := flag (fld f 19 19), q := BitVec.ofNat 3 (fld f 18 16), b := BitVec.ofNat 5 (fld f 15 11), ga := BitVec.ofNat 3 (fld f 8 6), gb := BitVec.ofNat 3 (fld f 5 3), ka := flag (fld f 2 2), kb := flag (fld f 1 1), wit := flag (fld f 0 0), km := BitVec.ofNat 12 (fld x 11 0) }
  else none

/-- The fields of Mcnt; every other bit must be 0. -/
def Mcnt.read (f x : Nat) : Option Mcnt :=
  if fld f 15 11 == 0 && fld f 0 0 == 0 && fld x 30 12 == 0 then
    some { sk := flag (fld f 26 26), qe := flag (fld f 19 19), q := BitVec.ofNat 3 (fld f 18 16), n := BitVec.ofNat 2 (fld f 10 9), ga := BitVec.ofNat 3 (fld f 8 6), gb := BitVec.ofNat 3 (fld f 5 3), ka := flag (fld f 2 2), kb := flag (fld f 1 1), km := BitVec.ofNat 12 (fld x 11 0) }
  else none

/-- The fields of Nclr; every other bit must be 0. -/
def Nclr.read (f : Nat) : Option Nclr :=
  if fld f 26 26 == 0 && fld f 15 11 == 0 && fld f 8 0 == 0 then
    some { qe := flag (fld f 19 19), q := BitVec.ofNat 3 (fld f 18 16), n := BitVec.ofNat 2 (fld f 10 9) }
  else none

/-- The fields of Nimg; every other bit must be 0. -/
def Nimg.read (f : Nat) : Option Nimg :=
  if fld f 15 11 == 0 && fld f 1 0 == 0 then
    some { sk := flag (fld f 26 26), qe := flag (fld f 19 19), q := BitVec.ofNat 3 (fld f 18 16), n := BitVec.ofNat 2 (fld f 10 9), a := BitVec.ofNat 6 (fld f 8 3), wa := flag (fld f 2 2) }
  else none

/-- The fields of Ndrain; every other bit must be 0. -/
def Ndrain.read (f : Nat) : Option Ndrain :=
  if fld f 6 0 == 0 then
    some { sk := flag (fld f 26 26), qe := flag (fld f 19 19), q := BitVec.ofNat 3 (fld f 18 16), b := BitVec.ofNat 5 (fld f 15 11), n := BitVec.ofNat 2 (fld f 10 9), c := flag (fld f 8 8), r := flag (fld f 7 7) }
  else none

/-- The fields of Nchk; every other bit must be 0. -/
def Nchk.read (f : Nat) : Option Nchk :=
  if fld f 15 11 == 0 && fld f 2 0 == 0 then
    some { sk := flag (fld f 26 26), qe := flag (fld f 19 19), q := BitVec.ofNat 3 (fld f 18 16), n := BitVec.ofNat 2 (fld f 10 9), d := BitVec.ofNat 6 (fld f 8 3) }
  else none

/-- The fields of Rgset; every other bit must be 0. -/
def Rgset.read (f x : Nat) : Option Rgset :=
  if fld f 26 26 == 0 && fld x 30 16 == 0 then
    some { qe := flag (fld f 19 19), q := BitVec.ofNat 3 (fld f 18 16), g := BitVec.ofNat 3 (fld f 15 13), size := BitVec.ofNat 13 (fld f 12 0), base := BitVec.ofNat 16 (fld x 15 0) }
  else none

/-- The fields of Copy; every other bit must be 0. -/
def Copy.read (f : Nat) : Option Copy :=
  if fld f 2 0 == 0 then
    some { sk := flag (fld f 26 26), qe := flag (fld f 19 19), q := BitVec.ofNat 3 (fld f 18 16), hd := BitVec.ofNat 3 (fld f 15 13), hs := BitVec.ofNat 3 (fld f 12 10), cid := BitVec.ofNat 5 (fld f 9 5), ds := flag (fld f 4 4), dt := flag (fld f 3 3) }
  else none

/-- The fields of Copyt; every other bit must be 0. -/
def Copyt.read (f : Nat) : Option Copyt :=
  if fld f 3 0 == 0 then
    some { sk := flag (fld f 26 26), qe := flag (fld f 19 19), q := BitVec.ofNat 3 (fld f 18 16), hd := BitVec.ofNat 3 (fld f 15 13), hs := BitVec.ofNat 3 (fld f 12 10), cid := BitVec.ofNat 5 (fld f 9 5), ds := flag (fld f 4 4) }
  else none

/-- The fields of CopyX; every other bit must be 0. -/
def CopyX.read (x : Nat) : Option CopyX :=
  if fld x 7 0 == 0 then
    some { stride := BitVec.ofNat 15 (fld x 30 16), a := BitVec.ofNat 6 (fld x 15 10), wa := flag (fld x 9 9), ba := flag (fld x 8 8) }
  else none

/-- The fields of Cidx; every other bit must be 0. -/
def Cidx.read (f x : Nat) : Option Cidx :=
  if fld f 4 0 == 0 && fld x 0 0 == 0 then
    some { sk := flag (fld f 26 26), qe := flag (fld f 19 19), q := BitVec.ofNat 3 (fld f 18 16), hd := BitVec.ofNat 3 (fld f 15 13), hs := BitVec.ofNat 3 (fld f 12 10), cid := BitVec.ofNat 5 (fld f 9 5), stride := BitVec.ofNat 15 (fld x 30 16), a := BitVec.ofNat 6 (fld x 15 10), wa := flag (fld x 9 9), ba := flag (fld x 8 8), x := BitVec.ofNat 6 (fld x 7 2), wx := flag (fld x 1 1) }
  else none

/-- The fields of Cred; every other bit must be 0. -/
def Cred.read (f : Nat) : Option Cred :=
  if fld f 2 0 == 0 then
    some { sk := flag (fld f 26 26), qe := flag (fld f 19 19), q := BitVec.ofNat 3 (fld f 18 16), hd := BitVec.ofNat 3 (fld f 15 13), hs := BitVec.ofNat 3 (fld f 12 10), cid := BitVec.ofNat 5 (fld f 9 5), ds := flag (fld f 4 4), sr := flag (fld f 3 3) }
  else none

/-- The fields of Cring; every other bit must be 0. -/
def Cring.read (f : Nat) : Option Cring :=
  if fld f 4 0 == 0 then
    some { sk := flag (fld f 26 26), qe := flag (fld f 19 19), q := BitVec.ofNat 3 (fld f 18 16), g := BitVec.ofNat 3 (fld f 15 13), hs := BitVec.ofNat 3 (fld f 12 10), cid := BitVec.ofNat 5 (fld f 9 5) }
  else none

/-- The fields of Cwait; every other bit must be 0. -/
def Cwait.read (f : Nat) : Option Cwait :=
  if fld f 26 26 == 0 && fld f 19 16 == 0 && fld f 3 0 == 0 then
    some { a := BitVec.ofNat 6 (fld f 15 10), cid := BitVec.ofNat 5 (fld f 9 5), wa := flag (fld f 4 4) }
  else none

/-- The fields of Ctest; every other bit must be 0. -/
def Ctest.read (f : Nat) : Option Ctest :=
  if fld f 26 26 == 0 && fld f 19 16 == 0 && fld f 4 0 == 0 then
    some { d := BitVec.ofNat 6 (fld f 15 10), cid := BitVec.ofNat 5 (fld f 9 5) }
  else none

/-- The fields of Publish; every other bit must be 0. -/
def Publish.read (f : Nat) : Option Publish :=
  if fld f 26 26 == 0 && fld f 19 16 == 0 && fld f 12 10 == 0 && fld f 4 0 == 0 then
    some { h := BitVec.ofNat 3 (fld f 15 13), cid := BitVec.ofNat 5 (fld f 9 5) }
  else none

/-- The fields of Upd; every other bit must be 0. -/
def Upd.read (f x : Nat) : Option Upd :=
  if fld f 26 26 == 0 && fld f 19 16 == 0 && fld f 12 10 == 0 && fld f 4 0 == 0 && fld x 30 16 == 0 && fld x 1 0 == 0 then
    some { h := BitVec.ofNat 3 (fld f 15 13), cid := BitVec.ofNat 5 (fld f 9 5), a := BitVec.ofNat 6 (fld x 15 10), wa := flag (fld x 9 9), g := BitVec.ofNat 6 (fld x 8 3), wg := flag (fld x 2 2) }
  else none

/-- The fields of Tmode; every other bit must be 0. -/
def Tmode.read (f x : Nat) : Option Tmode :=
  if fld f 26 26 == 0 && fld f 19 16 == 0 && fld f 5 0 == 0 && fld x 30 16 == 0 && fld x 8 0 == 0 then
    some { mode := BitVec.ofNat 3 (fld f 15 13), a := BitVec.ofNat 6 (fld f 12 7), wa := flag (fld f 6 6), b := BitVec.ofNat 6 (fld x 15 10), wb := flag (fld x 9 9) }
  else none

/-- The fields of Tevid; every other bit must be 0. -/
def Tevid.read (f : Nat) : Option Tevid :=
  if fld f 19 16 == 0 && fld f 1 0 == 0 then
    some { sk := flag (fld f 26 26), a := BitVec.ofNat 6 (fld f 15 10), wa := flag (fld f 9 9), b := BitVec.ofNat 6 (fld f 8 3), wb := flag (fld f 2 2) }
  else none

/-- The fields of Tseed; every other bit must be 0. -/
def Tseed.read (f : Nat) : Option Tseed :=
  if fld f 26 26 == 0 && fld f 19 16 == 0 && fld f 8 0 == 0 then
    some { a := BitVec.ofNat 6 (fld f 15 10), wa := flag (fld f 9 9) }
  else none

/-- The fields of Tfwd; every other bit must be 0. -/
def Tfwd.read (f : Nat) : Option Tfwd :=
  if fld f 2 0 == 0 then
    some { sk := flag (fld f 26 26), qe := flag (fld f 19 19), q := BitVec.ofNat 3 (fld f 18 16), a := BitVec.ofNat 6 (fld f 15 10), wa := flag (fld f 9 9), ph := BitVec.ofNat 2 (fld f 8 7), w := BitVec.ofNat 4 (fld f 6 3) }
  else none

/-- The fields of Trev; every other bit must be 0. -/
def Trev.read (f : Nat) : Option Trev :=
  if fld f 8 0 == 0 then
    some { sk := flag (fld f 26 26), qe := flag (fld f 19 19), q := BitVec.ofNat 3 (fld f 18 16), a := BitVec.ofNat 6 (fld f 15 10), wa := flag (fld f 9 9) }
  else none

/-- The fields of TrecX; every other bit must be 0. -/
def TrecX.read (x : Nat) : Option TrecX :=
  some { stride := BitVec.ofNat 15 (fld x 30 16), disp := BitVec.ofNat 16 (fld x 15 0) }

/-- The fields of Tratio; every other bit must be 0. -/
def Tratio.read (f x : Nat) : Option Tratio :=
  if fld f 1 0 == 0 && fld x 30 16 == 0 && fld x 8 0 == 0 then
    some { sk := flag (fld f 26 26), qe := flag (fld f 19 19), q := BitVec.ofNat 3 (fld f 18 16), a := BitVec.ofNat 6 (fld f 15 10), wa := flag (fld f 9 9), b := BitVec.ofNat 6 (fld f 8 3), wb := flag (fld f 2 2), c := BitVec.ofNat 6 (fld x 15 10), wc := flag (fld x 9 9) }
  else none

/-- The fields of Twclr; every other bit must be 0. -/
def Twclr.read (f : Nat) : Option Twclr :=
  if fld f 19 16 == 0 && fld f 10 0 == 0 then
    some { sk := flag (fld f 26 26), all := flag (fld f 15 15), w := BitVec.ofNat 4 (fld f 14 11) }
  else none

/-- The fields of Tstat; every other bit must be 0. -/
def Tstat.read (f : Nat) : Option Tstat :=
  if fld f 19 16 == 0 && fld f 5 0 == 0 then
    some { sk := flag (fld f 26 26), d := BitVec.ofNat 6 (fld f 15 10), sel := BitVec.ofNat 4 (fld f 9 6) }
  else none

/-- Major 0x0 (S integer), L = 0 (R129): `m` is the minor, `f` the word without major, L and minor. -/
def readMajor0L0 (m f : Nat) : Option Instr :=
  if 0x20 ≤ m && m ≤ 0x2F then (RR.read f).map (.cmp (BitVec.ofNat 4 m)) else
  match m with
  | 0x00 => if f == 0 then some .sNop else none
  | 0x01 => (RR.read f).map .add
  | 0x02 => (RR.read f).map .sub
  | 0x03 => (RR.read f).map .mul
  | 0x04 => (RR.read f).map .mulh
  | 0x05 => (RR.read f).map .mulhu
  | 0x06 => (RR.read f).map .div
  | 0x07 => (RR.read f).map .divu
  | 0x08 => (RR.read f).map .rem
  | 0x09 => (RR.read f).map .remu
  | 0x0A => (RR.read f).map .and
  | 0x0B => (RR.read f).map .or
  | 0x0C => (RR.read f).map .xor
  | 0x0D => (RR.read f).map .andn
  | 0x0E => (RR.read f).map .shl
  | 0x0F => (RR.read f).map .shr
  | 0x10 => (RR.read f).map .sra
  | 0x11 => (RR.read f).map .min
  | 0x12 => (RR.read f).map .max
  | 0x13 => (RR.read f).map .minu
  | 0x14 => (RR.read f).map .maxu
  | 0x15 => (RU.read f).map .clz
  | 0x16 => (RU.read f).map .ctz
  | 0x17 => (RU.read f).map .popc
  | 0x1A => (RU.read f).map .mov
  | _ => none

/-- Major 0x0 (S integer), L = 1 (R129): `m` is the minor, `f` the word without major, L and minor, `x` the extension word. -/
def readMajor0L1 (m f x : Nat) : Option Instr :=
  if 0x20 ≤ m && m ≤ 0x2F then (RI.read f x).map (.cmpImmediate (BitVec.ofNat 4 m)) else
  match m with
  | 0x18 => (Bfx.read f x).map .bfx
  | 0x19 => (Bfi.read f x).map .bfi
  | 0x1B => (Csel.read f x).map .csel
  | 0x01 => (RI.read f x).map .addImmediate
  | 0x02 => (RI.read f x).map .subImmediate
  | 0x03 => (RI.read f x).map .mulImmediate
  | 0x0A => (RI.read f x).map .andImmediate
  | 0x0B => (RI.read f x).map .orImmediate
  | 0x0C => (RI.read f x).map .xorImmediate
  | 0x0D => (RI.read f x).map .andnImmediate
  | 0x0E => (RI.read f x).map .shlImmediate
  | 0x0F => (RI.read f x).map .shrImmediate
  | 0x10 => (RI.read f x).map .sraImmediate
  | 0x11 => (RI.read f x).map .minImmediate
  | 0x12 => (RI.read f x).map .maxImmediate
  | 0x13 => (RI.read f x).map .minuImmediate
  | 0x14 => (RI.read f x).map .maxuImmediate
  | _ => none

/-- Major 0x1 (S constants and control), L = 0 (R129): `m` is the minor, `f` the word without major, L and minor. -/
def readMajor1L0 (m f : Nat) : Option Instr :=
  match m with
  | 0x0A => (Jr.read f).map .jr
  | 0x0B => (Callr.read f).map .callr
  | 0x0C => (Jr.read f).map .ret
  | _ => none

/-- Major 0x1 (S constants and control), L = 1 (R129): `m` is the minor, `f` the word without major, L and minor, `x` the extension word. -/
def readMajor1L1 (m f x : Nat) : Option Instr :=
  if 0x10 ≤ m && m ≤ 0x1F then (Bc.read f x).map (.bc (BitVec.ofNat 4 m)) else
  match m with
  | 0x00 => (Li.read f x).map .li
  | 0x01 => (Lih.read f x).map .lih
  | 0x02 => (La.read f x).map .la
  | 0x08 => (Br.read f x).map .br
  | 0x09 => (Call.read f x).map .call
  | _ => none

/-- Major 0x2 (S memory), L = 1 (R129): `m` is the minor, `f` the word without major, L and minor, `x` the extension word. -/
def readMajor2L1 (m f x : Nat) : Option Instr :=
  match m with
  | 0x00 => (Ld.read f x).map .ldB
  | 0x01 => (Ld.read f x).map .ldBu
  | 0x02 => (Ld.read f x).map .ldH
  | 0x03 => (Ld.read f x).map .ldHu
  | 0x04 => (Ld.read f x).map .ldW
  | 0x05 => (Ld.read f x).map .ldWu
  | 0x06 => (Ld.read f x).map .ldD
  | 0x08 => (St.read f x).map .stB
  | 0x09 => (St.read f x).map .stH
  | 0x0A => (St.read f x).map .stW
  | 0x0B => (St.read f x).map .stD
  | _ => none

/-- Major 0x3 (S atomics), L = 1 (R129): `m` is the minor, `f` the word without major, L and minor, `x` the extension word. -/
def readMajor3L1 (m f x : Nat) : Option Instr :=
  match m with
  | 0x00 => (At.read f x).map .atopAdd
  | 0x01 => (At.read f x).map .atopAnd
  | 0x02 => (At.read f x).map .atopOr
  | 0x03 => (At.read f x).map .atopXor
  | 0x04 => (At.read f x).map .atopMin
  | 0x05 => (At.read f x).map .atopMax
  | 0x06 => (At.read f x).map .atopSub
  | 0x08 => (At.read f x).map .atswp
  | 0x09 => (Ato.read f x).map .atcas
  | 0x0A => (Ato.read f x).map .atfadd
  | 0x0B => (At.read f x).map .atadds
  | _ => none

/-- Major 0x4 (S system), L = 0 (R129): `m` is the minor, `f` the word without major, L and minor. -/
def readMajor4L0 (m f : Nat) : Option Instr :=
  match m with
  | 0x00 => (Fence.read f).map .fence
  | 0x02 => (Barrive.read f).map .barrive
  | 0x03 => (Bexpect.read f).map .bexpect
  | 0x04 => (Bwait.read f).map .bwait
  | 0x05 => (Bwait.read f).map .btest
  | 0x06 => (Tkget.read f).map .tkget
  | 0x07 => (Tkpost.read f).map .tkpost
  | 0x08 => (Tkdone.read f).map .tkdone
  | 0x09 => if f == 0 then some .trap else none
  | 0x0A => if f == 0 then some .tret else none
  | 0x0B => (Crd.read f).map .crd
  | 0x0C => (Cwr.read f).map .cwr
  | 0x0D => if f == 0 then some .hbeat else none
  | 0x0E => if f == 0 then some .yield else none
  | _ => none

/-- Major 0x4 (S system), L = 1 (R129): `m` is the minor, `f` the word without major, L and minor, `x` the extension word. -/
def readMajor4L1 (m f x : Nat) : Option Instr :=
  match m with
  | 0x01 => (Waitm.read f x).map .waitm
  | 0x02 => (Barrive.read f).bind fun r => (BarX.read x).map (.barriveExt r)
  | 0x03 => (Bexpect.read f).bind fun r => (BarX.read x).map (.bexpectExt r)
  | 0x04 => (Bwait.read f).bind fun r => (BarX.read x).map (.bwaitExt r)
  | 0x05 => (Bwait.read f).bind fun r => (BarX.read x).map (.btestExt r)
  | 0x09 => if f == 0 then (TrapX.read x).map .trapExt else none
  | _ => none

/-- Major 0x5 (V arithmetic), L = 1 (R129): `m` is the minor, `f` the word without major, L and minor, `x` the extension word. -/
def readMajor5L1 (m f x : Nat) : Option Instr :=
  if 0x20 ≤ m && m ≤ 0x2F then (VF.read f x).map (.vcmp (BitVec.ofNat 4 m)) else
  if 0x30 ≤ m && m ≤ 0x3F then (VF.read f x).map (.vfcmp (BitVec.ofNat 4 m)) else
  match m with
  | 0x00 => (VF.read f x).map .vadd
  | 0x01 => (VF.read f x).map .vsub
  | 0x02 => (VF.read f x).map .vmul
  | 0x03 => (VF.read f x).map .vmulh
  | 0x04 => (VF.read f x).map .vmin
  | 0x05 => (VF.read f x).map .vmax
  | 0x06 => (VF.read f x).map .vabs
  | 0x07 => (VF.read f x).map .vand
  | 0x08 => (VF.read f x).map .vor
  | 0x09 => (VF.read f x).map .vxor
  | 0x0A => (VF.read f x).map .vandn
  | 0x0B => (VF.read f x).map .vshl
  | 0x0C => (VF.read f x).map .vshr
  | 0x0D => (VF.read f x).map .vsra
  | 0x10 => (VF.read f x).map .vfadd
  | 0x11 => (VF.read f x).map .vfsub
  | 0x12 => (VF.read f x).map .vfmul
  | 0x13 => (VF.read f x).map .vfma
  | 0x14 => (VF.read f x).map .vfms
  | 0x15 => (VF.read f x).map .vfmin
  | 0x16 => (VF.read f x).map .vfmax
  | 0x17 => (VF.read f x).map .vrcp
  | 0x18 => (VF.read f x).map .vrsq
  | 0x19 => (VF.read f x).map .vexp2
  | 0x1A => (VF.read f x).map .vlog2
  | _ => none

/-- Major 0x6 (V other), L = 1 (R129): `m` is the minor, `f` the word without major, L and minor, `x` the extension word. -/
def readMajor6L1 (m f x : Nat) : Option Instr :=
  match m with
  | 0x00 => if f == 0 && x == 0 then some .vNop else none
  | 0x01 => (VF.read f x).map .pand
  | 0x02 => (VF.read f x).map .por
  | 0x03 => (VF.read f x).map .pxor
  | 0x04 => (VF.read f x).map .pnot
  | 0x05 => (VF.read f x).map .ppop
  | 0x06 => (VF.read f x).map .pfirst
  | 0x08 => (VF.read f x).map .vcvt
  | 0x09 => (VF.read f x).map .vsxpack
  | 0x0A => (VF.read f x).map .vsxunpack
  | 0x0C => (VF.read f x).map .vperm
  | 0x0D => (VF.read f x).map .vshuf
  | 0x0E => (VF.read f x).map .vbcast
  | 0x0F => (VF.read f x).map .vmovs
  | 0x10 => (VF.read f x).map .vsel
  | 0x11 => (VF.read f x).map .vcompress
  | 0x12 => (VF.read f x).map .vexpand
  | 0x14 => (VF.read f x).map .vred
  | 0x15 => (VF.read f x).map .vscan
  | 0x16 => (VF.read f x).map .vtopk
  | 0x18 => (VF.read f x).map .vlpmul
  | 0x19 => (VF.read f x).map .vlpadd
  | 0x1A => (VF.read f x).map .vlpmax
  | 0x1B => (VF.read f x).map .vlpdiv
  | 0x1C => (VF.read f x).map .vlpcvt
  | 0x1D => (VF.read f x).map .vlpsplit
  | 0x1E => (VF.read f x).map .vlpjoin
  | 0x20 => (VF.read f x).map .vrand
  | _ => none

/-- Major 0x7 (V memory), L = 1 (R129): `m` is the minor, `f` the word without major, L and minor, `x` the extension word. -/
def readMajor7L1 (m f x : Nat) : Option Instr :=
  match m with
  | 0x00 => (VM.read f x).map .vld
  | 0x01 => (VM.read f x).map .vst
  | 0x02 => (VM.read f x).map .vlds
  | 0x03 => (VM.read f x).map .vsts
  | 0x04 => (VG.read f x).map .vgath
  | 0x05 => (VG.read f x).map .vscat
  | 0x06 => (VM.read f x).map .vldb
  | _ => none

/-- Major 0x8 (F), L = 0 (R129): `m` is the minor, `f` the word without major, L and minor. -/
def readMajor8L0 (m f : Nat) : Option Instr :=
  match m with
  | 0x00 => if f == 0 then some .fNop else none
  | 0x01 => (Fopen.read f).map .fopen
  | 0x02 => (Fnext.read f).map .fnext
  | 0x03 => (Fskip.read f).map .fskip
  | 0x04 => (Fjoin.read f).map .fisect
  | 0x05 => (Fjoin.read f).map .funion
  | 0x0A => (Fstat.read f).map .fstat
  | 0x0B => (Fimg.read f).map .fsave
  | 0x0C => (Fimg.read f).map .frest
  | 0x0D => (Fclose.read f).map .fclose
  | _ => none

/-- Major 0x8 (F), L = 1 (R129): `m` is the minor, `f` the word without major, L and minor, `x` the extension word. -/
def readMajor8L1 (m f x : Nat) : Option Instr :=
  match m with
  | 0x01 => (Fopen.read f).bind fun r => (FopenX.read x).map (.fopenExt r)
  | 0x06 => (Fmerge.read f x).map .fmerge
  | 0x07 => (Fldv.read f x).map .fldv
  | 0x08 => (Fcrd.read f x).map .fcrd
  | 0x09 => (Femit.read f x).map .femit
  | _ => none

/-- Major 0x9 (X), L = 0 (R129): `m` is the minor, `f` the word without major, L and minor. -/
def readMajor9L0 (m f : Nat) : Option Instr :=
  match m with
  | 0x00 => if f == 0 then some .xNop else none
  | 0x01 => (Xscale.read f).map .xscale
  | _ => none

/-- Major 0x9 (X), L = 1 (R129): `m` is the minor, `f` the word without major, L and minor, `x` the extension word. -/
def readMajor9L1 (m f x : Nat) : Option Instr :=
  match m with
  | 0x02 => (Xexpv.read f x).map .xexpv
  | 0x03 => (Xfix.read f x).map .xfix
  | 0x04 => (Xcvt.read f x).map .xcvt
  | _ => none

/-- Major 0xA (H), L = 0 (R129): `m` is the minor, `f` the word without major, L and minor. -/
def readMajorAL0 (m f : Nat) : Option Instr :=
  match m with
  | 0x00 => if f == 0 then some .hNop else none
  | 0x01 => (Hmem.read f).map .hld
  | 0x02 => (Hmem.read f).map .hst
  | 0x03 => (Hset.read f).map .hset
  | 0x04 => (Hfence.read f).map .hfence
  | _ => none

/-- Major 0xA (H), L = 1 (R129): `m` is the minor, `f` the word without major, L and minor, `x` the extension word. -/
def readMajorAL1 (m f x : Nat) : Option Instr :=
  match m with
  | 0x01 => (Hmem.read f).bind fun r => (HmemX.read x).map (.hldExt r)
  | 0x02 => (Hmem.read f).bind fun r => (HmemX.read x).map (.hstExt r)
  | _ => none

/-- Major 0xB (M), L = 0 (R129): `m` is the minor, `f` the word without major, L and minor. -/
def readMajorBL0 (m f : Nat) : Option Instr :=
  match m with
  | 0x00 => if f == 0 then some .mNop else none
  | 0x01 => (Acalloc.read f).map .acalloc
  | 0x02 => (Acfree.read f).map .acfree
  | 0x03 => (Acgrant.read f).map .acgrant
  | 0x04 => (Aczero.read f).map .aczero
  | 0x20 => (Nclr.read f).map .nclr
  | 0x21 => (Nimg.read f).map .nmerge
  | 0x22 => (Nimg.read f).map .ndump
  | 0x23 => (Nimg.read f).map .nload
  | 0x24 => (Ndrain.read f).map .ndrain
  | 0x25 => (Nchk.read f).map .nchk
  | _ => none

/-- Major 0xB (M), L = 1 (R129): `m` is the minor, `f` the word without major, L and minor, `x` the extension word. -/
def readMajorBL1 (m f x : Nat) : Option Instr :=
  match m with
  | 0x05 => if fld f 4 4 == 0 then (Acrd.read f x).map .acrd else (AcrdSt.read (f - 16) x).map .acrdSt
  | 0x06 => (Acwr.read f x).map .acwr
  | 0x10 => (Mma.read f x).map .mmaBf16
  | 0x11 => (Mma.read f x).map .mmaFp16
  | 0x12 => (Mma.read f x).map .mmaE4m3
  | 0x13 => (Mma.read f x).map .mmaE5m2
  | 0x14 => (Mma.read f x).map .mmaInt8
  | 0x15 => (Mma.read f x).map .mmaSx8
  | 0x16 => (Mma.read f x).map .mmaSx5
  | 0x17 => (Mma.read f x).map .mmaSx3
  | 0x18 => (Mcnt.read f x).map .mcntInt4
  | 0x19 => (Mcnt.read f x).map .mcntE2m1
  | 0x28 => (Rgset.read f x).map .rgset
  | _ => none

/-- Major 0xC (C), L = 0 (R129): `m` is the minor, `f` the word without major, L and minor. -/
def readMajorCL0 (m f : Nat) : Option Instr :=
  match m with
  | 0x00 => if f == 0 then some .cNop else none
  | 0x01 => (Copy.read f).map .copy
  | 0x02 => (Copyt.read f).map .copyt
  | 0x05 => (Cred.read f).map .cred
  | 0x06 => (Cring.read f).map .cring
  | 0x07 => (Cwait.read f).map .cwait
  | 0x08 => (Ctest.read f).map .ctest
  | 0x09 => (Publish.read f).map .publish
  | _ => none

/-- Major 0xC (C), L = 1 (R129): `m` is the minor, `f` the word without major, L and minor, `x` the extension word. -/
def readMajorCL1 (m f x : Nat) : Option Instr :=
  match m with
  | 0x01 => (Copy.read f).bind fun r => (CopyX.read x).map (.copyExt r)
  | 0x02 => (Copyt.read f).bind fun r => (CopyX.read x).map (.copytExt r)
  | 0x03 => (Cidx.read f x).map .cgath
  | 0x04 => (Cidx.read f x).map .cscat
  | 0x05 => (Cred.read f).bind fun r => (CopyX.read x).map (.credExt r)
  | 0x06 => (Cring.read f).bind fun r => (CopyX.read x).map (.cringExt r)
  | 0x0A => (Upd.read f x).map .upd
  | _ => none

/-- Major 0xD (T), L = 0 (R129): `m` is the minor, `f` the word without major, L and minor. -/
def readMajorDL0 (m f : Nat) : Option Instr :=
  match m with
  | 0x00 => if f == 0 then some .tNop else none
  | 0x02 => (Tevid.read f).map .tevid
  | 0x03 => (Tseed.read f).map .tseed
  | 0x04 => (Tfwd.read f).map .tfwd
  | 0x05 => (Trev.read f).map .trev
  | 0x06 => (Trev.read f).map .tsamp
  | 0x07 => (Trev.read f).map .targm
  | 0x09 => (Twclr.read f).map .twclr
  | 0x0A => (Tstat.read f).map .tstat
  | _ => none

/-- Major 0xD (T), L = 1 (R129): `m` is the minor, `f` the word without major, L and minor, `x` the extension word. -/
def readMajorDL1 (m f x : Nat) : Option Instr :=
  match m with
  | 0x01 => (Tmode.read f x).map .tmode
  | 0x04 => (Tfwd.read f).bind fun r => (TrecX.read x).map (.tfwdExt r)
  | 0x05 => (Trev.read f).bind fun r => (TrecX.read x).map (.trevExt r)
  | 0x08 => (Tratio.read f x).map .tratio
  | _ => none

/-- The instruction of a slot word by its major (R114, R129, R132): `l` is L, `x` the extension word's [30:0]. -/
def readWord (major : Nat) (l : Bool) (m f x : Nat) : Option Instr :=
  match major, l with
  | 0, false => readMajor0L0 m f
  | 0, true => readMajor0L1 m f x
  | 1, false => readMajor1L0 m f
  | 1, true => readMajor1L1 m f x
  | 2, true => readMajor2L1 m f x
  | 3, true => readMajor3L1 m f x
  | 4, false => readMajor4L0 m f
  | 4, true => readMajor4L1 m f x
  | 5, true => readMajor5L1 m f x
  | 6, true => readMajor6L1 m f x
  | 7, true => readMajor7L1 m f x
  | 8, false => readMajor8L0 m f
  | 8, true => readMajor8L1 m f x
  | 9, false => readMajor9L0 m f
  | 9, true => readMajor9L1 m f x
  | 10, false => readMajorAL0 m f
  | 10, true => readMajorAL1 m f x
  | 11, false => readMajorBL0 m f
  | 11, true => readMajorBL1 m f x
  | 12, false => readMajorCL0 m f
  | 12, true => readMajorCL1 m f x
  | 13, false => readMajorDL0 m f
  | 13, true => readMajorDL1 m f x
  | 14, false => some (.hint (BitVec.ofNat 27 (f + m * 2 ^ 20)))
  | 14, true => some (.hintExt (BitVec.ofNat 27 (f + m * 2 ^ 20)) (BitVec.ofNat 31 x))
  | _, _ => none

/-- R115: a major is legal in slot `slot` (0 S, 1 V0, 2 V1, 3 F, 4 X, 5 H, 6 M, 7 C, 8 T). -/
def majorInSlot (major slot : Nat) : Bool :=
  if major ≤ 4 then slot == 0 else if major ≤ 7 then slot == 1 || slot == 2
  else if major ≤ 13 then slot == major - 5 else major == 14

/-- A slot word and its extension word (0 where L = 0), as the instruction they are in slot `slot`; none where R131 calls
them ILLEGAL. In V0 and V1, L must be 1 (R114); the extension word's bit 31 must be 0. -/
def decodeSlot (slot w x : Nat) : Option Instr :=
  let major := fld w 31 28
  let l := flag (fld w 27 27)
  if majorInSlot major slot && (l || !(slot == 1 || slot == 2)) && fld x 31 31 == 0 then
    (readWord major l (fld w 25 20) (fld w 19 0 + 2 ^ 26 * fld w 26 26) (fld x 30 0)).filter Instr.wellFormed
  else none

/-- The slot that a major belongs to (R115); V0 for the vector majors. A hint may stand in any slot: S with L = 0 and V0 with
L = 1 are taken. -/
def slotOfMajor (major : Nat) (l : Bool) : Nat :=
  if major ≤ 4 then 0 else if major ≤ 7 then 1 else if major ≤ 13 then major - 5 else if l then 1 else 0

/-- The instruction that bytes hold, the slot word first, each word lowest byte first (R4, R111); none where they are too
few or hold no legal instruction. Bytes beyond the instruction are not read. -/
def decodeBytes (bs : List Byte) : Option Instr :=
  match bs with
  | b0 :: b1 :: b2 :: b3 :: rest =>
    let w := ofBytes [b0, b1, b2, b3]
    let l := flag (fld w 27 27)
    let slot := slotOfMajor (fld w 31 28) l
    if l then
      match rest with
      | c0 :: c1 :: c2 :: c3 :: _ => decodeSlot slot w (ofBytes [c0, c1, c2, c3])
      | _ => none
    else decodeSlot slot w 0
  | _ => none

/-- The instruction the decoder reads from bits numbered as the opcode table numbers them: the first word in [31:0], the
extension word in [63:32]; bits at or above `nbits` are 0. -/
def decodeTableWord (nbits w : Nat) : Option Instr := decodeBytes (toBytes 8 (w % 2 ^ nbits))

/-! ## The encoder -/

/-- The slot word bits of RR. -/
def RR.bits (r : RR) : Nat := b2n r.sk * 2 ^ 26 + r.d.toNat * 2 ^ 14 + r.a.toNat * 2 ^ 8 + r.b.toNat * 2 ^ 2 + b2n r.wa * 2 ^ 1 + b2n r.wb

/-- The slot word bits of RU. -/
def RU.bits (r : RU) : Nat := b2n r.sk * 2 ^ 26 + r.d.toNat * 2 ^ 14 + r.a.toNat * 2 ^ 8 + b2n r.wa * 2 ^ 1

/-- The slot word bits of RI. -/
def RI.bits (r : RI) : Nat := b2n r.sk * 2 ^ 26 + r.d.toNat * 2 ^ 14 + r.a.toNat * 2 ^ 8 + b2n r.wa * 2 ^ 1

/-- The extension word of RI. -/
def RI.ext (r : RI) : Nat := r.imm.toNat

/-- The slot word bits of Bfx. -/
def Bfx.bits (r : Bfx) : Nat := b2n r.sk * 2 ^ 26 + r.d.toNat * 2 ^ 14 + r.a.toNat * 2 ^ 8 + b2n r.wa * 2 ^ 1

/-- The extension word of Bfx. -/
def Bfx.ext (r : Bfx) : Nat := r.wm1.toNat * 2 ^ 6 + r.pos.toNat

/-- The slot word bits of Bfi. -/
def Bfi.bits (r : Bfi) : Nat := b2n r.sk * 2 ^ 26 + r.d.toNat * 2 ^ 14 + r.a.toNat * 2 ^ 8 + b2n r.wa * 2 ^ 1 + b2n r.wd

/-- The extension word of Bfi. -/
def Bfi.ext (r : Bfi) : Nat := r.wm1.toNat * 2 ^ 6 + r.pos.toNat

/-- The slot word bits of Csel. -/
def Csel.bits (r : Csel) : Nat := b2n r.sk * 2 ^ 26 + r.d.toNat * 2 ^ 14 + r.a.toNat * 2 ^ 8 + r.b.toNat * 2 ^ 2 + b2n r.wa * 2 ^ 1 + b2n r.wb

/-- The extension word of Csel. -/
def Csel.ext (r : Csel) : Nat := b2n r.wc * 2 ^ 6 + r.c.toNat

/-- The slot word bits of Li. -/
def Li.bits (r : Li) : Nat := b2n r.sk * 2 ^ 26 + r.d.toNat * 2 ^ 14 + b2n r.i31 * 2 ^ 2

/-- The extension word of Li. -/
def Li.ext (r : Li) : Nat := r.imm.toNat

/-- The slot word bits of Lih. -/
def Lih.bits (r : Lih) : Nat := b2n r.sk * 2 ^ 26 + r.d.toNat * 2 ^ 14 + r.a.toNat * 2 ^ 8 + b2n r.wa * 2 ^ 1 + b2n r.i31 * 2 ^ 2

/-- The extension word of Lih. -/
def Lih.ext (r : Lih) : Nat := r.imm.toNat

/-- The slot word bits of La. -/
def La.bits (r : La) : Nat := b2n r.sk * 2 ^ 26 + r.d.toNat * 2 ^ 14 + b2n r.m * 2 ^ 3 + b2n r.i31 * 2 ^ 2

/-- The extension word of La. -/
def La.ext (r : La) : Nat := r.imm.toNat

/-- The slot word bits of Br. -/
def Br.bits (r : Br) : Nat := b2n r.dis * 2 ^ 2

/-- The extension word of Br. -/
def Br.ext (r : Br) : Nat := r.off.toNat

/-- The slot word bits of Call. -/
def Call.bits (r : Call) : Nat := r.d.toNat * 2 ^ 14 + b2n r.dis * 2 ^ 2

/-- The extension word of Call. -/
def Call.ext (r : Call) : Nat := r.off.toNat

/-- The slot word bits of Bc. -/
def Bc.bits (r : Bc) : Nat := r.a.toNat * 2 ^ 8 + r.b.toNat * 2 ^ 2 + b2n r.wa * 2 ^ 1 + b2n r.wb

/-- The extension word of Bc. -/
def Bc.ext (r : Bc) : Nat := r.off.toNat

/-- The slot word bits of Jr. -/
def Jr.bits (r : Jr) : Nat := r.a.toNat * 2 ^ 8 + b2n r.wa * 2 ^ 1

/-- The slot word bits of Callr. -/
def Callr.bits (r : Callr) : Nat := r.d.toNat * 2 ^ 14 + r.a.toNat * 2 ^ 8 + b2n r.wa * 2 ^ 1

/-- The slot word bits of Ld. -/
def Ld.bits (r : Ld) : Nat := b2n r.sk * 2 ^ 26 + r.d.toNat * 2 ^ 14 + r.a.toNat * 2 ^ 8 + r.cls.toNat * 2 ^ 5 + r.ord.toNat * 2 ^ 3 + b2n r.wa * 2 ^ 1

/-- The extension word of Ld. -/
def Ld.ext (r : Ld) : Nat := r.disp.toNat * 2 ^ 16 + r.stride.toNat * 2 ^ 3 + r.scope.toNat

/-- The slot word bits of St. -/
def St.bits (r : St) : Nat := b2n r.sk * 2 ^ 26 + r.d.toNat * 2 ^ 14 + r.a.toNat * 2 ^ 8 + r.cls.toNat * 2 ^ 5 + r.ord.toNat * 2 ^ 3 + b2n r.wa * 2 ^ 1 + b2n r.wd

/-- The extension word of St. -/
def St.ext (r : St) : Nat := r.disp.toNat * 2 ^ 16 + r.stride.toNat * 2 ^ 3 + r.scope.toNat

/-- The slot word bits of At. -/
def At.bits (r : At) : Nat := b2n r.sk * 2 ^ 26 + r.d.toNat * 2 ^ 14 + r.a.toNat * 2 ^ 8 + r.cls.toNat * 2 ^ 5 + r.ord.toNat * 2 ^ 3 + b2n r.wa * 2 ^ 1 + b2n r.wd

/-- The extension word of At. -/
def At.ext (r : At) : Nat := r.disp.toNat * 2 ^ 16 + r.stride.toNat * 2 ^ 3 + r.scope.toNat

/-- The slot word bits of Ato. -/
def Ato.bits (r : Ato) : Nat := b2n r.sk * 2 ^ 26 + r.d.toNat * 2 ^ 14 + r.a.toNat * 2 ^ 8 + r.cls.toNat * 2 ^ 5 + r.ord.toNat * 2 ^ 3 + b2n r.opt * 2 ^ 2 + b2n r.wa * 2 ^ 1 + b2n r.wd

/-- The extension word of Ato. -/
def Ato.ext (r : Ato) : Nat := r.disp.toNat * 2 ^ 16 + r.stride.toNat * 2 ^ 3 + r.scope.toNat

/-- The slot word bits of Fence. -/
def Fence.bits (r : Fence) : Nat := r.scope.toNat * 2 ^ 8 + r.kind.toNat * 2 ^ 2

/-- The slot word bits of Waitm. -/
def Waitm.bits (r : Waitm) : Nat := r.d.toNat * 2 ^ 14 + r.a.toNat * 2 ^ 8 + r.b.toNat * 2 ^ 2 + b2n r.wa * 2 ^ 1 + b2n r.wb

/-- The extension word of Waitm. -/
def Waitm.ext (r : Waitm) : Nat := r.disp.toNat * 2 ^ 16 + r.cls.toNat * 2 ^ 5

/-- The slot word bits of Barrive. -/
def Barrive.bits (r : Barrive) : Nat := b2n r.e * 2 ^ 14 + r.a.toNat * 2 ^ 8 + r.b.toNat * 2 ^ 2 + b2n r.wa * 2 ^ 1 + b2n r.wb

/-- The slot word bits of Bexpect. -/
def Bexpect.bits (r : Bexpect) : Nat := r.a.toNat * 2 ^ 8 + r.b.toNat * 2 ^ 2 + b2n r.wa * 2 ^ 1 + b2n r.wb

/-- The slot word bits of Bwait. -/
def Bwait.bits (r : Bwait) : Nat := r.d.toNat * 2 ^ 14 + r.a.toNat * 2 ^ 8 + r.b.toNat * 2 ^ 2 + b2n r.wa * 2 ^ 1 + b2n r.wb

/-- The extension word of BarX. -/
def BarX.ext (r : BarX) : Nat := r.disp.toNat * 2 ^ 16

/-- The slot word bits of Tkget. -/
def Tkget.bits (r : Tkget) : Nat := r.d.toNat * 2 ^ 14

/-- The slot word bits of Tkpost. -/
def Tkpost.bits (r : Tkpost) : Nat := r.a.toNat * 2 ^ 8 + b2n r.wa * 2 ^ 1

/-- The slot word bits of Tkdone. -/
def Tkdone.bits (r : Tkdone) : Nat := r.a.toNat * 2 ^ 8 + r.b.toNat * 2 ^ 2 + b2n r.wa * 2 ^ 1 + b2n r.wb

/-- The extension word of TrapX. -/
def TrapX.ext (r : TrapX) : Nat := r.imm.toNat

/-- The slot word bits of Crd. -/
def Crd.bits (r : Crd) : Nat := r.d.toNat * 2 ^ 14 + r.cr.toNat * 2 ^ 8

/-- The slot word bits of Cwr. -/
def Cwr.bits (r : Cwr) : Nat := r.cr.toNat * 2 ^ 14 + r.a.toNat * 2 ^ 8 + b2n r.wa * 2 ^ 1

/-- The slot word bits of VF. -/
def VF.bits (r : VF) : Nat := b2n r.sk * 2 ^ 26 + r.w.toNat * 2 ^ 18 + r.d.toNat * 2 ^ 9 + r.a.toNat

/-- The extension word of VF. -/
def VF.ext (r : VF) : Nat := r.b.toNat * 2 ^ 22 + r.c.toNat * 2 ^ 13 + r.p.toNat * 2 ^ 9 + b2n r.wa * 2 ^ 8 + b2n r.wb * 2 ^ 7 + b2n r.wc * 2 ^ 6 + b2n r.fi * 2 ^ 5 + b2n r.fo * 2 ^ 4 + b2n r.sat * 2 ^ 3 + r.sub.toNat

/-- The slot word bits of VM. -/
def VM.bits (r : VM) : Nat := b2n r.sk * 2 ^ 26 + r.w.toNat * 2 ^ 18 + r.v.toNat * 2 ^ 9 + r.s.toNat * 2 ^ 3 + b2n r.wb * 2 ^ 2 + b2n r.wv * 2 ^ 1

/-- The extension word of VM. -/
def VM.ext (r : VM) : Nat := r.disp.toNat * 2 ^ 17 + r.stride.toNat * 2 ^ 7 + r.cls.toNat * 2 ^ 4 + r.p.toNat

/-- The slot word bits of VG. -/
def VG.bits (r : VG) : Nat := b2n r.sk * 2 ^ 26 + r.w.toNat * 2 ^ 18 + r.v.toNat * 2 ^ 9 + r.s.toNat * 2 ^ 3 + b2n r.wb * 2 ^ 2 + b2n r.wv * 2 ^ 1

/-- The extension word of VG. -/
def VG.ext (r : VG) : Nat := r.x.toNat * 2 ^ 22 + b2n r.wx * 2 ^ 21 + r.cls.toNat * 2 ^ 4 + r.p.toNat

/-- The slot word bits of Fopen. -/
def Fopen.bits (r : Fopen) : Nat := r.f.toNat * 2 ^ 12 + r.a.toNat * 2 ^ 6 + b2n r.wa * 2 ^ 5 + b2n r.o * 2 ^ 4 + r.disp.toNat

/-- The extension word of FopenX. -/
def FopenX.ext (r : FopenX) : Nat := r.b.toNat * 2 ^ 10 + b2n r.wb * 2 ^ 9 + r.segi.toNat

/-- The slot word bits of Fnext. -/
def Fnext.bits (r : Fnext) : Nat := b2n r.sk * 2 ^ 26 + r.f.toNat * 2 ^ 12 + r.nm1.toNat * 2 ^ 4

/-- The slot word bits of Fskip. -/
def Fskip.bits (r : Fskip) : Nat := b2n r.sk * 2 ^ 26 + r.f.toNat * 2 ^ 12 + r.b.toNat * 2 ^ 6 + b2n r.wb * 2 ^ 5 + b2n r.t * 2 ^ 4

/-- The slot word bits of Fjoin. -/
def Fjoin.bits (r : Fjoin) : Nat := b2n r.sk * 2 ^ 26 + r.d.toNat * 2 ^ 12 + r.x.toNat * 2 ^ 8 + r.y.toNat * 2 ^ 4

/-- The slot word bits of Fmerge. -/
def Fmerge.bits (r : Fmerge) : Nat := b2n r.sk * 2 ^ 26 + r.fo.toNat * 2 ^ 12 + r.fu.toNat * 2 ^ 8 + r.fmt.toNat * 2 ^ 6 + b2n r.z * 2 ^ 5

/-- The extension word of Fmerge. -/
def Fmerge.ext (r : Fmerge) : Nat := r.a.toNat * 2 ^ 10 + b2n r.wa * 2 ^ 9 + r.b.toNat * 2 ^ 3 + b2n r.wb * 2 ^ 2

/-- The slot word bits of Fldv. -/
def Fldv.bits (r : Fldv) : Nat := b2n r.sk * 2 ^ 26 + r.f.toNat * 2 ^ 12 + r.w.toNat * 2 ^ 10 + b2n r.k * 2 ^ 9 + b2n r.side * 2 ^ 8

/-- The extension word of Fldv. -/
def Fldv.ext (r : Fldv) : Nat := r.vd.toNat * 2 ^ 7 + r.a.toNat * 2 ^ 1 + b2n r.wa

/-- The slot word bits of Fcrd. -/
def Fcrd.bits (r : Fcrd) : Nat := b2n r.sk * 2 ^ 26 + r.f.toNat * 2 ^ 12 + r.w.toNat * 2 ^ 10 + b2n r.k * 2 ^ 9

/-- The extension word of Fcrd. -/
def Fcrd.ext (r : Fcrd) : Nat := r.vd.toNat * 2 ^ 7

/-- The slot word bits of Femit. -/
def Femit.bits (r : Femit) : Nat := b2n r.sk * 2 ^ 26 + r.f.toNat * 2 ^ 12 + r.w.toNat * 2 ^ 10 + r.p.toNat * 2 ^ 6 + b2n r.wv * 2 ^ 5

/-- The extension word of Femit. -/
def Femit.ext (r : Femit) : Nat := r.v.toNat * 2 ^ 7

/-- The slot word bits of Fstat. -/
def Fstat.bits (r : Fstat) : Nat := b2n r.sk * 2 ^ 26 + r.f.toNat * 2 ^ 12 + r.d.toNat * 2 ^ 6 + r.sel.toNat * 2 ^ 3

/-- The slot word bits of Fimg. -/
def Fimg.bits (r : Fimg) : Nat := r.f.toNat * 2 ^ 12 + r.a.toNat * 2 ^ 6 + b2n r.wa * 2 ^ 5

/-- The slot word bits of Fclose. -/
def Fclose.bits (r : Fclose) : Nat := r.f.toNat * 2 ^ 12

/-- The slot word bits of Xscale. -/
def Xscale.bits (r : Xscale) : Nat := b2n r.sk * 2 ^ 26 + r.a.toNat * 2 ^ 10 + b2n r.wa * 2 ^ 9

/-- The slot word bits of Xexpv. -/
def Xexpv.bits (r : Xexpv) : Nat := b2n r.sk * 2 ^ 26

/-- The extension word of Xexpv. -/
def Xexpv.ext (r : Xexpv) : Nat := b2n r.wa * 2 ^ 9 + r.va.toNat

/-- The slot word bits of Xfix. -/
def Xfix.bits (r : Xfix) : Nat := b2n r.sk * 2 ^ 26 + r.b.toNat * 2 ^ 11 + r.g.toNat * 2 ^ 8 + r.a.toNat * 2 ^ 2 + b2n r.wa * 2 ^ 1 + b2n r.pop

/-- The extension word of Xfix. -/
def Xfix.ext (r : Xfix) : Nat := r.km.toNat

/-- The slot word bits of Xcvt. -/
def Xcvt.bits (r : Xcvt) : Nat := b2n r.sk * 2 ^ 26 + r.b.toNat * 2 ^ 11 + r.mode.toNat * 2 ^ 9

/-- The extension word of Xcvt. -/
def Xcvt.ext (r : Xcvt) : Nat := r.e.toNat

/-- The slot word bits of Hmem. -/
def Hmem.bits (r : Hmem) : Nat := b2n r.sk * 2 ^ 26 + r.h.toNat * 2 ^ 13 + r.a.toNat * 2 ^ 7 + b2n r.wa * 2 ^ 6

/-- The extension word of HmemX. -/
def HmemX.ext (r : HmemX) : Nat := r.stride.toNat * 2 ^ 16 + r.disp.toNat

/-- The slot word bits of Hset. -/
def Hset.bits (r : Hset) : Nat := b2n r.sk * 2 ^ 26 + r.h.toNat * 2 ^ 13 + r.field.toNat * 2 ^ 9 + r.a.toNat * 2 ^ 3 + b2n r.wa * 2 ^ 2

/-- The slot word bits of Hfence. -/
def Hfence.bits (r : Hfence) : Nat := b2n r.one * 2 ^ 15 + r.a.toNat * 2 ^ 9 + b2n r.wa * 2 ^ 8

/-- The slot word bits of Acalloc. -/
def Acalloc.bits (r : Acalloc) : Nat := b2n r.qe * 2 ^ 19 + r.q.toNat * 2 ^ 16 + r.b.toNat * 2 ^ 11 + r.fmt.toNat * 2 ^ 9

/-- The slot word bits of Acfree. -/
def Acfree.bits (r : Acfree) : Nat := b2n r.qe * 2 ^ 19 + r.q.toNat * 2 ^ 16 + r.b.toNat * 2 ^ 11

/-- The slot word bits of Acgrant. -/
def Acgrant.bits (r : Acgrant) : Nat := b2n r.qe * 2 ^ 19 + r.q.toNat * 2 ^ 16 + r.b.toNat * 2 ^ 11 + r.ctx.toNat * 2 ^ 9 + b2n r.r * 2 ^ 8

/-- The slot word bits of Aczero. -/
def Aczero.bits (r : Aczero) : Nat := b2n r.sk * 2 ^ 26 + b2n r.qe * 2 ^ 19 + r.q.toNat * 2 ^ 16 + r.b.toNat * 2 ^ 11

/-- The slot word bits of Acrd. -/
def Acrd.bits (r : Acrd) : Nat := b2n r.sk * 2 ^ 26 + b2n r.qe * 2 ^ 19 + r.q.toNat * 2 ^ 16 + r.b.toNat * 2 ^ 11 + r.row.toNat * 2 ^ 6 + b2n r.h * 2 ^ 5

/-- The extension word of Acrd. -/
def Acrd.ext (r : Acrd) : Nat := r.stride.toNat * 2 ^ 16 + r.vd.toNat

/-- The slot word bits of AcrdSt. -/
def AcrdSt.bits (r : AcrdSt) : Nat := b2n r.sk * 2 ^ 26 + b2n r.qe * 2 ^ 19 + r.q.toNat * 2 ^ 16 + r.b.toNat * 2 ^ 11

/-- The extension word of AcrdSt. -/
def AcrdSt.ext (r : AcrdSt) : Nat := r.sd.toNat

/-- The slot word bits of Acwr. -/
def Acwr.bits (r : Acwr) : Nat := b2n r.sk * 2 ^ 26 + b2n r.qe * 2 ^ 19 + r.q.toNat * 2 ^ 16 + r.b.toNat * 2 ^ 11 + r.row.toNat * 2 ^ 6 + b2n r.h * 2 ^ 5

/-- The extension word of Acwr. -/
def Acwr.ext (r : Acwr) : Nat := r.stride.toNat * 2 ^ 16 + b2n r.wv * 2 ^ 9 + r.vs.toNat

/-- The slot word bits of Mma. -/
def Mma.bits (r : Mma) : Nat := b2n r.sk * 2 ^ 26 + b2n r.qe * 2 ^ 19 + r.q.toNat * 2 ^ 16 + r.b.toNat * 2 ^ 11 + r.ga.toNat * 2 ^ 6 + r.gb.toNat * 2 ^ 3 + b2n r.ka * 2 ^ 2 + b2n r.kb * 2 ^ 1 + b2n r.wit

/-- The extension word of Mma. -/
def Mma.ext (r : Mma) : Nat := r.km.toNat

/-- The slot word bits of Mcnt. -/
def Mcnt.bits (r : Mcnt) : Nat := b2n r.sk * 2 ^ 26 + b2n r.qe * 2 ^ 19 + r.q.toNat * 2 ^ 16 + r.n.toNat * 2 ^ 9 + r.ga.toNat * 2 ^ 6 + r.gb.toNat * 2 ^ 3 + b2n r.ka * 2 ^ 2 + b2n r.kb * 2 ^ 1

/-- The extension word of Mcnt. -/
def Mcnt.ext (r : Mcnt) : Nat := r.km.toNat

/-- The slot word bits of Nclr. -/
def Nclr.bits (r : Nclr) : Nat := b2n r.qe * 2 ^ 19 + r.q.toNat * 2 ^ 16 + r.n.toNat * 2 ^ 9

/-- The slot word bits of Nimg. -/
def Nimg.bits (r : Nimg) : Nat := b2n r.sk * 2 ^ 26 + b2n r.qe * 2 ^ 19 + r.q.toNat * 2 ^ 16 + r.n.toNat * 2 ^ 9 + r.a.toNat * 2 ^ 3 + b2n r.wa * 2 ^ 2

/-- The slot word bits of Ndrain. -/
def Ndrain.bits (r : Ndrain) : Nat := b2n r.sk * 2 ^ 26 + b2n r.qe * 2 ^ 19 + r.q.toNat * 2 ^ 16 + r.b.toNat * 2 ^ 11 + r.n.toNat * 2 ^ 9 + b2n r.c * 2 ^ 8 + b2n r.r * 2 ^ 7

/-- The slot word bits of Nchk. -/
def Nchk.bits (r : Nchk) : Nat := b2n r.sk * 2 ^ 26 + b2n r.qe * 2 ^ 19 + r.q.toNat * 2 ^ 16 + r.n.toNat * 2 ^ 9 + r.d.toNat * 2 ^ 3

/-- The slot word bits of Rgset. -/
def Rgset.bits (r : Rgset) : Nat := b2n r.qe * 2 ^ 19 + r.q.toNat * 2 ^ 16 + r.g.toNat * 2 ^ 13 + r.size.toNat

/-- The extension word of Rgset. -/
def Rgset.ext (r : Rgset) : Nat := r.base.toNat

/-- The slot word bits of Copy. -/
def Copy.bits (r : Copy) : Nat := b2n r.sk * 2 ^ 26 + b2n r.qe * 2 ^ 19 + r.q.toNat * 2 ^ 16 + r.hd.toNat * 2 ^ 13 + r.hs.toNat * 2 ^ 10 + r.cid.toNat * 2 ^ 5 + b2n r.ds * 2 ^ 4 + b2n r.dt * 2 ^ 3

/-- The slot word bits of Copyt. -/
def Copyt.bits (r : Copyt) : Nat := b2n r.sk * 2 ^ 26 + b2n r.qe * 2 ^ 19 + r.q.toNat * 2 ^ 16 + r.hd.toNat * 2 ^ 13 + r.hs.toNat * 2 ^ 10 + r.cid.toNat * 2 ^ 5 + b2n r.ds * 2 ^ 4

/-- The extension word of CopyX. -/
def CopyX.ext (r : CopyX) : Nat := r.stride.toNat * 2 ^ 16 + r.a.toNat * 2 ^ 10 + b2n r.wa * 2 ^ 9 + b2n r.ba * 2 ^ 8

/-- The slot word bits of Cidx. -/
def Cidx.bits (r : Cidx) : Nat := b2n r.sk * 2 ^ 26 + b2n r.qe * 2 ^ 19 + r.q.toNat * 2 ^ 16 + r.hd.toNat * 2 ^ 13 + r.hs.toNat * 2 ^ 10 + r.cid.toNat * 2 ^ 5

/-- The extension word of Cidx. -/
def Cidx.ext (r : Cidx) : Nat := r.stride.toNat * 2 ^ 16 + r.a.toNat * 2 ^ 10 + b2n r.wa * 2 ^ 9 + b2n r.ba * 2 ^ 8 + r.x.toNat * 2 ^ 2 + b2n r.wx * 2 ^ 1

/-- The slot word bits of Cred. -/
def Cred.bits (r : Cred) : Nat := b2n r.sk * 2 ^ 26 + b2n r.qe * 2 ^ 19 + r.q.toNat * 2 ^ 16 + r.hd.toNat * 2 ^ 13 + r.hs.toNat * 2 ^ 10 + r.cid.toNat * 2 ^ 5 + b2n r.ds * 2 ^ 4 + b2n r.sr * 2 ^ 3

/-- The slot word bits of Cring. -/
def Cring.bits (r : Cring) : Nat := b2n r.sk * 2 ^ 26 + b2n r.qe * 2 ^ 19 + r.q.toNat * 2 ^ 16 + r.g.toNat * 2 ^ 13 + r.hs.toNat * 2 ^ 10 + r.cid.toNat * 2 ^ 5

/-- The slot word bits of Cwait. -/
def Cwait.bits (r : Cwait) : Nat := r.a.toNat * 2 ^ 10 + r.cid.toNat * 2 ^ 5 + b2n r.wa * 2 ^ 4

/-- The slot word bits of Ctest. -/
def Ctest.bits (r : Ctest) : Nat := r.d.toNat * 2 ^ 10 + r.cid.toNat * 2 ^ 5

/-- The slot word bits of Publish. -/
def Publish.bits (r : Publish) : Nat := r.h.toNat * 2 ^ 13 + r.cid.toNat * 2 ^ 5

/-- The slot word bits of Upd. -/
def Upd.bits (r : Upd) : Nat := r.h.toNat * 2 ^ 13 + r.cid.toNat * 2 ^ 5

/-- The extension word of Upd. -/
def Upd.ext (r : Upd) : Nat := r.a.toNat * 2 ^ 10 + b2n r.wa * 2 ^ 9 + r.g.toNat * 2 ^ 3 + b2n r.wg * 2 ^ 2

/-- The slot word bits of Tmode. -/
def Tmode.bits (r : Tmode) : Nat := r.mode.toNat * 2 ^ 13 + r.a.toNat * 2 ^ 7 + b2n r.wa * 2 ^ 6

/-- The extension word of Tmode. -/
def Tmode.ext (r : Tmode) : Nat := r.b.toNat * 2 ^ 10 + b2n r.wb * 2 ^ 9

/-- The slot word bits of Tevid. -/
def Tevid.bits (r : Tevid) : Nat := b2n r.sk * 2 ^ 26 + r.a.toNat * 2 ^ 10 + b2n r.wa * 2 ^ 9 + r.b.toNat * 2 ^ 3 + b2n r.wb * 2 ^ 2

/-- The slot word bits of Tseed. -/
def Tseed.bits (r : Tseed) : Nat := r.a.toNat * 2 ^ 10 + b2n r.wa * 2 ^ 9

/-- The slot word bits of Tfwd. -/
def Tfwd.bits (r : Tfwd) : Nat := b2n r.sk * 2 ^ 26 + b2n r.qe * 2 ^ 19 + r.q.toNat * 2 ^ 16 + r.a.toNat * 2 ^ 10 + b2n r.wa * 2 ^ 9 + r.ph.toNat * 2 ^ 7 + r.w.toNat * 2 ^ 3

/-- The slot word bits of Trev. -/
def Trev.bits (r : Trev) : Nat := b2n r.sk * 2 ^ 26 + b2n r.qe * 2 ^ 19 + r.q.toNat * 2 ^ 16 + r.a.toNat * 2 ^ 10 + b2n r.wa * 2 ^ 9

/-- The extension word of TrecX. -/
def TrecX.ext (r : TrecX) : Nat := r.stride.toNat * 2 ^ 16 + r.disp.toNat

/-- The slot word bits of Tratio. -/
def Tratio.bits (r : Tratio) : Nat := b2n r.sk * 2 ^ 26 + b2n r.qe * 2 ^ 19 + r.q.toNat * 2 ^ 16 + r.a.toNat * 2 ^ 10 + b2n r.wa * 2 ^ 9 + r.b.toNat * 2 ^ 3 + b2n r.wb * 2 ^ 2

/-- The extension word of Tratio. -/
def Tratio.ext (r : Tratio) : Nat := r.c.toNat * 2 ^ 10 + b2n r.wc * 2 ^ 9

/-- The slot word bits of Twclr. -/
def Twclr.bits (r : Twclr) : Nat := b2n r.sk * 2 ^ 26 + b2n r.all * 2 ^ 15 + r.w.toNat * 2 ^ 11

/-- The slot word bits of Tstat. -/
def Tstat.bits (r : Tstat) : Nat := b2n r.sk * 2 ^ 26 + r.d.toNat * 2 ^ 10 + r.sel.toNat * 2 ^ 6

/-- A slot word without extension word (R114). -/
def word1 (major minor f : Nat) : List Nat := [major * 2 ^ 28 + minor * 2 ^ 20 + f]

/-- A slot word with its extension word (R114): L = 1. -/
def word2 (major minor f x : Nat) : List Nat := [major * 2 ^ 28 + 2 ^ 27 + minor * 2 ^ 20 + f, x]

/-- The words of an instruction, from the same tables; an event has none. -/
def encode : Instr → List Nat
  | .sNop => word1 0x0 0x00 0
  | .add r => word1 0x0 0x01 r.bits
  | .sub r => word1 0x0 0x02 r.bits
  | .mul r => word1 0x0 0x03 r.bits
  | .mulh r => word1 0x0 0x04 r.bits
  | .mulhu r => word1 0x0 0x05 r.bits
  | .div r => word1 0x0 0x06 r.bits
  | .divu r => word1 0x0 0x07 r.bits
  | .rem r => word1 0x0 0x08 r.bits
  | .remu r => word1 0x0 0x09 r.bits
  | .and r => word1 0x0 0x0A r.bits
  | .or r => word1 0x0 0x0B r.bits
  | .xor r => word1 0x0 0x0C r.bits
  | .andn r => word1 0x0 0x0D r.bits
  | .shl r => word1 0x0 0x0E r.bits
  | .shr r => word1 0x0 0x0F r.bits
  | .sra r => word1 0x0 0x10 r.bits
  | .min r => word1 0x0 0x11 r.bits
  | .max r => word1 0x0 0x12 r.bits
  | .minu r => word1 0x0 0x13 r.bits
  | .maxu r => word1 0x0 0x14 r.bits
  | .clz r => word1 0x0 0x15 r.bits
  | .ctz r => word1 0x0 0x16 r.bits
  | .popc r => word1 0x0 0x17 r.bits
  | .mov r => word1 0x0 0x1A r.bits
  | .bfx r => word2 0x0 0x18 r.bits r.ext
  | .bfi r => word2 0x0 0x19 r.bits r.ext
  | .cmp cc r => word1 0x0 (0x20 + cc.toNat) r.bits
  | .csel r => word2 0x0 0x1B r.bits r.ext
  | .addImmediate r => word2 0x0 0x01 r.bits r.ext
  | .subImmediate r => word2 0x0 0x02 r.bits r.ext
  | .mulImmediate r => word2 0x0 0x03 r.bits r.ext
  | .andImmediate r => word2 0x0 0x0A r.bits r.ext
  | .orImmediate r => word2 0x0 0x0B r.bits r.ext
  | .xorImmediate r => word2 0x0 0x0C r.bits r.ext
  | .andnImmediate r => word2 0x0 0x0D r.bits r.ext
  | .shlImmediate r => word2 0x0 0x0E r.bits r.ext
  | .shrImmediate r => word2 0x0 0x0F r.bits r.ext
  | .sraImmediate r => word2 0x0 0x10 r.bits r.ext
  | .minImmediate r => word2 0x0 0x11 r.bits r.ext
  | .maxImmediate r => word2 0x0 0x12 r.bits r.ext
  | .minuImmediate r => word2 0x0 0x13 r.bits r.ext
  | .maxuImmediate r => word2 0x0 0x14 r.bits r.ext
  | .cmpImmediate cc r => word2 0x0 (0x20 + cc.toNat) r.bits r.ext
  | .li r => word2 0x1 0x00 r.bits r.ext
  | .lih r => word2 0x1 0x01 r.bits r.ext
  | .la r => word2 0x1 0x02 r.bits r.ext
  | .br r => word2 0x1 0x08 r.bits r.ext
  | .call r => word2 0x1 0x09 r.bits r.ext
  | .bc cc r => word2 0x1 (0x10 + cc.toNat) r.bits r.ext
  | .jr r => word1 0x1 0x0A r.bits
  | .callr r => word1 0x1 0x0B r.bits
  | .ret r => word1 0x1 0x0C r.bits
  | .ldB r => word2 0x2 0x00 r.bits r.ext
  | .ldBu r => word2 0x2 0x01 r.bits r.ext
  | .ldH r => word2 0x2 0x02 r.bits r.ext
  | .ldHu r => word2 0x2 0x03 r.bits r.ext
  | .ldW r => word2 0x2 0x04 r.bits r.ext
  | .ldWu r => word2 0x2 0x05 r.bits r.ext
  | .ldD r => word2 0x2 0x06 r.bits r.ext
  | .stB r => word2 0x2 0x08 r.bits r.ext
  | .stH r => word2 0x2 0x09 r.bits r.ext
  | .stW r => word2 0x2 0x0A r.bits r.ext
  | .stD r => word2 0x2 0x0B r.bits r.ext
  | .atopAdd r => word2 0x3 0x00 r.bits r.ext
  | .atopAnd r => word2 0x3 0x01 r.bits r.ext
  | .atopOr r => word2 0x3 0x02 r.bits r.ext
  | .atopXor r => word2 0x3 0x03 r.bits r.ext
  | .atopMin r => word2 0x3 0x04 r.bits r.ext
  | .atopMax r => word2 0x3 0x05 r.bits r.ext
  | .atopSub r => word2 0x3 0x06 r.bits r.ext
  | .atswp r => word2 0x3 0x08 r.bits r.ext
  | .atcas r => word2 0x3 0x09 r.bits r.ext
  | .atfadd r => word2 0x3 0x0A r.bits r.ext
  | .atadds r => word2 0x3 0x0B r.bits r.ext
  | .fence r => word1 0x4 0x00 r.bits
  | .waitm r => word2 0x4 0x01 r.bits r.ext
  | .barrive r => word1 0x4 0x02 r.bits
  | .barriveExt r e => word2 0x4 0x02 r.bits e.ext
  | .bexpect r => word1 0x4 0x03 r.bits
  | .bexpectExt r e => word2 0x4 0x03 r.bits e.ext
  | .bwait r => word1 0x4 0x04 r.bits
  | .bwaitExt r e => word2 0x4 0x04 r.bits e.ext
  | .btest r => word1 0x4 0x05 r.bits
  | .btestExt r e => word2 0x4 0x05 r.bits e.ext
  | .tkget r => word1 0x4 0x06 r.bits
  | .tkpost r => word1 0x4 0x07 r.bits
  | .tkdone r => word1 0x4 0x08 r.bits
  | .trap => word1 0x4 0x09 0
  | .trapExt r => word2 0x4 0x09 0 r.ext
  | .tret => word1 0x4 0x0A 0
  | .crd r => word1 0x4 0x0B r.bits
  | .cwr r => word1 0x4 0x0C r.bits
  | .hbeat => word1 0x4 0x0D 0
  | .yield => word1 0x4 0x0E 0
  | .vadd r => word2 0x5 0x00 r.bits r.ext
  | .vsub r => word2 0x5 0x01 r.bits r.ext
  | .vmul r => word2 0x5 0x02 r.bits r.ext
  | .vmulh r => word2 0x5 0x03 r.bits r.ext
  | .vmin r => word2 0x5 0x04 r.bits r.ext
  | .vmax r => word2 0x5 0x05 r.bits r.ext
  | .vabs r => word2 0x5 0x06 r.bits r.ext
  | .vand r => word2 0x5 0x07 r.bits r.ext
  | .vor r => word2 0x5 0x08 r.bits r.ext
  | .vxor r => word2 0x5 0x09 r.bits r.ext
  | .vandn r => word2 0x5 0x0A r.bits r.ext
  | .vshl r => word2 0x5 0x0B r.bits r.ext
  | .vshr r => word2 0x5 0x0C r.bits r.ext
  | .vsra r => word2 0x5 0x0D r.bits r.ext
  | .vfadd r => word2 0x5 0x10 r.bits r.ext
  | .vfsub r => word2 0x5 0x11 r.bits r.ext
  | .vfmul r => word2 0x5 0x12 r.bits r.ext
  | .vfma r => word2 0x5 0x13 r.bits r.ext
  | .vfms r => word2 0x5 0x14 r.bits r.ext
  | .vfmin r => word2 0x5 0x15 r.bits r.ext
  | .vfmax r => word2 0x5 0x16 r.bits r.ext
  | .vrcp r => word2 0x5 0x17 r.bits r.ext
  | .vrsq r => word2 0x5 0x18 r.bits r.ext
  | .vexp2 r => word2 0x5 0x19 r.bits r.ext
  | .vlog2 r => word2 0x5 0x1A r.bits r.ext
  | .vcmp cc r => word2 0x5 (0x20 + cc.toNat) r.bits r.ext
  | .vfcmp cc r => word2 0x5 (0x30 + cc.toNat) r.bits r.ext
  | .vNop => word2 0x6 0x00 0 0
  | .pand r => word2 0x6 0x01 r.bits r.ext
  | .por r => word2 0x6 0x02 r.bits r.ext
  | .pxor r => word2 0x6 0x03 r.bits r.ext
  | .pnot r => word2 0x6 0x04 r.bits r.ext
  | .ppop r => word2 0x6 0x05 r.bits r.ext
  | .pfirst r => word2 0x6 0x06 r.bits r.ext
  | .vcvt r => word2 0x6 0x08 r.bits r.ext
  | .vsxpack r => word2 0x6 0x09 r.bits r.ext
  | .vsxunpack r => word2 0x6 0x0A r.bits r.ext
  | .vperm r => word2 0x6 0x0C r.bits r.ext
  | .vshuf r => word2 0x6 0x0D r.bits r.ext
  | .vbcast r => word2 0x6 0x0E r.bits r.ext
  | .vmovs r => word2 0x6 0x0F r.bits r.ext
  | .vsel r => word2 0x6 0x10 r.bits r.ext
  | .vcompress r => word2 0x6 0x11 r.bits r.ext
  | .vexpand r => word2 0x6 0x12 r.bits r.ext
  | .vred r => word2 0x6 0x14 r.bits r.ext
  | .vscan r => word2 0x6 0x15 r.bits r.ext
  | .vtopk r => word2 0x6 0x16 r.bits r.ext
  | .vlpmul r => word2 0x6 0x18 r.bits r.ext
  | .vlpadd r => word2 0x6 0x19 r.bits r.ext
  | .vlpmax r => word2 0x6 0x1A r.bits r.ext
  | .vlpdiv r => word2 0x6 0x1B r.bits r.ext
  | .vlpcvt r => word2 0x6 0x1C r.bits r.ext
  | .vlpsplit r => word2 0x6 0x1D r.bits r.ext
  | .vlpjoin r => word2 0x6 0x1E r.bits r.ext
  | .vrand r => word2 0x6 0x20 r.bits r.ext
  | .vld r => word2 0x7 0x00 r.bits r.ext
  | .vst r => word2 0x7 0x01 r.bits r.ext
  | .vlds r => word2 0x7 0x02 r.bits r.ext
  | .vsts r => word2 0x7 0x03 r.bits r.ext
  | .vgath r => word2 0x7 0x04 r.bits r.ext
  | .vscat r => word2 0x7 0x05 r.bits r.ext
  | .vldb r => word2 0x7 0x06 r.bits r.ext
  | .fNop => word1 0x8 0x00 0
  | .fopen r => word1 0x8 0x01 r.bits
  | .fopenExt r e => word2 0x8 0x01 r.bits e.ext
  | .fnext r => word1 0x8 0x02 r.bits
  | .fskip r => word1 0x8 0x03 r.bits
  | .fisect r => word1 0x8 0x04 r.bits
  | .funion r => word1 0x8 0x05 r.bits
  | .fmerge r => word2 0x8 0x06 r.bits r.ext
  | .fldv r => word2 0x8 0x07 r.bits r.ext
  | .fcrd r => word2 0x8 0x08 r.bits r.ext
  | .femit r => word2 0x8 0x09 r.bits r.ext
  | .fstat r => word1 0x8 0x0A r.bits
  | .fsave r => word1 0x8 0x0B r.bits
  | .frest r => word1 0x8 0x0C r.bits
  | .fclose r => word1 0x8 0x0D r.bits
  | .xNop => word1 0x9 0x00 0
  | .xscale r => word1 0x9 0x01 r.bits
  | .xexpv r => word2 0x9 0x02 r.bits r.ext
  | .xfix r => word2 0x9 0x03 r.bits r.ext
  | .xcvt r => word2 0x9 0x04 r.bits r.ext
  | .hNop => word1 0xA 0x00 0
  | .hld r => word1 0xA 0x01 r.bits
  | .hldExt r e => word2 0xA 0x01 r.bits e.ext
  | .hst r => word1 0xA 0x02 r.bits
  | .hstExt r e => word2 0xA 0x02 r.bits e.ext
  | .hset r => word1 0xA 0x03 r.bits
  | .hfence r => word1 0xA 0x04 r.bits
  | .mNop => word1 0xB 0x00 0
  | .acalloc r => word1 0xB 0x01 r.bits
  | .acfree r => word1 0xB 0x02 r.bits
  | .acgrant r => word1 0xB 0x03 r.bits
  | .aczero r => word1 0xB 0x04 r.bits
  | .acrd r => word2 0xB 0x05 r.bits r.ext
  | .acrdSt r => word2 0xB 0x05 (r.bits + 16) r.ext
  | .acwr r => word2 0xB 0x06 r.bits r.ext
  | .mmaBf16 r => word2 0xB 0x10 r.bits r.ext
  | .mmaFp16 r => word2 0xB 0x11 r.bits r.ext
  | .mmaE4m3 r => word2 0xB 0x12 r.bits r.ext
  | .mmaE5m2 r => word2 0xB 0x13 r.bits r.ext
  | .mmaInt8 r => word2 0xB 0x14 r.bits r.ext
  | .mmaSx8 r => word2 0xB 0x15 r.bits r.ext
  | .mmaSx5 r => word2 0xB 0x16 r.bits r.ext
  | .mmaSx3 r => word2 0xB 0x17 r.bits r.ext
  | .mcntInt4 r => word2 0xB 0x18 r.bits r.ext
  | .mcntE2m1 r => word2 0xB 0x19 r.bits r.ext
  | .nclr r => word1 0xB 0x20 r.bits
  | .nmerge r => word1 0xB 0x21 r.bits
  | .ndump r => word1 0xB 0x22 r.bits
  | .nload r => word1 0xB 0x23 r.bits
  | .ndrain r => word1 0xB 0x24 r.bits
  | .nchk r => word1 0xB 0x25 r.bits
  | .rgset r => word2 0xB 0x28 r.bits r.ext
  | .cNop => word1 0xC 0x00 0
  | .copy r => word1 0xC 0x01 r.bits
  | .copyExt r e => word2 0xC 0x01 r.bits e.ext
  | .copyt r => word1 0xC 0x02 r.bits
  | .copytExt r e => word2 0xC 0x02 r.bits e.ext
  | .cgath r => word2 0xC 0x03 r.bits r.ext
  | .cscat r => word2 0xC 0x04 r.bits r.ext
  | .cred r => word1 0xC 0x05 r.bits
  | .credExt r e => word2 0xC 0x05 r.bits e.ext
  | .cring r => word1 0xC 0x06 r.bits
  | .cringExt r e => word2 0xC 0x06 r.bits e.ext
  | .cwait r => word1 0xC 0x07 r.bits
  | .ctest r => word1 0xC 0x08 r.bits
  | .publish r => word1 0xC 0x09 r.bits
  | .upd r => word2 0xC 0x0A r.bits r.ext
  | .tNop => word1 0xD 0x00 0
  | .tmode r => word2 0xD 0x01 r.bits r.ext
  | .tevid r => word1 0xD 0x02 r.bits
  | .tseed r => word1 0xD 0x03 r.bits
  | .tfwd r => word1 0xD 0x04 r.bits
  | .tfwdExt r e => word2 0xD 0x04 r.bits e.ext
  | .trev r => word1 0xD 0x05 r.bits
  | .trevExt r e => word2 0xD 0x05 r.bits e.ext
  | .tsamp r => word1 0xD 0x06 r.bits
  | .targm r => word1 0xD 0x07 r.bits
  | .tratio r => word2 0xD 0x08 r.bits r.ext
  | .twclr r => word1 0xD 0x09 r.bits
  | .tstat r => word1 0xD 0x0A r.bits
  | .hint i => [14 * 2 ^ 28 + i.toNat]
  | .hintExt i ext => [14 * 2 ^ 28 + 2 ^ 27 + i.toNat, ext.toNat]
  | .bundleIssue _ => []
  | .blockRelease _ => []
  | .gateTimeoutMark _ => []
  | .loadArrival _ _ => []
  | .accessRefusal _ _ _ => []
  | .deferredTrap _ => []
  | .heartbeatExpiry _ => []
  | .contextRetire _ => []
  | .taskDispatch _ => []
  | .taskDecrement _ => []
  | .taskCancellation _ => []
  | .regionAdmit _ => []
  | .partitionPreempt _ _ => []
  | .partitionSwapOut _ _ => []
  | .partitionSwapIn _ _ => []
  | .barrierArrival _ _ => []
  | .mCommandPerform _ => []
  | .mmaRetirement _ => []
  | .tCommandPerform _ => []
  | .fibreQueuePerform _ => []
  | .copyChunkWritten _ _ _ => []
  | .cringRoom _ _ => []
  | .publishExchange _ _ => []
  | .updGateOpen _ _ => []
  | .powerOn => []
  | .powerRemoval => []
  | .bootctlGo => []
  | .warmReset => []
  | .extend _ => []
  | .heldExtend => []
  | .attestation => []
  | .extctlErrRead _ => []
  | .throttleUpdate _ _ => []
  | .mwr _ _ => []
  | .mrd _ _ _ => []
  | .dbell _ _ => []
  | .unknownMessageType _ => []
  | .linkModuleDisable _ => []
  | .flitCrcFailure _ => []
  | .registerWrite _ _ => []
  | .qtailWrite _ _ => []
  | .launch _ => []
  | .post _ => []
  | .marker _ => []
  | .queueEntryBadOp _ => []
  | .queueCompletion _ => []
  | .qctlTeardown _ => []
  | .qctlReset _ => []
  | .frovfRead _ => []
  | .resumeContext _ => []
  | .resumeCopy _ => []
  | .resumeAll _ => []
  | .tlbinvPage _ _ => []
  | .tlbinvAsid _ _ => []
  | .tlbinvAll _ _ => []
  | .tlbinvDone _ => []
  | .suspend => []
  | .unsuspend => []
  | .stopmark => []
  | .stopmarkContextStop _ => []
  | .save => []
  | .restore => []
  | .ldtctlDrop _ => []
  | .ldtctlDropAll => []
  | .ldtctlDone => []
  | .diePowerUp _ => []
  | .diePowerDown _ => []
  | .strataDump => []
  | .telclr => []
  | .dieLoss _ => []
  | .cheadWrite _ _ => []
  | .corePowerGating _ => []

/-- The slot of an instruction (R115): V0 for the vector forms and for a hint with an extension word, S for a hint without;
none for an event. -/
def slotOf (i : Instr) : Option Nat :=
  match encode i with
  | [] => none
  | w :: _ => some (slotOfMajor (fld w 31 28) (flag (fld w 27 27)))

/-- The bytes of an instruction, as memory holds them (R4). -/
def encodeBytes (i : Instr) : List Byte := (encode i).flatMap (toBytes 4)

end Sys2Proof
end

