-- ==== Sys2Proof/Machine/Shape.lean ====
section
/-! DEFINITION. Machine/Shape.lean: tensor shape records (R207 to R209) and the checks of a record by itself (R210, checks 1 to
7). -/

namespace Sys2Proof.Machine

/-- The fields of a shape record (R207, R208). -/
structure Shape where
  base : Nat
  hdr : Nat
  ext : List Nat
  str : List Int
deriving DecidableEq, Repr

/-- The fields of a shape register. -/
def shapeOf (h : HReg) : Shape :=
  let w := h.toNat
  { base := fld w 63 0, hdr := fld w 127 64
    ext := (upTo 4).map fun d => fld w (128 + 32 * d + 31) (128 + 32 * d)
    str := (upTo 4).map fun d => sgn 64 (fld w (256 + 64 * d + 63) (256 + 64 * d)) }

def Shape.fmt (s : Shape) : Nat := fld s.hdr 7 0
def Shape.rank (s : Shape) : Nat := fld s.hdr 10 8
def Shape.e (s : Shape) : Bool := bitAt s.hdr 11
def Shape.sh (s : Shape) : Bool := bitAt s.hdr 12
def Shape.space (s : Shape) : Nat := fld s.hdr 14 13

/-- Element bits of a format (R208); none where it is unknown. -/
def fmtBits (f : Nat) : Option Nat :=
  match f with
  | 0x01 => some 32
  | 0x02 => some 16
  | 0x03 => some 16
  | 0x04 => some 8
  | 0x05 => some 8
  | 0x06 => some 8
  | 0x07 => some 32
  | 0x08 => some 4
  | 0x09 => some 4
  | 0x0A => some 144
  | 0x0B => some 96
  | 0x0C => some 64
  | 0x0D => some 64
  | 0x0E => some 32
  | 0x0F => some 16
  | 0x10 => some 8
  | _ => none

/-- The alignment unit of BASE (R208). -/
def fmtAlign (f : Nat) : Nat :=
  match f with
  | 0x01 => 4
  | 0x02 => 2
  | 0x03 => 2
  | 0x07 => 4
  | 0x0A => 2
  | 0x0B => 2
  | 0x0C => 2
  | 0x0D => 8
  | 0x0E => 4
  | 0x0F => 2
  | _ => 1

def Shape.bits (s : Shape) : Nat := (fmtBits s.fmt).getD 0

/-- An extent, 1 at or above the rank (R209). -/
def Shape.extent (s : Shape) (d : Nat) : Nat := if d < s.rank then s.ext.getD d 0 else 1

def Shape.stride (s : Shape) (d : Nat) : Int := s.str.getD d 0

/-- The row span in bytes (R209). -/
def Shape.span (s : Shape) : Nat := s.ext.getD 0 0 * s.bits / 8

/-- The packed size in bytes (R209). -/
def Shape.size (s : Shape) : Nat := s.span * s.extent 1 * s.extent 2 * s.extent 3

/-- The offsets from BASE of the first and the last byte that any element touches. -/
def Shape.reach (s : Shape) : Int × Int :=
  ([1, 2, 3].filter (· < s.rank)).foldl (fun r d =>
    let step := ((s.extent d : Int) - 1) * s.stride d
    (r.1 + min 0 step, r.2 + max 0 step)) (0, (s.span : Int) - 1)

/-- Dimension d is a broadcast dimension (R209). -/
def Shape.broadcast (s : Shape) (d : Nat) : Bool := s.stride d == 0 && s.extent d > 1

/-- The dimensions below the rank, at most four. -/
def Shape.dims (s : Shape) : List Nat := upTo (min s.rank 4)

/-- A check of R210 fails on the record by itself. -/
def Shape.fails (s : Shape) (check : Nat) : Bool :=
  match check with
  | 1 => !s.e && s.dims.any fun d => s.ext.getD d 0 == 0
  | 2 => (s.dims.filter (1 ≤ ·)).any fun d => !s.broadcast d && (s.stride d).natAbs * 8 < s.ext.getD 0 0 * s.bits
  | 3 => s.base % fmtAlign s.fmt != 0
  | 4 => s.space == 0 && s.base % 64 != 0
  | 5 => s.rank == 0 || s.rank > 4 || (fmtBits s.fmt).isNone || s.space == 3
  | 6 => s.ext.getD 0 0 * s.bits % 8 != 0 ||
      (s.space == 1 && s.size != 0 && ((s.base : Int) + s.reach.1 < 0 || (s.base : Int) + s.reach.2 > 0x2FFFFF)) ||
      (s.space == 2 && (!(s.fmt == 0x01 || s.fmt == 0x07 || s.fmt == 0x0D) || s.base ≥ 32 ||
        (s.size != 0 && (s.reach.1 < 0 || s.reach.2 ≥ 8192))))
  | 7 => s.hdr / 2 ^ 15 != 0 || s.stride 0 != 0 || (s.sh && s.space != 0) ||
      ((upTo 4).filter (s.rank ≤ ·)).any fun d => s.ext.getD d 0 != 0 || s.stride d != 0
  | _ => false

/-- The lowest-numbered check of 1 to 7 that fails (R210). -/
def Shape.check (s : Shape) : Option Nat := [1, 2, 3, 4, 5, 6, 7].find? s.fails

/-- The byte offsets of the rows from BASE, i1 fastest (R209). -/
def Shape.rows (s : Shape) : List Int :=
  (upTo (s.extent 3)).flatMap fun (i3 : Nat) => (upTo (s.extent 2)).flatMap fun (i2 : Nat) => (upTo (s.extent 1)).map fun (i1 : Nat) =>
    (i1 : Int) * s.stride 1 + (i2 : Int) * s.stride 2 + (i3 : Int) * s.stride 3

/-- The byte offset from BASE of packed byte n, for a record of whole rows. -/
def Shape.byteAt (s : Shape) (n : Nat) : Int :=
  let row := n / s.span
  let i1 := row % s.extent 1
  let i2 := row / s.extent 1 % s.extent 2
  let i3 := row / s.extent 1 / s.extent 2
  (n % s.span : Nat) + (i1 : Int) * s.stride 1 + (i2 : Int) * s.stride 2 + (i3 : Int) * s.stride 3

/-- Replace bits [hi:lo] of a record. -/
def hputBits (h : HReg) (hi lo v : Nat) : HReg := BitVec.ofNat 512 (putFld h.toNat hi lo v)

/-- Write one field of a record (R211): 0 BASE, 1 HDR, 2 to 5 EXT0 to EXT3, 6 to 9 STR0 to STR3. -/
def hputField (h : HReg) (field : Nat) (v : Nat) : HReg :=
  if field ≤ 1 then hputBits h (64 * field + 63) (64 * field) v
  else if field ≤ 5 then hputBits h (128 + 32 * (field - 2) + 31) (128 + 32 * (field - 2)) v
  else hputBits h (256 + 64 * (field - 6) + 63) (256 + 64 * (field - 6)) v

end Sys2Proof.Machine
end

