-- ==== Sys2Proof/Machine/Tasks.lean ====
section
/-! DEFINITION. Machine/Tasks.lean: the task scheduler (R30 to R34, R36, R361), teardown (R29, R57), and seifs as dispatch
forms them (R13, R40). -/

namespace Sys2Proof.Machine

/-- STATUS codes (R31). -/
def stOK : Nat := 0
def stCANCELLED : Nat := 1
def stABORTED : Nat := 2
def stCANCELLED_DEP : Nat := 3
def stFAULTED : Nat := 4

/-- A request of a die's task scheduler (R329, R361). -/
def schedReq (asid d : Nat) : Req :=
  { asid := asid, src := 10, cls := 0, pdie := d, core := 0xFF, ctx := 0, cid := 0xFF, shadow := false }

/-- The live record at an address (R32). -/
def State.taskAt (s : State) (asid : Nat) (va : Word64) : Option TaskRec :=
  s.tasks.find? fun t => t.asid == asid && t.va == va && t.state != .done

/-- Replace a record. -/
def State.setTask (s : State) (t : TaskRec) : State :=
  { s with tasks := s.tasks.map fun u => if u.id == t.id then t else u }

/-- A region by number. -/
def State.region? (s : State) (id : Nat) : Option Region := s.regions.find? (·.id == id)

/-- Replace a region. -/
def State.setRegion (s : State) (r : Region) : State :=
  { s with regions := s.regions.map fun u => if u.id == r.id then r else u }

/-- A region is admitted: resident, swapped out or held (R325). -/
def Region.admitted (r : Region) : Bool := r.state == .admitted || r.state == .swapped || r.state == .held

/-- `r` is `a` or a descendant of it (R28); `n` bounds the walk. -/
def State.descends (s : State) : Nat → Nat → Nat → Bool
  | 0, r, a => r == a
  | n + 1, r, a => r == a ||
    match s.region? r with
    | some g =>
      match g.parent with
      | some p => s.descends n p a
      | none => false
    | none => false

/-- The admitted region that a record's RCB field names, if it is the entry's region or a descendant of it (R30, R323). The field
is matched with regions whose LAUNCH named their RCB in the poster's address space (DESIGN CHOICE, log 31). -/
def State.regionNamed (s : State) (asid : Nat) (rcb : Word64) (within : Nat) : Option Region :=
  s.regions.find? fun r => r.rcb == rcb && r.rcbAsid == asid && r.admitted && s.descends s.regions.length r.id within

/-- Put a step on the scheduler's list. -/
def State.enqueue (s : State) (d asid : Nat) (rec : Word64) (op : SchedOp) (held : Bool) : State :=
  { s with msgs := s.msgs ++ [{ id := s.nextId, die := d, asid := asid, record := rec, op := op, held := held }]
           nextId := s.nextId + 1 }

/-- The event record of a duplicate completion (R32, R351): KIND 8. -/
def State.dupComp (s : State) (d : Nat) (rec : Word64) : State := s.strataAdd d 8 false 0xFF 0xFF (toBytes 8 rec.toNat)

/-- Tell the queue entries that posted a record that it is DONE (R324). -/
def State.noteDone (s : State) (asid : Nat) (va : Word64) (status : Nat) : State :=
  { s with queue := s.queue.map fun q =>
      if q.asid == asid && q.recs.contains va then
        { q with recs := q.recs.erase va, nfault := if status == 0 then q.nfault else q.nfault + 1,
                 status := if q.status == 0 then status else q.status }
      else q }

/-- Write bytes at an offset of a record. -/
def recWrite (d asid : Nat) (va : Word64) (off : Nat) (bs : List Byte) : Op Unit := do
  let p ← translate (schedReq asid d) accWrite va
  match p with
  | .here pa => modify fun s => s.writeMapped (pa + off) bs
  | .away _ _ => writePlace (schedReq asid d) (va + n64 off) p bs true

/-- The 64 bytes of a record. -/
def recRead (d asid : Nat) (va : Word64) : Op (List Byte) := do
  let r ← readVirt (schedReq asid d) va 64
  pure r.1

/-- The steps of a completion, in the order of R34. -/
def completionSteps (status : Nat) : List SchedOp :=
  [.writeStatus status, .writeState 4, .arrive (status != 0), .successors (status == 0)]

/-- A record's completion in the scheduler's own list, and the queue entries that wait for it. -/
def State.recDone (s : State) (t : TaskRec) (status : Nat) : State :=
  (s.setTask { t with state := .done, status := status }).noteDone t.asid t.va status

/-- A record as the scheduler sees it when it is posted (R30). -/
structure Posted where
  entry : Word64
  rcb : Word64
  dep : Nat
  height : Nat
  pri : Nat
  flags : Nat
  status : Nat
  state : Nat
  reserved : Nat
deriving DecidableEq, Repr

def postedOf (bs : List Byte) : Posted :=
  { entry := n64 (recFld bs 0 8), rcb := n64 (recFld bs 0x10 8), dep := recFld bs 0x18 4, height := recFld bs 0x1C 2,
    pri := recFld bs 0x1E 1, flags := recFld bs 0x1F 1, status := recFld bs 0x2A 2, state := recFld bs 0x2C 1,
    reserved := recFld bs 0x2D 3 }

/-- The fields of a record that R30 refuses. -/
def Posted.malformed (p : Posted) : Bool :=
  (p.pri / 8 != 0 && p.pri / 8 != 31) || p.flags ≥ 3 || p.reserved != 0

/-- The entry of the logical-die table that routes an address (R24, R336). -/
def State.routeOf (s : State) (va : Word64) : Nat :=
  match fget? s.ldtCache (va.toNat / 2 ^ 49) with
  | some e => e.toNat
  | none => s.memN (physOf s.lead (s.regN rLDTBASE + 8 * (va.toNat / 2 ^ 49))) 8

/-- The physical die that holds a record address, for the scheduler that owns it (R32); die 0 where it is not known. -/
def State.ownerDie (s : State) (va : Word64) : Nat := fld (s.routeOf va) 16 13

/-- A record address belongs to another module of the domain (R24). -/
def State.ownedAway (s : State) (va : Word64) : Bool :=
  bitAt (s.routeOf va) 0 && fld (s.routeOf va) 12 1 != s.moduleNo

/-- What the schedulers of two modules tell each other about a record (R32): kinds of message beside the accesses (log 9). -/
def fabPOST : Nat := 5
def fabDONE : Nat := 6
def fabDECREMENT : Nat := 7
def fabCANCEL : Nat := 8

/-- Send a message about a record to the module that owns it. -/
def State.sendAway (s : State) (asid : Nat) (va : Word64) (kind : Nat) (data : List Byte) : State :=
  { s with fabricOut := s.fabricOut ++
      [{ modl := fld (s.routeOf va) 12 1, pdie := s.ownerDie va, asid := asid, va := va, kind := kind, data := data }] }

/-- Post a record whose bytes have been read (R30, R32): the steps that follow. A record that is both refused and CANCELLED_DEP
completes FAULTED (DESIGN CHOICE, log 31). -/
def postStep (d asid : Nat) (va : Word64) (within : Nat) (bs : List Byte) : Op (List SchedOp) := do
  let p := postedOf bs
  let s ← get
  if (s.taskAt asid va).isSome || (1 ≤ p.state && p.state ≤ 4) then do
    set (s.dupComp d va)
    if (s.taskAt asid va).isNone then modify fun s => s.noteDone asid va p.status else pure ()
    pure []
  else do
    let r := s.regionNamed asid p.rcb within
    let bad := p.state > 4 || (p.status != 0 && p.status != stCANCELLED_DEP) || p.malformed || r.isNone
    let region := match r with
      | some g => g.id
      | none => within
    let pri := match r with
      | some g => if p.pri / 8 == 0 then p.pri % 8 else g.pri
      | none => 0
    let ready := p.dep == 0
    let t : TaskRec :=
      { id := s.nextId, asid := asid, va := va, die := d, region := region, data := p.entry == 0,
        home := region, seif := if p.flags == 1 then 2 else if p.flags == 2 then 4 else 1, pri := pri, height := p.height,
        state := if ready then .ready else .waiting, status := 0 }
    modify fun s => { s with tasks := s.tasks ++ [t], nextId := s.nextId + 1
                             regions := s.regions.map fun g => if g.id == region then { g with used := true } else g }
    if bad then do
      modify fun s => s.recDone t stFAULTED
      pure (completionSteps stFAULTED)
    else if p.status == stCANCELLED_DEP then do
      modify fun s => s.recDone t stCANCELLED_DEP
      pure (completionSteps stCANCELLED_DEP)
    else pure [.writeState (if ready then 2 else 1)]

/-- A decrement from the scheduler of a die reaches a record (R32); a record of it names the sender's die (R329). -/
def decrementStep (d sender asid : Nat) (va : Word64) : Op (List SchedOp) := do
  let s ← get
  let bs ← recRead d asid va
  let p := postedOf bs
  match s.taskAt asid va with
  | some t =>
    if t.state == .waiting then do
      let dep := p.dep - 1
      recWrite d asid va 0x18 (toBytes 4 dep)
      if dep == 0 then do
        recWrite d asid va 0x2C [2]
        modify fun s => s.setTask { t with state := .ready }
      else pure ()
    else faultPost (depUnder asid sender va)
  | none =>
    if p.state == 0 && p.dep > 0 then recWrite d asid va 0x18 (toBytes 4 (p.dep - 1))
    else faultPost (depUnder asid sender va)
  pure []

/-- A cancellation from the scheduler of a die reaches a record (R32). -/
def cancelStep (d sender asid : Nat) (va : Word64) : Op (List SchedOp) := do
  let s ← get
  let bs ← recRead d asid va
  let p := postedOf bs
  match s.taskAt asid va with
  | some t =>
    if t.state == .waiting then do
      modify fun s => s.recDone t stCANCELLED_DEP
      pure (completionSteps stCANCELLED_DEP)
    else do
      faultPost (depUnder asid sender va)
      pure []
  | none =>
    if p.state == 0 then do
      recWrite d asid va 0x2A (toBytes 2 stCANCELLED_DEP)
      pure []
    else do
      faultPost (depUnder asid sender va)
      pure []

/-- The member contexts of a seif (R13). -/
def Seif.members (f : Seif) : List Nat := (upTo f.size).map fun m => 4 * (f.core0 + m) + f.ctx

/-- The seif that a context is in, with its member index (R40). -/
def State.seifOf (s : State) (x : Nat) : Option Seif := s.seifs.find? (·.id == (s.ctx x).seif)

/-- The contexts that run a context's task: itself, or the members of its seif. -/
def State.mates (s : State) (x : Nat) : List Nat :=
  match s.seifOf x with
  | some f => f.members
  | none => [x]

/-- The records a context runs: its entry record, which a seif's members share, and the data records it has taken. -/
def State.tasksOf (s : State) (x : Nat) : List TaskRec :=
  s.tasks.filter fun t => t.home == (s.ctx x).region && (t.state == .running x ||
    (!t.data && (s.mates x).any fun y => t.state == .running y))

/-! ### Dispatch (R33, R36) -/

/-- A record dispatched before another: lower PRI, then higher HEIGHT, then posted first (R33, R36). -/
def TaskRec.before (a b : TaskRec) : Bool :=
  a.pri < b.pri || (a.pri == b.pri && (a.height > b.height || (a.height == b.height && a.id < b.id)))

/-- Insert a record into a list kept in dispatch order. -/
def insertRec (t : TaskRec) : List TaskRec → List TaskRec
  | [] => [t]
  | u :: us => if t.before u then t :: u :: us else u :: insertRec t us

/-- The READY records in dispatch order, those of which a step is held apart (R361). -/
def State.readyRecs (s : State) : List TaskRec :=
  (s.tasks.filter fun t => t.state == .ready && !s.msgs.any fun m => m.held && m.asid == t.asid && m.record == t.va).foldl
    (fun l t => insertRec t l) []

/-- The cores on which a region is resident, in rising order. -/
def State.coresOf (s : State) (r : Region) : List Nat :=
  (upTo 216).filter fun k => r.place.contains k && (s.core k).region == r.id && !(s.core k).halting

/-- The contexts of a region that are not IDLE: its budget of contexts bounds them (R28). -/
def State.ctxCount (s : State) (r : Nat) : Nat :=
  (s.ctxs.filter fun (_, c) => c.region == r && c.state != .idle).length

/-- An IDLE context for an entry task, or for each member of a seif (R13, R33): the lowest core, then the lowest index. A region
whose cores hold no aligned group leaves a seif's record READY for ever (DESIGN CHOICE, log 31). -/
def State.idleFor (s : State) (r : Region) (size : Nat) : Option (Nat × Nat) :=
  let cores := s.coresOf r
  let pairs := cores.flatMap fun k => (upTo 4).map fun i => (k, i)
  if s.ctxCount r.id + size > r.contexts then none
  else pairs.find? fun (k, i) =>
    (k % 24) % size == 0 &&
      (upTo size).all fun m => cores.contains (k + m) && (s.ctx (4 * (k + m) + i)).state == .idle

/-- A context of a region blocked in TKGET (R33). -/
def State.waiterFor (s : State) (r : Region) : Option Nat :=
  ((s.coresOf r).flatMap fun k => (upTo 4).map fun i => 4 * k + i).find? fun x =>
    let c := s.ctx x
    c.region == r.id && c.state == .blocked && c.why == .task && c.given.isNone

/-- Where a READY record can be dispatched now: a region that is admitted and not held (R332), and a context for it on a core where it is resident. -/
def State.eligible (s : State) (t : TaskRec) : Option (Region × Nat) :=
  match s.region? t.region with
  | some r =>
    if !(r.state == .admitted || r.state == .swapped) || r.stopping || r.halting then none
    else if t.data then (s.waiterFor r).map fun x => (r, x)
    else (s.idleFor r t.seif).map fun (k, i) => (r, 4 * k + i)
  | none => none

/-- The record that the scheduler of a die dispatches next (R33, R36): the first of its own in dispatch order that has an eligible
context and before which no record of the same region, on whichever die, has one. -/
def State.toDispatch (s : State) (d : Nat) : Option TaskRec :=
  let l := s.readyRecs.filter fun t => (s.eligible t).isSome
  l.find? fun t => t.die == d && !l.any fun u => u.region == t.region && u.before t

/-- Dispatch a record to a context (R33), its bytes having been read. -/
def State.dispatchTo (s : State) (t : TaskRec) (r : Region) (x : Nat) (bs : List Byte) : State :=
  let s := s.setTask { t with state := .running x, home := r.id }
  if t.data then
    (s.modCtx x fun c => { c with given := some t.va }).makeReady x
  else
    let tv := let v := recFld bs 0x38 8; if v == 0 then r.tv else n64 v
    let fid := if t.seif > 1 then s.nextId else 0
    let s := if t.seif > 1 then
        { s with seifs := s.seifs ++ [{ id := fid, core0 := coreOf x, size := t.seif, ctx := x % 4, fused := true }]
                 nextId := s.nextId + 1 }
      else s
    (upTo t.seif).foldl (fun s m =>
      let y := x + 4 * m
      ((s.modCtx y fun c =>
        c.dispatched (n64 (recFld bs 0 8)) (n64 (recFld bs 8 8)) t.va tv r.id (if m == 0 then t.id else 0) fid)).handIssue
          (coreOf y)) s

/-! ### The steps of a completion (R34) -/

/-- The DONE arrival of a completed record (R34): a misaligned barrier, one in HBM, or one in the scratchpad of a core that is gated
or held in reset (R56), is reported and not applied. The report's layout (R329) has no place for the task record, which it
therefore does not name (log 31). -/
def arriveStep (d asid : Nat) (va : Word64) (err : Bool) : Op (List SchedOp) := do
  let bs ← recRead d asid va
  let bar := n64 (recFld bs 0x30 8)
  let rq := schedReq asid d
  let rep : FaultRec := undeliverable rq bar
  if bar == 0 then pure []
  else if bar.toNat % 32 != 0 then do
    faultPost rep
    pure []
  else do
    let p ← tryOp (translate rq accAtomic bar)
    match p with
    | .ok (.here pa) =>
      if inHbm (offOf pa) then faultPost rep else modify fun s => s.barAct pa (.arrive 1 err) true
    | .ok (.away m dd) => modify fun s => { s with fabricOut := s.fabricOut ++
        [{ modl := m, pdie := dd, asid := asid, va := bar, kind := accAtomic, data := [] }] }
    | .error r => if r.reason == 7 then faultPost rep else throw (.refuse r)
    pure []

/-- The addresses of a record's successors (R30). -/
def successorList (d asid : Nat) (succ : Word64) (n : Nat) : Op (List Word64) :=
  mapEach (upTo n) fun i => do
    let r ← readVirt (schedReq asid d) (succ + n64 (8 * i)) 8
    pure (n64 (ofBytes r.1))

/-- Send a record a decrement or a cancellation, at the scheduler of the die that holds it (R32). -/
def State.tellRecord (s : State) (d asid : Nat) (ok : Bool) (va : Word64) : State :=
  if s.ownedAway va then s.sendAway asid va (if ok then fabDECREMENT else fabCANCEL) []
  else s.enqueue (s.ownerDie va) asid va (if ok then .decrement d else .cancel d) false

/-- Send each successor a decrement or a cancellation (R34). -/
def successorsStep (d asid : Nat) (va : Word64) (ok : Bool) : Op (List SchedOp) := do
  let bs ← recRead d asid va
  let l ← successorList d asid (n64 (recFld bs 0x20 8)) (recFld bs 0x28 2)
  forEach l fun a => modify fun s => s.tellRecord d asid ok a
  pure []

/-- A READY record's dispatch (R33, R361): its bytes are read, it goes to the context that is eligible now, and its STATE has then
to become RUNNING. -/
def dispatchStep (d asid : Nat) (va : Word64) : Op (List SchedOp) := do
  let bs ← recRead d asid va
  let s ← get
  match (s.taskAt asid va).filter (·.state == .ready) with
  | some t =>
    match s.eligible t with
    | some (r, x) => do
      set (s.dispatchTo t r x bs)
      pure [.writeState 3]
    | none => pure []
  | none => pure []

/-- Make one step of the scheduler's work; the steps that follow it come first in what remains. -/
def schedStep (d asid : Nat) (va : Word64) (op : SchedOp) : Op (List SchedOp) :=
  match op with
  | .post within => do
    let bs ← recRead d asid va
    postStep d asid va within bs
  | .decrement sender => decrementStep d sender asid va
  | .cancel sender => cancelStep d sender asid va
  | .dispatch => dispatchStep d asid va
  | .writeStatus st => do
    recWrite d asid va 0x2A (toBytes 2 st)
    pure []
  | .writeState st => do
    recWrite d asid va 0x2C (toBytes 1 st)
    if st == 2 then modify fun s => { s with tasks := s.tasks.map fun t =>
        if t.asid == asid && t.va == va && t.state == .waiting then { t with state := .ready } else t }
    else pure ()
    pure []
  | .arrive err => arriveStep d asid va err
  | .successors ok => successorsStep d asid va ok

/-- Put steps on hold until RESUME (R361). -/
def State.holdAll (s : State) (d asid : Nat) (va : Word64) (ops : List SchedOp) : State :=
  ops.foldl (fun s op => s.enqueue d asid va op true) s

/-- Make steps in order; a refused one posts a record and is held with all that follow it (R361). `n` bounds the steps. -/
def runSteps (d asid : Nat) (va : Word64) : Nat → List SchedOp → Op Unit
  | 0, ops => modify fun s => s.holdAll d asid va ops
  | _ + 1, [] => pure ()
  | n + 1, op :: ops => do
    let r ← tryOp (schedStep d asid va op)
    match r with
    | .ok more => runSteps d asid va n (more ++ ops)
    | .error ref => do
      faultPost (refusalRec ref true)
      modify fun s => s.holdAll d asid va (op :: ops)

/-- Make steps for a record, behind any that are held for it (R361). -/
def runFor (d asid : Nat) (va : Word64) (ops : List SchedOp) : Op Unit := do
  let s ← get
  if s.msgs.any fun m => m.held && m.asid == asid && m.record == va then modify fun s => s.holdAll d asid va ops
  else runSteps d asid va (ops.length + 8) ops

/-- Complete a record with a status (R34), its region's fault domain apart. -/
def completeOnly (t : TaskRec) (status : Nat) : Op Unit := do
  modify fun s => s.recDone t status
  runFor t.die t.asid t.va (completionSteps status)

/-! ### Teardown (R29, R57) -/

/-- The contexts that belong to a region, pre-empted ones apart. -/
def State.ctxsOf (s : State) (r : Nat) : List Nat := (s.ctxs.filter fun (_, c) => c.region == r).map (·.1)

/-- The seifs of a region's contexts, pre-empted ones included. -/
def State.seifsOf (s : State) (r : Nat) : List Nat :=
  ((s.ctxs ++ s.hard.flatMap fun (_, h) => h.ctxs).filter fun (_, c) => c.region == r).map fun (_, c) => c.seif

/-- Write a region's STATE into its RCB (R325), where the write is not refused. -/
def rcbState (r : Region) (st : Nat) : Op Unit := do
  let res ← tryOp (recWrite 0 r.rcbAsid r.rcb 0x0C (toBytes 1 st))
  match res with
  | _ => pure ()

/-- Who has a core after a region gives it up: the parent that it was carved out of, where that is resident on it (R28;
log 13), else none. -/
def State.freedTo (s : State) (r : Region) (k : Nat) : Nat :=
  match r.parent.bind s.region? with
  | some p => if p.state == .admitted && p.place.contains k then p.id else 0
  | none => 0

/-- Free the cores of a region (R29, R43): no region is resident on them, or its parent is. -/
def State.freeCores (s : State) (r : Region) : State :=
  { s with cores := s.cores.map fun (k, c) =>
      if c.region == r.id then
        (k, { c with region := s.freedTo r k, halting := false, hbTimer := 0, hbMiss := 0, rcache := [] })
      else (k, c) }

/-- A copy-unit command outlives the teardown of context `x`, unless it is an UPD that still waits for its gate (R222). -/
def CopyCmd.survives (p : CopyCmd) (x : Nat) : Bool :=
  p.x != x || !p.waits || match p.kind with
    | .upd _ _ gate => gate.isNone
    | _ => true

/-- A command whose context is torn down goes on without it. -/
def CopyCmd.orphaned (p : CopyCmd) (x : Nat) : CopyCmd := if p.x == x then { p with lost := true } else p

/-- A command names no scratchpad and no bank that it has still to read. -/
def CopyCmd.placeless (p : CopyCmd) : Bool :=
  (shapeOf p.dst).space == 0 && ((shapeOf p.src).space == 0 || p.image.isSome) && match p.kind with
    | .ring _ _ => false
    | .gather idx => isVirt idx
    | .scatter idx => isVirt idx
    | _ => true

/-- The copies in flight of a pre-empted core whose region is released go on at the core (R57); those that name its scratchpad or
a bank end with its hardpan slot (DESIGN CHOICE, log 15). -/
def State.keepCopies (s : State) (r : Nat) : State :=
  s.hard.foldl (fun t (k, h) =>
    if h.core.region == r then
      let l := h.core.copies.filter fun p => p.survives p.x && p.placeless
      if l.isEmpty then t else t.modCore k fun c => { c with copies := c.copies ++ l.map fun p => p.orphaned p.x }
    else t) s

/-- The state of a region's pre-empted cores goes, but for what of their copies goes on (R57); with `reset` nothing does. -/
def State.dropSlots (s : State) (r : Nat) (reset : Bool) : State :=
  let s := if reset then s else s.keepCopies r
  { s with hard := s.hard.filter fun (_, h) => h.core.region != r }

/-- Release a region: its STATE is RELEASED and its cores are free. -/
def releaseRegion (r : Region) (reset : Bool) : Op Unit := do
  modify fun s => ((s.setRegion { r with state := .released, place := [] }).freeCores r).dropSlots r.id reset
  rcbState r 5

/-- Tear down a region (R57): records not yet running end CANCELLED, running ones ABORTED, every context that is neither
IDLE nor HALTED is retired, after the retirement of what its matrix engine runs and without waiting for its copies, and
HALTED ones become IDLE. With `reset`, its copies in flight
are discarded. -/
def teardown (reset : Bool) (r : Region) : Op Unit := do
  let s ← get
  let mine := s.tasks.filter fun t => t.region == r.id
  forEach (mine.filter fun t => t.state == .waiting || t.state == .ready) fun t => completeOnly t stCANCELLED
  forEach (mine.filter fun t => match t.state with | .running _ => true | _ => false) fun t => completeOnly t stABORTED
  forEach (s.ctxsOf r.id) fun x => modify fun s =>
    let s := if reset then s.modCore (coreOf x) fun c => { c with copies := c.copies.filter (·.x != x) }
             else s.modCore (coreOf x) fun c => { c with copies := (c.copies.filter (·.survives x)).map (·.orphaned x) }
    (s.finishRun x).retire x
  let ids := s.seifsOf r.id
  modify fun s => { s with seifs := s.seifs.filter fun f => !ids.contains f.id }
  releaseRegion r reset

/-- What a failed task of a region ends (R29): nothing more, its region, or the parent region with all its descendants, those
that wait for admission among them. Domain `region` leaves the region's own descendants as they are (DESIGN CHOICE, log 31). -/
def faultDomain (r : Nat) : Op Unit := do
  let s ← get
  match s.region? r with
  | none => pure ()
  | some g =>
    if g.fault == 0 then pure ()
    else
      match (if g.fault == 2 then g.parent.bind s.region? else none) with
      | some p =>
        let l := s.regions.filter fun g => g.state != .released && s.descends s.regions.length g.id p.id
        forEach l.reverse (teardown false)
      | none => if g.admitted then teardown false g else pure ()

/-- Complete a record with a status (R34); a FAULTED one acts on its fault domain (R29). -/
def complete (t : TaskRec) (status : Nat) : Op Unit := do
  completeOnly t status
  if status == stFAULTED then faultDomain t.region else pure ()

/-- Complete several records with a status, those among them that are still alive, and then let the fault domains of their regions
act (R29). -/
def completeAll (l : List TaskRec) (status : Nat) : Op Unit := do
  forEach l fun t => do
    let s ← get
    if (s.taskAt t.asid t.va).isSome then completeOnly t status else pure ()
  forEach (l.map (·.region)).eraseDups faultDomain

/-- Every task that some contexts run completes FAULTED (R45, R53). -/
def failTasks (xs : List Nat) : Op Unit := do
  let s ← get
  completeAll (xs.flatMap s.tasksOf).eraseDups stFAULTED

/-- The fault domains act of the regions of records that postings since record number `n` have refused (R29, R30). -/
def failPosted (n : Nat) : Op Unit := do
  let s ← get
  let l := s.tasks.filter fun t => t.id ≥ n && t.state == .done && t.status == stFAULTED
  forEach (l.map (·.region)).eraseDups faultDomain

/-- Post a record, as TKPOST and the queue entries do (R32, R323); one of another module goes to that module's scheduler. A record
that is refused acts on its fault domain. -/
def postRecord (d asid : Nat) (va : Word64) (within : Nat) : Op Unit := do
  let s ← get
  if s.ownedAway va then set (s.sendAway asid va fabPOST [])
  else do
    runFor d asid va [.post within]
    failPosted s.nextId

/-- One dispatch of a die's task scheduler (R33, R36); a refused access is held and made again (R361). -/
def dispatchOne (d : Nat) : Op Unit := do
  let s ← get
  match s.toDispatch d with
  | some t => runFor d t.asid t.va [.dispatch]
  | none => pure ()

end Sys2Proof.Machine
end

