-- ==== Sys2Proof/Machine/Fetch.lean ====
section
/-! DEFINITION. Machine/Fetch.lean: fetch through the instruction store (R42, R124) and the decoding of a bundle (R111,
R128). -/

namespace Sys2Proof.Machine

/-- A trap taken before any slot (R49), at the address that was fetched. -/
def fetchTrap {α : Type} (cause : Nat) (a : Word64) : Op α :=
  throw (.trap { cause := cause, info := a, slotField := 0xF, deferred := false, tpc := a, slotRes := 0, repLeft := 0 })

/-- A fetch request of a context (R329: source 6, class 0). -/
def State.fetchReq (s : State) (x : Nat) : Req := s.reqOf x 6 0

/-- The line of a block is held by a core's instruction store for an ASID. -/
def Core.heldLine (c : Core) (asid block : Nat) : Option Line :=
  c.istore.find? fun l => l.asid == asid && l.block == block

/-- Hold a line; a full store of 64 lines replaces one of the core's choosing (R42; log 8). -/
def holdLine (k : Nat) (l : Line) : Op Unit := do
  let s ← get
  let c := s.core k
  if c.istore.length < 64 then set (s.setCore k { c with istore := c.istore ++ [l] })
  else do
    let n ← nextFree
    modify fun s => s.setCore k { c with istore := c.istore.eraseIdx (Config.victim n % 64) ++ [l] }

/-- The translation of a virtual address that its owner's TLB holds. -/
def State.pageEnt (s : State) (asid : Nat) (va : Word64) (pa : Nat) : Option TlbEnt :=
  (s.die (pdieOf pa)).tlb.find? (·.covers asid (va.toNat % 2 ^ 49 / 65536))

/-- The page of a virtual address carries NC (R42, R327). -/
def State.pageNc (s : State) (asid : Nat) (va : Word64) (pa : Nat) : Bool :=
  (s.pageEnt asid va pa).any fun e => bitAt e.leaf.toNat 6

/-- The page of a virtual address is one of 2 MB (R327). -/
def State.pageBig (s : State) (asid : Nat) (va : Word64) (pa : Nat) : Bool := (s.pageEnt asid va pa).any (·.big)

/-- A block as a context reads it: its own gated stores come before what memory holds (R85, R310). -/
def Ctx.overlay (c : Ctx) (ea : Word64) (bytes : List Host.Cell) : List Host.Cell :=
  let put := fun (m : List Host.Cell) (a : Word64) (b : Byte) =>
    if (a - ea).toNat < 4096 then fset unwritten m (a - ea).toNat b else m
  c.gate.foldl (fun m g => g.writes.foldl (fun m (a, bs) =>
    ((upTo bs.length).zip bs).foldl (fun m (i, b) => put m (a + n64 i) b) m) m) bytes

/-- The 4 KB block `block` as a context fetches it (R42): a held line, or the block read from memory as class-0 reads and then held,
unless its page carries NC. -/
def fetchLine (x block : Nat) : Op Line := do
  let s ← get
  let k := coreOf x
  let asid := s.asidOf x
  match (s.core k).heldLine asid block with
  | some l => pure l
  | none => do
    let ea := n64 (block * 4096)
    let p ← locate (s.fetchReq x) accFetch k ea
    match p with
    | .here pa => do
      modify fun s => s.eccRead pa 4096
      let s ← get
      let l : Line := { asid := asid, block := block, big := isVirt ea && s.pageBig asid ea pa,
                        bytes := (s.ctx x).overlay ea (fwindow s.mem pa 4096) }
      if isVirt ea && s.pageNc asid ea pa then pure l
      else do
        holdLine k l
        pure l
    | .away _ _ => do
      let r ← readPlace (s.fetchReq x) ea p 4096
      let l : Line := { asid := asid, block := block, big := false,
                        bytes := (s.ctx x).overlay ea
                          (r.1.foldl (fun (m : Nat × FMap Byte) b => (m.1 + 1, fset unwritten m.2 m.1 b)) (0, [])).2 }
      holdLine k l
      pure l

/-- The 32-bit word that a context fetches at a 4-byte-aligned address (R124). -/
def fetchWord (x : Nat) (a : Word64) : Op Nat := do
  match classify a with
  | .hole => fetchTrap cACCESS a
  | _ => do
    let l ← fetchLine x (a.toNat / 4096)
    pure (ofBytes ((upTo 4).map fun i => fget unwritten l.bytes (a.toNat % 4096 + i)))

/-- A word of a bundle's slot: the slot, its first word, its extension word (0 where there is none), and the instruction,
where the slot word is legal. -/
structure SlotWord where
  slot : Nat
  w : Nat
  ext : Nat
  instr : Option Instr
deriving DecidableEq, Repr

/-- A decoded bundle (R111, R128). -/
structure Bundle where
  pc : Word64
  hdr : Nat
  slots : List SlotWord
  next : Word64
deriving DecidableEq, Repr

def Bundle.rep (b : Bundle) : Nat := fld b.hdr 18 15
def Bundle.k (b : Bundle) : Bool := bitAt b.hdr 14
def Bundle.group (b : Bundle) : Nat := fld b.hdr 13 12
def Bundle.e (b : Bundle) : Bool := bitAt b.hdr 11
def Bundle.y (b : Bundle) : Bool := bitAt b.hdr 10

/-- The word is a header (R111, R124). -/
def isHeaderWord (w : Nat) : Bool := fld w 31 28 == 0xF

/-- The slots of a presence mask, lowest first. -/
def slotsOf (hdr : Nat) : List Nat := (upTo 9).filter fun i => bitAt hdr (27 - i)

/-- Fetch the words of the slots in order, from an address on; the address after them. -/
def fetchSlots (x : Nat) : List Nat → Word64 → Op (List SlotWord × Word64)
  | [], a => pure ([], a)
  | i :: is, a => do
    let w ← fetchWord x a
    if i == 1 || i == 2 || bitAt w 27 then do
      let e ← fetchWord x (a + 4)
      let r ← fetchSlots x is (a + 8)
      pure ({ slot := i, w := w, ext := e,
              instr := if bitAt w 27 then decodeSlot i w e else none } :: r.1, r.2)
    else do
      let r ← fetchSlots x is (a + 4)
      pure ({ slot := i, w := w, ext := 0, instr := decodeSlot i w 0 } :: r.1, r.2)

/-- Fetch and decode the bundle at an address (R124, R128). `jumped` says that the address was reached by a branch, so that
what stands there is BADTARGET where it is no header (R124); otherwise, as at a task's ENTRY and at tv, it is ILLEGAL (R128,
R131). DESIGN CHOICE (log 19): an ENTRY or a tv that is not 4-byte aligned names no word, and is BADTARGET. -/
def fetchBundle (x : Nat) (pc : Word64) (jumped : Bool) : Op Bundle := do
  if pc.toNat % 4 != 0 then fetchTrap cBADTARGET pc
  else do
    let h ← fetchWord x pc
    if !isHeaderWord h && jumped then fetchTrap cBADTARGET pc
    else if !isHeaderWord h || fld h 13 12 == 3 || fld h 9 0 != 0 then
      throw (.trap { cause := cILLEGAL, info := n64 h, slotField := 0xF, deferred := false, tpc := pc, slotRes := 0,
                     repLeft := fld h 18 15 })
    else do
      let r ← fetchSlots x (slotsOf h) (pc + 4)
      pure { pc := pc, hdr := h, slots := r.1, next := r.2 }

end Sys2Proof.Machine
end

