-- ==== Sys2Proof/Machine/EndOps.lean ====
section
/-! DEFINITION. Machine/EndOps.lean: what atomics, barrier operations and task operations do when they perform with their issue
(R98, R126, R146 to R150, R153, R154). -/

namespace Sys2Proof.Machine

/-! ### Values on their way (R135) -/

/-- Send a value to a register of the issuing context (R135). -/
def sendValue (a : Arrival) : Op Unit := modC fun c => { c with arrivals := c.arrivals ++ [a] }

/-! ### Atomics -/

/-- The FP format of ATFADD's selector (R149). -/
def addFmt (sel : Nat) : Fmt := if sel % 4 == 0 then fp32 else if sel % 4 == 1 then bf16 else fp16

/-- The FP format of ATADDS's selector (R150). -/
def addsFmt (b : Word64) : Fmt := if fld b.toNat 9 8 == 0 then fp32 else bf16

/-- The bytes of an atomic's unit. -/
def AtomicKind.size (kind : AtomicKind) (b : Word64) : Nat :=
  match kind with
  | .fadd _ => (addFmt b.toNat).bits / 8
  | .adds => (addsFmt b).bits / 8
  | _ => 8

/-- The new value of an integer atomic (R147, R148); none where nothing is written. -/
def AtomicKind.new (kind : AtomicKind) (old a b : Word64) : Option Word64 :=
  match kind with
  | .add => some (old + a)
  | .sub => some (old - a)
  | .and => some (old &&& a)
  | .or => some (old ||| a)
  | .xor => some (old ^^^ a)
  | .min => some (if a.toInt < old.toInt then a else old)
  | .max => some (if a.toInt > old.toInt then a else old)
  | .swap => some a
  | .cas => if old == a then some b else none
  | .fadd _ => none
  | .adds => none

/-- A memory-side add (R81, R98, R149): the exact sum rounded once, RNE or, for BF16 with SR, by round_sr with 16 random bits. -/
def fpAdd (f : Fmt) (old operand : FVal) (sr : Option Nat) : Nat :=
  match sr, old, operand with
  | some r, .fin n1 m1 e1, .fin n2 m2 e2 =>
    let (n, m, e) := addFin RNE n1 m1 e1 n2 m2 e2
    f.roundSr n m e r
  | _, _, _ => (f.add false RNE old operand).1

/-- Round RNE with overflow to the largest finite value of the sign (R150); whether that happened. -/
def roundClamp (f : Fmt) (v : FVal) : Nat × Bool :=
  match v with
  | .fin n m e =>
    let r := f.round RNE n m e false
    if r.2 &&& OF != 0 then (f.signed n f.maxCode, true) else (r.1, false)
  | .inf n => (f.infinity n, false)
  | .nan _ => (f.nanCode, false)

/-- The scaled add of R150: the new tag, the new element, and whether OVF is set. -/
def scaledAdd (f : Fmt) (tag tIn : Int) (old operand : FVal) : Nat × Bool :=
  let y := roundClamp f (operand.scale (tag - tIn))
  match old, f.val y.1 with
  | .fin n1 m1 e1, .fin n2 m2 e2 =>
    let (n, m, e) := addFin RNE n1 m1 e1 n2 m2 e2
    let r := roundClamp f (.fin n m e)
    (r.1, y.2 || r.2)
  | a, b => ((f.add false RNE a b).1, y.2)

/-- The scale tag of UNSET (R150). -/
def tagUnset : BitVec 9 := 0x80

/-- The marks of a chunk of vault or HBM (R150). -/
def State.tag (s : State) (pa : Nat) : BitVec 9 := fget tagUnset s.tags (pa / 512)

def State.setTag (s : State) (pa : Nat) (v : BitVec 9) : State := { s with tags := fset tagUnset s.tags (pa / 512) v }

/-- Update a unit in memory; the new value is none where nothing is written. -/
def State.atomicAt (s : State) (kind : AtomicKind) (pa : Nat) (a b : Word64) (r : Nat) (mapped : Bool) : State :=
  let n := kind.size b
  let old := s.memN pa n
  let put := fun (s : State) (v : Nat) => if mapped then s.writeMapped pa (toBytes n v) else s.write pa (toBytes n v)
  match kind with
  | .fadd sr =>
    let f := addFmt b.toNat
    put s (fpAdd f (f.val old) (f.val a.toNat) (if sr && b.toNat % 4 == 1 then some r else none))
  | .adds =>
    let f := addsFmt b
    let t := s.tag pa
    let tIn := b.toNat % 256
    let ts := if t.toNat % 256 == 0x80 then tIn else t.toNat % 256
    let res := scaledAdd f (sgn 8 ts) (sgn 8 tIn) (f.val old) (f.val a.toNat)
    put (s.setTag pa (BitVec.ofNat 9 (ts + (if res.2 then 256 else t.toNat / 256 * 256)))) res.1
  | k =>
    match k.new (n64 old) a b with
    | some v => put s v.toNat
    | none => s

/-- A destination that was marked empty for a producer that delivers nothing is full again with its value unchanged. -/
def unwait (d tok : Nat) : Op Unit :=
  modL fun l => if fget? l.sWait d == some tok then { l with sWait := fdel l.sWait d } else l

/-- The memory-side adders serve vault and HBM only (R149, R150). -/
def AtomicKind.adder : AtomicKind → Bool
  | .fadd _ => true
  | .adds => true
  | _ => false

/-- An atomic performs (R126, R146): its owner accepts it, the unit is updated, and the old value is sent to S[d]. An adder's
target that resolves to a scratchpad window is rejected: ACCESS is deferred, S[d] is full and unchanged (R149). -/
def performAtomic (kind : AtomicKind) (ea a b : Word64) (d tok cls : Nat) : Op Unit := do
  let s ← get
  let x := s.cur.x
  let n := kind.size b
  let p ← locate (s.reqOf x 0 cls) accAtomic (coreOf x) ea
  match p with
  | .here pa =>
    if kind.adder && inScratch (offOf pa) then do
      unwait d tok
      modify fun s => s.deferTrap x { cause := cACCESS, info := ea, slot := 0, tok := 0 }
    else do
      let s ← get
      let old := s.memN pa n
      let bad := s.poisoned pa n
      let r ← (match kind with
        | .fadd true => do
          let k ← nextFree
          pure (Config.randomBits k).toNat
        | _ => pure 0)
      modify fun s => (s.eccRead pa n).atomicAt kind pa a b r (isVirt ea)
      if d == 0 && !bad then pure ()
      else sendValue { tok := tok, isV := false, reg := d, val := BitVec.ofNat 1024 old, poison := bad, pc := s.cur.pc,
                       slot := 0, va := ea, src := 0, cls := cls }
  | .away m pd => do
    let s ← get
    modify fun s => { s with fabricOut := s.fabricOut ++
      [{ modl := m, pdie := pd, asid := s.asidOf x, va := ea, kind := accAtomic, data := toBytes n a.toNat }] }
    let bs ← mapEach (upTo n) fun _ => do
      let k ← nextFree
      pure (Config.remoteByte k)
    sendValue { tok := tok, isV := false, reg := d, val := BitVec.ofNat 1024 (ofBytes bs), poison := false, pc := s.cur.pc,
                slot := 0, va := ea, src := 0, cls := cls }

/-! ### Barriers -/

/-- An arrival or an expected count reaches its barrier (R54 to R56, R153). An arrival to the scratchpad of a gated core is
dropped and reported, and the sender goes on (R56). -/
def performBarrier (ea : Word64) (act : BarrierAct) : Op Unit := do
  let s ← get
  let x := s.cur.x
  let rq := { s.reqOf x 0 0 with src := 9 }
  match act with
  | .arrive _ _ => do
    let _ ← barArrive rq (coreOf x) ea act
    pure ()
  | .expect _ => do
    let p ← locate (s.reqOf x 0 0) accAtomic (coreOf x) ea
    match p with
    | .here pa => modify fun s => s.barAct pa act (isVirt ea)
    | .away m d => modify fun s => { s with fabricOut := s.fabricOut ++
        [{ modl := m, pdie := d, asid := s.asidOf x, va := ea, kind := accAtomic, data := [] }] }

/-! ### Task operations -/

/-- TKPOST performs (R154, R361): the record is read for the context, and then posted into its region. -/
def performPost (record : Word64) : Op Unit := do
  let s ← get
  let x := s.cur.x
  let _ ← readVirt (s.reqOf x 0 0) record 64
  let s ← get
  postRecord (s.ownerDie record) (s.asidOf x) record (s.ctx x).region

/-- TKDONE performs (R154): a record that is RUNNING completes; any other is a duplicate completion (R32). The completion of a record
of another module goes to that module's scheduler. -/
def performDone (record : Word64) (status : Nat) : Op Unit := do
  let s ← get
  let x := s.cur.x
  let run := match s.taskAt (s.asidOf x) record with
    | some t => (match t.state with | .running _ => some t | _ => none)
    | none => none
  if s.ownedAway record then do
    modC fun c => { c with ctl := if c.ctl.tkrec == record then { c.ctl with tkrec := 0 } else c.ctl }
    modify fun s => s.sendAway (s.asidOf x) record fabDONE (toBytes 2 status)
  else match run with
  | some t => do
    modC fun c => { c with ctl := if c.ctl.tkrec == record then { c.ctl with tkrec := 0 } else c.ctl
                           task := if c.task == t.id then 0 else c.task }
    complete t status
  | none => modify fun s => s.dupComp (s.ownerDie record) record

/-- The operation that performs at the end of the issue. -/
def EndOp.perform (o : EndOp) : Op Unit :=
  match o with
  | .atomic kind ea a b d tok cls => performAtomic kind ea a b d tok cls
  | .barrier ea act => performBarrier ea act
  | .post r => performPost r
  | .done r st => performDone r st

end Sys2Proof.Machine
end

