-- ==== Sys2Proof/Machine/Props.lean ====
section
/-! DEFINITION. Machine/Props.lean: what an instruction's word alone tells of an issue: its sticky bit (R114), its tile
predicate (R119), whether it takes a mark before or at the end of its issue (R125), whether it is a store form, and the v
registers it names as destinations (R126). -/

namespace Sys2Proof

/-- The sticky bit of an operation; a hint is never armed (R122). -/
def Instr.sticky (i : Instr) : Bool :=
  match i with
  | .add r => r.sk
  | .sub r => r.sk
  | .mul r => r.sk
  | .mulh r => r.sk
  | .mulhu r => r.sk
  | .div r => r.sk
  | .divu r => r.sk
  | .rem r => r.sk
  | .remu r => r.sk
  | .and r => r.sk
  | .or r => r.sk
  | .xor r => r.sk
  | .andn r => r.sk
  | .shl r => r.sk
  | .shr r => r.sk
  | .sra r => r.sk
  | .min r => r.sk
  | .max r => r.sk
  | .minu r => r.sk
  | .maxu r => r.sk
  | .clz r => r.sk
  | .ctz r => r.sk
  | .popc r => r.sk
  | .mov r => r.sk
  | .bfx r => r.sk
  | .bfi r => r.sk
  | .cmp _ r => r.sk
  | .csel r => r.sk
  | .addImmediate r => r.sk
  | .subImmediate r => r.sk
  | .mulImmediate r => r.sk
  | .andImmediate r => r.sk
  | .orImmediate r => r.sk
  | .xorImmediate r => r.sk
  | .andnImmediate r => r.sk
  | .shlImmediate r => r.sk
  | .shrImmediate r => r.sk
  | .sraImmediate r => r.sk
  | .minImmediate r => r.sk
  | .maxImmediate r => r.sk
  | .minuImmediate r => r.sk
  | .maxuImmediate r => r.sk
  | .cmpImmediate _ r => r.sk
  | .li r => r.sk
  | .lih r => r.sk
  | .la r => r.sk
  | .ldB r => r.sk
  | .ldBu r => r.sk
  | .ldH r => r.sk
  | .ldHu r => r.sk
  | .ldW r => r.sk
  | .ldWu r => r.sk
  | .ldD r => r.sk
  | .stB r => r.sk
  | .stH r => r.sk
  | .stW r => r.sk
  | .stD r => r.sk
  | .atopAdd r => r.sk
  | .atopAnd r => r.sk
  | .atopOr r => r.sk
  | .atopXor r => r.sk
  | .atopMin r => r.sk
  | .atopMax r => r.sk
  | .atopSub r => r.sk
  | .atswp r => r.sk
  | .atcas r => r.sk
  | .atfadd r => r.sk
  | .atadds r => r.sk
  | .vadd r => r.sk
  | .vsub r => r.sk
  | .vmul r => r.sk
  | .vmulh r => r.sk
  | .vmin r => r.sk
  | .vmax r => r.sk
  | .vabs r => r.sk
  | .vand r => r.sk
  | .vor r => r.sk
  | .vxor r => r.sk
  | .vandn r => r.sk
  | .vshl r => r.sk
  | .vshr r => r.sk
  | .vsra r => r.sk
  | .vfadd r => r.sk
  | .vfsub r => r.sk
  | .vfmul r => r.sk
  | .vfma r => r.sk
  | .vfms r => r.sk
  | .vfmin r => r.sk
  | .vfmax r => r.sk
  | .vrcp r => r.sk
  | .vrsq r => r.sk
  | .vexp2 r => r.sk
  | .vlog2 r => r.sk
  | .vcmp _ r => r.sk
  | .vfcmp _ r => r.sk
  | .pand r => r.sk
  | .por r => r.sk
  | .pxor r => r.sk
  | .pnot r => r.sk
  | .ppop r => r.sk
  | .pfirst r => r.sk
  | .vcvt r => r.sk
  | .vsxpack r => r.sk
  | .vsxunpack r => r.sk
  | .vperm r => r.sk
  | .vshuf r => r.sk
  | .vbcast r => r.sk
  | .vmovs r => r.sk
  | .vsel r => r.sk
  | .vcompress r => r.sk
  | .vexpand r => r.sk
  | .vred r => r.sk
  | .vscan r => r.sk
  | .vtopk r => r.sk
  | .vlpmul r => r.sk
  | .vlpadd r => r.sk
  | .vlpmax r => r.sk
  | .vlpdiv r => r.sk
  | .vlpcvt r => r.sk
  | .vlpsplit r => r.sk
  | .vlpjoin r => r.sk
  | .vrand r => r.sk
  | .vld r => r.sk
  | .vst r => r.sk
  | .vlds r => r.sk
  | .vsts r => r.sk
  | .vgath r => r.sk
  | .vscat r => r.sk
  | .vldb r => r.sk
  | .fnext r => r.sk
  | .fskip r => r.sk
  | .fisect r => r.sk
  | .funion r => r.sk
  | .fmerge r => r.sk
  | .fldv r => r.sk
  | .fcrd r => r.sk
  | .femit r => r.sk
  | .fstat r => r.sk
  | .xscale r => r.sk
  | .xexpv r => r.sk
  | .xfix r => r.sk
  | .xcvt r => r.sk
  | .hld r => r.sk
  | .hldExt r _ => r.sk
  | .hst r => r.sk
  | .hstExt r _ => r.sk
  | .hset r => r.sk
  | .aczero r => r.sk
  | .acrd r => r.sk
  | .acrdSt r => r.sk
  | .acwr r => r.sk
  | .mmaBf16 r => r.sk
  | .mmaFp16 r => r.sk
  | .mmaE4m3 r => r.sk
  | .mmaE5m2 r => r.sk
  | .mmaInt8 r => r.sk
  | .mmaSx8 r => r.sk
  | .mmaSx5 r => r.sk
  | .mmaSx3 r => r.sk
  | .mcntInt4 r => r.sk
  | .mcntE2m1 r => r.sk
  | .nmerge r => r.sk
  | .ndump r => r.sk
  | .nload r => r.sk
  | .ndrain r => r.sk
  | .nchk r => r.sk
  | .copy r => r.sk
  | .copyExt r _ => r.sk
  | .copyt r => r.sk
  | .copytExt r _ => r.sk
  | .cgath r => r.sk
  | .cscat r => r.sk
  | .cred r => r.sk
  | .credExt r _ => r.sk
  | .cring r => r.sk
  | .cringExt r _ => r.sk
  | .tevid r => r.sk
  | .tfwd r => r.sk
  | .tfwdExt r _ => r.sk
  | .trev r => r.sk
  | .trevExt r _ => r.sk
  | .tsamp r => r.sk
  | .targm r => r.sk
  | .tratio r => r.sk
  | .twclr r => r.sk
  | .tstat r => r.sk
  | _ => false

/-- The tile predicate that an operation with QE = 1 reads (R119). -/
def Instr.tile (i : Instr) : Option (BitVec 3) :=
  match i with
  | .acalloc r => if r.qe then some r.q else none
  | .acfree r => if r.qe then some r.q else none
  | .acgrant r => if r.qe then some r.q else none
  | .aczero r => if r.qe then some r.q else none
  | .acrd r => if r.qe then some r.q else none
  | .acrdSt r => if r.qe then some r.q else none
  | .acwr r => if r.qe then some r.q else none
  | .mmaBf16 r => if r.qe then some r.q else none
  | .mmaFp16 r => if r.qe then some r.q else none
  | .mmaE4m3 r => if r.qe then some r.q else none
  | .mmaE5m2 r => if r.qe then some r.q else none
  | .mmaInt8 r => if r.qe then some r.q else none
  | .mmaSx8 r => if r.qe then some r.q else none
  | .mmaSx5 r => if r.qe then some r.q else none
  | .mmaSx3 r => if r.qe then some r.q else none
  | .mcntInt4 r => if r.qe then some r.q else none
  | .mcntE2m1 r => if r.qe then some r.q else none
  | .nclr r => if r.qe then some r.q else none
  | .nmerge r => if r.qe then some r.q else none
  | .ndump r => if r.qe then some r.q else none
  | .nload r => if r.qe then some r.q else none
  | .ndrain r => if r.qe then some r.q else none
  | .nchk r => if r.qe then some r.q else none
  | .rgset r => if r.qe then some r.q else none
  | .copy r => if r.qe then some r.q else none
  | .copyExt r _ => if r.qe then some r.q else none
  | .copyt r => if r.qe then some r.q else none
  | .copytExt r _ => if r.qe then some r.q else none
  | .cgath r => if r.qe then some r.q else none
  | .cscat r => if r.qe then some r.q else none
  | .cred r => if r.qe then some r.q else none
  | .credExt r _ => if r.qe then some r.q else none
  | .cring r => if r.qe then some r.q else none
  | .cringExt r _ => if r.qe then some r.q else none
  | .tfwd r => if r.qe then some r.q else none
  | .tfwdExt r _ => if r.qe then some r.q else none
  | .trev r => if r.qe then some r.q else none
  | .trevExt r _ => if r.qe then some r.q else none
  | .tsamp r => if r.qe then some r.q else none
  | .targm r => if r.qe then some r.q else none
  | .tratio r => if r.qe then some r.q else none
  | _ => none

/-- The operation takes a mark before its issue (R125). -/
def Instr.preMark (i : Instr) : Bool :=
  match i with
  | .atopAdd _ => true
  | .atopAnd _ => true
  | .atopOr _ => true
  | .atopXor _ => true
  | .atopMin _ => true
  | .atopMax _ => true
  | .atopSub _ => true
  | .atswp _ => true
  | .atcas _ => true
  | .atfadd _ => true
  | .atadds _ => true
  | .fence _ => true
  | .waitm _ => true
  | .barrive _ => true
  | .barriveExt _ _ => true
  | .bexpect _ => true
  | .bexpectExt _ _ => true
  | .bwait _ => true
  | .bwaitExt _ _ => true
  | .btest _ => true
  | .btestExt _ _ => true
  | .tkget _ => true
  | .tkpost _ => true
  | .tkdone _ => true
  | .trap => true
  | .trapExt _ => true
  | .cwr _ => true
  | .hbeat => true
  | .yield => true
  | .stB r => r.ord == 2
  | .stH r => r.ord == 2
  | .stW r => r.ord == 2
  | .stD r => r.ord == 2
  | _ => false

/-- The issue that performs the operation ends with a mark (R125): an M, C or T operation, an atomic, a barrier or a task
operation; a NOP is no operation. -/
def Instr.endMark (i : Instr) : Bool :=
  match i with
  | .atopAdd _ => true
  | .atopAnd _ => true
  | .atopOr _ => true
  | .atopXor _ => true
  | .atopMin _ => true
  | .atopMax _ => true
  | .atopSub _ => true
  | .atswp _ => true
  | .atcas _ => true
  | .atfadd _ => true
  | .atadds _ => true
  | .barrive _ => true
  | .barriveExt _ _ => true
  | .bexpect _ => true
  | .bexpectExt _ _ => true
  | .bwait _ => true
  | .bwaitExt _ _ => true
  | .btest _ => true
  | .btestExt _ _ => true
  | .tkget _ => true
  | .tkpost _ => true
  | .tkdone _ => true
  | .acalloc _ => true
  | .acfree _ => true
  | .acgrant _ => true
  | .aczero _ => true
  | .acrd _ => true
  | .acrdSt _ => true
  | .acwr _ => true
  | .mmaBf16 _ => true
  | .mmaFp16 _ => true
  | .mmaE4m3 _ => true
  | .mmaE5m2 _ => true
  | .mmaInt8 _ => true
  | .mmaSx8 _ => true
  | .mmaSx5 _ => true
  | .mmaSx3 _ => true
  | .mcntInt4 _ => true
  | .mcntE2m1 _ => true
  | .nclr _ => true
  | .nmerge _ => true
  | .ndump _ => true
  | .nload _ => true
  | .ndrain _ => true
  | .nchk _ => true
  | .rgset _ => true
  | .copy _ => true
  | .copyExt _ _ => true
  | .copyt _ => true
  | .copytExt _ _ => true
  | .cgath _ => true
  | .cscat _ => true
  | .cred _ => true
  | .credExt _ _ => true
  | .cring _ => true
  | .cringExt _ _ => true
  | .cwait _ => true
  | .ctest _ => true
  | .publish _ => true
  | .upd _ => true
  | .tmode _ => true
  | .tevid _ => true
  | .tseed _ => true
  | .tfwd _ => true
  | .tfwdExt _ _ => true
  | .trev _ => true
  | .trevExt _ _ => true
  | .tsamp _ => true
  | .targm _ => true
  | .tratio _ => true
  | .twclr _ => true
  | .tstat _ => true
  | _ => false

/-- A store form, which takes one entry of the store gate (R126). -/
def Instr.isStore (i : Instr) : Bool :=
  match i with
  | .stB _ => true
  | .stH _ => true
  | .stW _ => true
  | .stD _ => true
  | .vst _ => true
  | .vsts _ => true
  | .vscat _ => true
  | .hst _ => true
  | .hstExt _ _ => true
  | .femit _ => true
  | .fmerge _ => true
  | .fsave _ => true
  | _ => false

/-- The v registers that an operation names as destinations (R126). -/
def Instr.vDests (i : Instr) : List Nat :=
  match i with
  | .vadd r => [r.d.toNat]
  | .vsub r => [r.d.toNat]
  | .vmul r => [r.d.toNat]
  | .vmulh r => [r.d.toNat]
  | .vmin r => [r.d.toNat]
  | .vmax r => [r.d.toNat]
  | .vabs r => [r.d.toNat]
  | .vand r => [r.d.toNat]
  | .vor r => [r.d.toNat]
  | .vxor r => [r.d.toNat]
  | .vandn r => [r.d.toNat]
  | .vshl r => [r.d.toNat]
  | .vshr r => [r.d.toNat]
  | .vsra r => [r.d.toNat]
  | .vfadd r => [r.d.toNat]
  | .vfsub r => [r.d.toNat]
  | .vfmul r => [r.d.toNat]
  | .vfma r => [r.d.toNat]
  | .vfms r => [r.d.toNat]
  | .vfmin r => [r.d.toNat]
  | .vfmax r => [r.d.toNat]
  | .vrcp r => [r.d.toNat]
  | .vrsq r => [r.d.toNat]
  | .vexp2 r => [r.d.toNat]
  | .vlog2 r => [r.d.toNat]
  | .vcvt r => [r.d.toNat]
  | .vsxpack r => [r.d.toNat]
  | .vsxunpack r => [r.d.toNat]
  | .vperm r => [r.d.toNat]
  | .vshuf r => [r.d.toNat]
  | .vbcast r => [r.d.toNat]
  | .vmovs r => if r.sub.getLsbD 0 then [] else [r.d.toNat]
  | .vsel r => [r.d.toNat]
  | .vcompress r => [r.d.toNat]
  | .vexpand r => [r.d.toNat]
  | .vred r => [r.d.toNat]
  | .vscan r => [r.d.toNat]
  | .vtopk r => [r.d.toNat, r.d.toNat + 1]
  | .vlpmul r => [r.d.toNat]
  | .vlpadd r => [r.d.toNat]
  | .vlpmax r => [r.d.toNat]
  | .vlpdiv r => [r.d.toNat]
  | .vlpcvt r => [r.d.toNat]
  | .vlpsplit r => [r.d.toNat, r.c.toNat]
  | .vlpjoin r => [r.d.toNat]
  | .vrand r => [r.d.toNat]
  | .vld r => [r.v.toNat]
  | .vlds r => [r.v.toNat]
  | .vgath r => [r.v.toNat]
  | .vldb r => [r.v.toNat]
  | .fldv r => [r.vd.toNat]
  | .fcrd r => [r.vd.toNat]
  | .acrd r => [r.vd.toNat]
  | _ => []

end Sys2Proof
end

