-- ==== Sys2Proof/Machine/Operands.lean ====
section
/-! DEFINITION. Machine/Operands.lean: the operand forms: reading and writing registers, empty registers and tokens (R120, R121,
R133, R135), effective addresses (R122, R134), the store gate as a load sees it, and loads (R85, R126, R145). -/

namespace Sys2Proof.Machine

/-! ### Reading registers -/

/-- The value of s_r in a live part; s0 reads as zero (R16, R120). -/
def Live.sv (l : Live) (r : BitVec 6) : Word64 := if r = 0 then 0 else fget 0 l.s r.toNat

/-- The value of v_r in a live part. -/
def Live.vv (l : Live) (r : BitVec 9) : VReg := fget 0 l.v r.toNat

/-- The value of p_r in a live part; p0 is all ones (R16). -/
def Live.pv (l : Live) (r : BitVec 4) : PReg := if r = 0 then BitVec.allOnes 128 else fget 0 l.p r.toNat

/-- The record of h_r in a live part. -/
def Live.hv (l : Live) (r : BitVec 3) : HReg := fget 0 l.h r.toNat

/-- The value of s_r at the start of the issue (R121, R133). -/
def Cursor.s (c : Cursor) (r : BitVec 6) : Word64 := c.src.sv r

/-- The value of v_r at the start of the issue. -/
def Cursor.v (c : Cursor) (r : BitVec 9) : VReg := c.src.vv r

/-- The value of p_r at the start of the issue. -/
def Cursor.p (c : Cursor) (r : BitVec 4) : PReg := c.src.pv r

/-- The value of h_r at the start of the issue. -/
def Cursor.h (c : Cursor) (r : BitVec 3) : HReg := c.src.hv r

/-- The value of q_r as it stands (R119, R157). -/
def Live.qv (l : Live) (r : BitVec 3) : Word64 := fget (BitVec.allOnes 64) l.q r.toNat

/-- A source operand: whether it is a v register, its number and its W bit. -/
abbrev Source := Bool × Nat × Bool

/-- A scalar source and a vector source. -/
def srcS (r : BitVec 6) (w : Bool) : Source := (false, r.toNat, w)
def srcV (r : BitVec 9) (w : Bool) : Source := (true, r.toNat, w)

/-- The register of a source is empty. -/
def Live.isEmpty (l : Live) (s : Source) : Bool := if s.1 then fhas l.vWait s.2.1 else fhas l.sWait s.2.1

/-- Require the sources of an operation (R121, R133): an empty one with W = 0 blocks, and then an empty one with W = 1 raises
EMPTY. -/
def need (l : List Source) : Op Unit := do
  let s ← get
  match l.find? fun r => !r.2.2 && s.cur.src.isEmpty r with
  | some r => throw (.block (.empty r.1 r.2.1))
  | none =>
    match l.find? fun r => s.cur.src.isEmpty r with
    | some r => trapAt cEMPTY (n64 (r.2.1 + 1024 * b2n r.1))
    | none => pure ()

/-- The value of a scalar source. -/
def getS (r : BitVec 6) : Op Word64 := do
  let s ← get
  pure (s.cur.s r)

/-- The value of a vector source. -/
def getV (r : BitVec 9) : Op VReg := do
  let s ← get
  pure (s.cur.v r)

/-- The value of a predicate register. -/
def getP (r : BitVec 4) : Op PReg := do
  let s ← get
  pure (s.cur.p r)

/-! ### Writing registers -/

/-- Write s_r in a live part and set it full; s0 discards (R120, R121). -/
def Live.putS (l : Live) (r : BitVec 6) (v : Word64) : Live :=
  if r = 0 then l else { l with s := fset 0 l.s r.toNat v, sWait := fdel l.sWait r.toNat }

/-- Write v_r and set it full. -/
def Live.putV (l : Live) (r : BitVec 9) (v : VReg) : Live :=
  { l with v := fset 0 l.v r.toNat v, vWait := fdel l.vWait r.toNat }

/-- Write p_r; p0 discards (R120). -/
def Live.putP (l : Live) (r : BitVec 4) (v : PReg) : Live :=
  if r = 0 then l else { l with p := fset 0 l.p r.toNat v }

/-- Write q_r. -/
def Live.putQ (l : Live) (r : Nat) (v : Word64) : Live := { l with q := fset (BitVec.allOnes 64) l.q r v }

/-- Write h_r. -/
def Live.putH (l : Live) (r : Nat) (v : HReg) : Live := { l with h := fset 0 l.h r v }

/-- Count a v register among those written since the mark (R126). -/
def Ctx.touchV (c : Ctx) (r : Nat) : Ctx := if c.vSince.contains r then c else { c with vSince := c.vSince ++ [r] }

def writeS (r : BitVec 6) (v : Word64) : Op Unit := modL fun l => l.putS r v
def writeV (r : BitVec 9) (v : VReg) : Op Unit := modC fun c => { c with live := c.live.putV r v }.touchV r.toNat
def writeP (r : BitVec 4) (v : PReg) : Op Unit := modL fun l => l.putP r v

/-- Mark a register empty for a long-latency producer and give the producer its token (R120, R135); s0 stays full. -/
def markEmpty (isV : Bool) (r : Nat) : Op Nat := do
  let s ← get
  let tok := s.cctx.tokNext
  modC fun c =>
    let l := c.live
    let c := { c with tokNext := tok + 1 }
    if isV then { c with live := { l with vWait := fput l.vWait r tok } }.touchV r
    else if r == 0 then c else { c with live := { l with sWait := fput l.sWait r tok } }
  pure tok

/-- A value reaches the register that waits for it in a live part; one that no register waits for is dropped (R121, R135). -/
def Live.arrive (l : Live) (a : Arrival) : Live :=
  if a.isV then
    if fget? l.vWait a.reg == some a.tok then
      { l with v := fset 0 l.v a.reg a.val, vWait := fdel l.vWait a.reg }
    else l
  else if fget? l.sWait a.reg == some a.tok then
    { l with s := fset 0 l.s a.reg (a.val.truncate 64), sWait := fdel l.sWait a.reg }
  else l

/-! ### Addresses -/

/-- base + displacement + k x stride in 64 bits (R122, R134). -/
def effAddr (base disp stride : Word64) (k : Nat) : Word64 := base + disp + n64 k * stride

/-- An address in the hole above the scratchpad raises ACCESS (R134). -/
def checkHole (ea : Word64) : Op Unit :=
  match classify ea with
  | .hole => trapAt cACCESS ea
  | _ => pure ()

/-- An address that is not a multiple of n raises ALIGN. -/
def checkAlign (ea : Word64) (n : Nat) : Op Unit := if ea.toNat % n != 0 then trapAt cALIGN ea else pure ()

/-! ### The store gate and loads -/

/-- A byte of a gate entry, the later writes first, with whether its word carries a poison mark. -/
def GateEnt.byte (g : GateEnt) (a : Word64) : Option (Byte × Bool) :=
  (g.writes.reverse.findSome? fun (ea, bs) =>
    let d := (a - ea).toNat
    if d < bs.length then bs[d]? else none).map fun b => (b, g.poison.contains (a - n64 (a.toNat % 8)))

/-- The byte of the context's own gated stores at an address (R85): the youngest entry that holds it. -/
def gateByte (gate : List GateEnt) (a : Word64) : Option (Byte × Bool) := gate.reverse.findSome? (·.byte a)

/-- Bytes as a context reads them (R85, R145): those held in its gate from there, the rest from memory; whether some are
uncorrectable. The bytes lie in one page. -/
def loadFor (x src cls : Nat) (ea : Word64) (n : Nat) : Op (List Byte × Bool) := do
  let s ← get
  let held := (upTo n).map fun i => gateByte (s.ctx x).gate (ea + n64 i)
  if held.all (·.isSome) then pure (held.map fun h => (h.getD (0, false)).1, held.any fun h => (h.getD (0, false)).2)
  else do
    let r ← readEa (s.reqOf x src cls) (coreOf x) ea n
    pure ((held.zip r.1).map fun (h, b) => (h.getD (b, false)).1, r.2 || held.any fun h => (h.getD (0, false)).2)

/-- Bytes as the issuing context reads them. -/
def loadBytes (src cls : Nat) (ea : Word64) (n : Nat) : Op (List Byte × Bool) := do
  let s ← get
  loadFor s.cur.x src cls ea n

/-- Put an operation's writes into the store gate as one entry (R126). -/
def gateStore (src cls : Nat) (writes : List (Word64 × List Byte)) : Op Unit := do
  let s ← get
  let e : GateEnt := { id := s.nextId, src := src, cls := cls, writes := writes, poison := [], hst := none, ready := true,
                       time := s.time }
  set { s with nextId := s.nextId + 1 }
  modC fun c => { c with gate := c.gate ++ [e] }

end Sys2Proof.Machine
end

