-- ==== Sys2Proof/Machine/Flags.lean ====
section
/-! DEFINITION. Machine/Flags.lean: the status word's rounding mode, sticky flags and trap enables (R47), and the raising of FP
flags (R67). -/

namespace Sys2Proof.Machine

/-- sw.RM. -/
def swRM (sw : Word64) : Nat := fld sw.toNat 1 0

/-- sw.FEN, in the order NV 16, DZ 8, OF 4, UF 2, NX 1. -/
def swFEN (sw : Word64) : Nat := fld sw.toNat 12 8

/-- OR flags into sw.FLAG. -/
def swRaise (sw : Word64) (flags : Nat) : Word64 := sw ||| n64 (flags % 32 * 2 ^ 3)

/-- The rounding mode in force. -/
def getRM : Op Nat := do
  let s ← get
  pure (swRM s.cctx.live.sw)

/-- Raise the flags of an operation (R67): they are ORed into sw.FLAG; where one is enabled, FPX is taken and nothing is
written, otherwise the result is. -/
def raiseFlags (flags : Nat) (write : Op Unit) : Op Unit := do
  let s ← get
  modL fun l => { l with sw := swRaise l.sw flags }
  if flags &&& swFEN s.cctx.live.sw != 0 then trapAt cFPX (n64 flags) else write

end Sys2Proof.Machine
end

