-- ==== Sys2Proof/Machine/FibreQueue.lean ====
section
/-! DEFINITION. Machine/FibreQueue.lean: the fibre queue (R260): the value reads of FLDV, the deliveries of FCRD, FSTAT and FSAVE,
and the emissions of FEMIT and FMERGE (R267 to R271), performed in issue order for a context. -/

namespace Sys2Proof.Machine

/-! ### Stream registers as data -/

/-- State codes (R258). -/
def fCLOSED : BitVec 3 := 0
def fIN : BitVec 3 := 1
def fOUT : BitVec 3 := 2
def fISECT : BitVec 3 := 3
def fUNION : BitVec 3 := 4
def fHELD : BitVec 3 := 5

/-- A stream register. -/
def Live.stream (l : Live) (f : Nat) : Stream := fget Stream.closed l.f f

/-- Set a stream register. -/
def Live.putStream (l : Live) (f : Nat) (v : Stream) : Live := { l with f := fset Stream.closed l.f f v }

/-- A joint stream. -/
def Stream.joint (v : Stream) : Bool := v.state == fISECT || v.state == fUNION

/-- The 64-byte image of a register (R262). -/
def Stream.image (v : Stream) : List Byte :=
  toBytes 8 v.desc.toNat ++ toBytes 1 v.state.toNat ++
    toBytes 1 (b2n v.atEnd + 2 * b2n v.px + 4 * b2n v.py + 8 * b2n v.escw + 16 * b2n v.bad + 32 * v.cond.toNat) ++
    toBytes 1 v.kind.toNat ++ toBytes 1 (v.x.toNat + 16 * v.y.toNat) ++ toBytes 4 v.extent.toNat ++
    toBytes 4 v.segment.toNat ++ toBytes 4 v.entry.toNat ++ toBytes 4 v.hi.toNat ++ toBytes 4 v.coord.toNat ++
    toBytes 4 v.byte.toNat ++ toBytes 4 v.bend.toNat ++ toBytes 8 v.vbase.toNat ++ toBytes 4 v.count.toNat ++
    toBytes 4 v.offered.toNat ++ List.replicate 8 0

/-- The status word of FSTAT (R270). -/
def Stream.status (v : Stream) : Nat :=
  let px := v.state == fIN || v.state == fISECT || (v.state == fUNION && v.px)
  b2n px + 2 * b2n (v.state == fOUT && v.escw) + 4 * b2n (v.state == fUNION && v.px && v.py) + 8 * b2n v.atEnd +
    16 * b2n v.bad + 32 * (if v.bad then v.cond.toNat else 0) +
    (if v.joint then 2 ^ 8 * v.x.toNat + 2 ^ 12 * v.y.toNat else 0) + 2 ^ 16 * v.state.toNat

/-- The value that FSTAT delivers (R270). -/
def Live.fstat (l : Live) (f sel : Nat) : Nat :=
  let v := l.stream f
  match sel with
  | 0 => v.status
  | 1 => if v.state == fCLOSED then 0 else v.coord.toNat
  | 2 => if v.state == fCLOSED then 0 else if v.joint then (l.stream v.x.toNat).entry.toNat else v.entry.toNat
  | 3 => if v.state == fCLOSED then 0 else v.count.toNat
  | 4 => if v.state == fCLOSED then 0 else v.byte.toNat
  | _ => if v.joint then (l.stream v.y.toNat).entry.toNat else 0

/-- `none` of COORD and OFFERED (R262). -/
def fNone : BitVec 32 := 0xFFFFFFFF

/-- Append an entry to an OUT stream (R268): the writes of its position bytes and of its value of n bytes. -/
def Stream.emit (v : Stream) (pos : Word64) (n c val : Nat) : Stream × List (Word64 × List Byte) :=
  let delta : Int := if v.coord == fNone then c else (c : Int) - v.coord.toNat
  let bytes := if delta ≤ 254 then toBytes 1 (wrapN 8 delta) else 0xFF :: toBytes 4 (wrapN 32 delta)
  let a := pos + v.byte.zeroExtend 64
  let va := v.vbase + n64 (n * v.entry.toNat)
  ({ v with byte := v.byte + BitVec.ofNat 32 bytes.length, escw := v.escw || delta > 254, entry := v.entry + 1,
            coord := BitVec.ofNat 32 c, count := v.count + 1 },
   [(a, bytes), (va, toBytes n val)])

/-- Change a context's live part. -/
def modLive (x : Nat) (f : Live → Live) : Op Unit := modify fun s => s.modCtx x fun c => { c with live := f c.live }

/-- Fill the gate entry that an operation reserved (R261, R271). -/
def fillGate (x id : Nat) (writes : List (Word64 × List Byte)) (poison : List Word64) : Op Unit :=
  modify fun s => s.modCtx x fun c =>
    { c with gate := c.gate.map fun g => if g.id == id then { g with writes := writes, poison := poison, ready := true } else g }

/-- Send a value to a register of a context. -/
def sendTo (x : Nat) (a : Arrival) : Op Unit := modify fun s => s.modCtx x fun c => { c with arrivals := c.arrivals ++ [a] }

/-! ### Values -/

/-- A value of an n-byte element read for a fibre operation (R261: class 0), and whether it is uncorrectable. -/
def fibreRead (x : Nat) (a : Word64) (n : Nat) : Op (Nat × Bool) := do
  let r ← loadFor x 2 0 a n
  pure (ofBytes r.1, r.2)

/-- The format of FMERGE's fmt field where it is a floating-point one (R263). -/
def mergeFmt (f : Nat) : Option Fmt := if f == 0 then some fp32 else if f == 2 then some fp16 else if f == 3 then some bf16 else none

/-- The element bytes of FMERGE (R269). -/
def mergeBytes (f : Nat) : Nat := if f ≤ 1 then 4 else 2

/-- The merged value of an element (R269), with its flags. -/
def mergeValue (f rm : Nat) (a b : Option Nat) : Flagged :=
  match mergeFmt f with
  | none =>
    match a, b with
    | some u, some v => ((u + v) % 2 ^ 32, 0)
    | some u, none => (u, 0)
    | none, some v => (v, 0)
    | none, none => (0, 0)
  | some t =>
    match a, b with
    | some u, some v => t.add false rm (t.val u) (t.val v)
    | some u, none => if (t.val u).isNan then t.qnan (t.val u).isSig else (u, 0)
    | none, some v => if (t.val v).isNan then t.qnan (t.val v).isSig else (v, 0)
    | none, none => (0, 0)

/-- A merged value that Z drops (R269): a zero of either sign. -/
def mergeZero (f v : Nat) : Bool :=
  match mergeFmt f with
  | none => v == 0
  | some t => v % 2 ^ (t.bits - 1) == 0

/-- One side of a union element, read where present. -/
def mergeSide (x : Nat) (base : Word64) (n : Nat) (e : Option Nat) : Op (Option Nat × Bool) :=
  match e with
  | none => pure (none, false)
  | some i => do
    let r ← fibreRead x (base + n64 (n * i)) n
    pure (some r.1, r.2)

/-- What the emissions of an operation have built up: the stream, the writes, the words to poison, and the flags. -/
structure Emitting where
  out : Stream
  writes : List (Word64 × List Byte)
  poison : List Word64
  flags : Nat
  bad : Bool

/-- The address of the 8-byte word that holds a byte. -/
def wordAt (a : Word64) : Word64 := a - n64 (a.toNat % 8)

/-- Merge and emit the elements in order. -/
def mergeAll (x : Nat) (f n rm : Nat) (z : Bool) (pos a b : Word64) : List MergeElem → Emitting → Op Emitting
  | [], acc => pure acc
  | e :: es, acc => do
    let u ← mergeSide x a n e.ex
    let v ← mergeSide x b n e.ey
    let r := mergeValue f rm u.1 v.1
    let bad := u.2 || v.2
    let acc := { acc with flags := acc.flags ||| r.2, bad := acc.bad || bad }
    if z && mergeZero f r.1 then mergeAll x f n rm z pos a b es acc
    else
      let o := acc.out.emit pos n e.coord r.1
      let va := acc.out.vbase + n64 (n * acc.out.entry.toNat)
      let ps := if bad then [wordAt va, wordAt (va + n64 (n - 1))] else []
      mergeAll x f n rm z pos a b es { acc with out := o.1, writes := acc.writes ++ o.2, poison := acc.poison ++ ps }

/-- The first byte of a write that lies in the hole above the scratchpad. -/
def firstHole (w : Word64 × List Byte) : Option Word64 :=
  ((upTo w.2.length).map fun i => w.1 + n64 i).find? fun a => classify a == .hole

/-- Raise a deferred trap for what a fibre operation has met. It takes a token of its own, as a value would, so that a rollback to a
mark before it discards it (R90, R127). -/
def fibreTrap (x cause : Nat) (info : Word64) : Op Unit := do
  let tok := ((← get).ctx x).tokNext
  modify fun s => (s.modCtx x fun c => { c with tokNext := tok + 1 }).deferTrap x
    { cause := cause, info := info, slot := 3, tok := tok }

/-- Writes of which a byte lies in the hole above the scratchpad are not made: ACCESS is deferred (R134; log 27). -/
def dropHoles (x : Nat) (writes : List (Word64 × List Byte)) : Op (List (Word64 × List Byte)) := do
  match writes.findSome? firstHole with
  | none => pure writes
  | some a => do
    fibreTrap x cACCESS a
    pure (writes.filter fun w => (firstHole w).isNone)

/-- A value read as zero or as an n-byte element at each address given, for up to 32 lanes (R267). -/
def laneReads (x n : Nat) : List (Option Word64) → Op (List (Nat × Bool))
  | [] => pure []
  | e :: es => do
    let v ← (match e with
      | none => pure (0, false)
      | some a => fibreRead x a n)
    let vs ← laneReads x n es
    pure (v :: vs)

/-- Lanes of n bytes, lowest first, as a register; lanes not given are zero. -/
def laneReg (n : Nat) (l : List Nat) : VReg := BitVec.ofNat 1024 (ofBytes (l.flatMap (toBytes n)))

/-- Perform a queued fibre operation (R260). -/
def FOp.perform (o : FOp) (x : Nat) (pc : Word64) : Op Unit :=
  match o with
  | .fldv tok vd n elems => do
    let vs ← laneReads x n elems
    sendTo x { tok := tok, isV := true, reg := vd, val := laneReg n (vs.map (·.1)), poison := vs.any (·.2), pc := pc, slot := 3,
               va := pc, src := 2, cls := 0 }
  | .fcrd tok vd val =>
    sendTo x { tok := tok, isV := true, reg := vd, val := val, poison := false, pc := pc, slot := 3, va := pc, src := 2,
               cls := 0 }
  | .femit f n pos elems gate => do
    let s ← get
    let r := elems.foldl (fun (acc : Stream × List (Word64 × List Byte)) e =>
      let o := acc.1.emit pos n e.1 e.2
      (o.1, acc.2 ++ o.2)) ((s.ctx x).live.stream f, [])
    modLive x fun l => l.putStream f r.1
    let ws ← dropHoles x r.2
    fillGate x gate ws []
  | .fmerge f fmt pos z elems a b rm gate => do
    let s ← get
    let r ← mergeAll x fmt (mergeBytes fmt) rm z pos a b elems
      { out := (s.ctx x).live.stream f, writes := [], poison := [], flags := 0, bad := false }
    modLive x fun l => { l.putStream f r.out with sw := swRaise l.sw r.flags }
    let ws ← dropHoles x r.writes
    fillGate x gate ws r.poison
    if r.bad then fibreTrap x cPOISON pc else pure ()
  | .fstat tok sd f sel => do
    let s ← get
    sendTo x { tok := tok, isV := false, reg := sd, val := BitVec.ofNat 1024 ((s.ctx x).live.fstat f sel), poison := false,
               pc := pc, slot := 3, va := pc, src := 2, cls := 0 }
  | .fsave f ea gate => do
    let s ← get
    fillGate x gate [(ea, ((s.ctx x).live.stream f).image)] []

/-- Perform a context's queued fibre operations in order; each leaves the queue as it performs. -/
def performFibres (x : Nat) : List FCmd → Op Unit
  | [] => pure ()
  | c :: cs => do
    modify fun s => s.modCore (coreOf x) fun k => { k with fq := k.fq.erase c }
    c.op.perform x c.pc
    performFibres x cs

/-- Let the fibre unit perform everything that a context has queued. -/
def drainFibre (x : Nat) : Op Unit := do
  let s ← get
  performFibres x ((s.core (coreOf x)).fq.filter (·.x == x))

end Sys2Proof.Machine
end

