-- ==== Sys2Proof/Machine/Optim.lean ====
section
/-! DEFINITION. Machine/Optim.lean: the optimiser descriptor of an UPD (R227, R228): its fields, the chunks it owns, and the planes
it names. -/

namespace Sys2Proof.Machine

/-- The fields of a descriptor. -/
structure Optim where
  kind : Nat
  layout : Nat
  gfmt : Nat
  zg : Bool
  shards : Nat
  self : Nat
  phase : Nat
  steps : Nat
  lr : Nat
  b1 : Nat
  b2 : Nat
  eps : Nat
  wd : Nat
  clip : Nat
  norm : Word64
  grad : Word64
  ext : Word64
  mom : Word64
  var : Word64
  status : Word64
deriving DecidableEq, Repr

/-- The descriptor that 128 bytes hold. -/
def optimOf (bs : List Byte) : Optim :=
  let f := fun off n => recFld bs off n
  { kind := f 0 1, layout := f 1 1, gfmt := f 2 1, zg := f 3 1 % 2 == 1, shards := f 4 2, self := f 6 2, phase := f 8 4
    steps := f 0xC 4, lr := f 0x10 4, b1 := f 0x14 4, b2 := f 0x18 4, eps := f 0x1C 4, wd := f 0x20 4, clip := f 0x24 4
    norm := n64 (f 0x28 8), grad := n64 (f 0x30 8), ext := n64 (f 0x38 8), mom := n64 (f 0x40 8), var := n64 (f 0x48 8)
    status := n64 (f 0x50 8) }

/-- A malformed descriptor (R226). -/
def Optim.malformed (o : Optim) (fmt : Nat) : Bool :=
  o.kind > 1 || o.layout > 1 || o.self ≥ o.shards || fmt != (if o.layout == 0 then 0x03 else 0x01)

/-- Chunk q of the weights is owned (R228). -/
def Optim.owns (o : Optim) (q : Nat) : Bool :=
  o.layout == 0 || q * 0x9E3779B1 % 2 ^ 32 * o.shards / 2 ^ 32 == o.self

/-- Bytes of a weight, and of a gradient element. -/
def Optim.wBytes (o : Optim) : Nat := if o.layout == 0 then 2 else 4
def Optim.gBytes (o : Optim) : Nat := if o.gfmt == 0 then 4 else 2

/-- The first element of chunk q, and how many elements it has, for a weight record of `size` bytes. -/
def Optim.first (o : Optim) (q : Nat) : Nat := 512 * q / o.wBytes
def Optim.count (o : Optim) (q size : Nat) : Nat := min 512 (size - 512 * q) / o.wBytes

/-- The state index of the first element of chunk q (R228). -/
def Optim.stateIndex (o : Optim) (q : Nat) : Nat :=
  if o.layout == 0 then o.first q else ((upTo q).filter o.owns).length * 128

/-- The gradient bytes of chunk q: address and length. -/
def Optim.gradOf (o : Optim) (q size : Nat) : Word64 × Nat :=
  (o.grad + n64 (o.gBytes * o.first q), o.gBytes * o.count q size)

/-- The descriptor of a command. -/
def CopyCmd.optim (p : CopyCmd) : Optim :=
  match p.kind with
  | .upd _ desc _ => optimOf desc
  | _ => optimOf []

/-- How many elements the state planes hold for a weight record of `size` bytes (R228). -/
def Optim.stateCount (o : Optim) (size : Nat) : Nat :=
  if o.layout == 0 then size / o.wBytes else ((upTo ((size + 511) / 512)).filter o.owns).length * 128

/-- The planes that an UPD reads and those that it writes, as address and length, for a weight record of `size` bytes (R227 to
R229): a plane that is changed in place stands under what is written. -/
def Optim.planes (o : Optim) (size : Nat) : List (Word64 × Nat) × List (Word64 × Nat) :=
  let grad := (o.grad, o.gBytes * (size / o.wBytes))
  let n := o.stateCount size
  ((o.norm, 4) :: (if o.zg then [] else [grad]),
    [(o.status, 8), (o.mom, 4 * n)] ++ (if o.zg then [grad] else []) ++ (if o.kind == 1 then [(o.var, 4 * n)] else []) ++
      (if o.layout == 0 then [(o.ext, 2 * (size / o.wBytes))] else []))

end Sys2Proof.Machine
end

