-- ==== Sys2Proof/Machine/Ops.lean ====
section
/-! DEFINITION. Machine/Ops.lean: the shared operations of an issue: marks and rollback (R125 to R127), blocking (R37), taking a
trap (R48 to R50, R53) and returning from one (R51), and the performance of an issue (R122). -/

namespace Sys2Proof.Machine

/-! ### Engines that must first make progress (R99, R232, R261) -/

/-- A tree-engine operation of the context is queued. -/
def State.treeBusy (s : State) (x : Nat) : Bool := (s.core (coreOf x)).tq.any (·.x == x)

/-- A queued command of the context writes a counter image to its scratchpad. -/
def State.imageBusy (s : State) (x : Nat) : Bool :=
  (s.core (coreOf x)).mq.any fun m => m.x == x && match m.op with | .ndump _ _ => true | _ => false

/-- Before an access of the context (R99, R232, R261): its queued fibre operations perform, and its queued tree operations and
counter images must have been performed. -/
def awaitEngines : Op Unit := do
  let x := (← get).cur.x
  drainFibre x
  let s ← get
  if s.treeBusy x then throw (.stall .tree) else if s.imageBusy x then throw (.stall .matrix) else pure ()

/-- Before a release: the context's tree-engine operations have retired (R232). -/
def awaitTree : Op Unit := do
  let s ← get
  if s.treeBusy s.cur.x then throw (.stall .tree) else pure ()

/-- A stalled issue is made again after the unit's next event; the block-transfer engine's come next of themselves (log 3). -/
def State.stalled (s : State) (u : Unit3) : State :=
  let k := coreOf s.cur.x
  match u with
  | .tree => { s with agenda := .tCommandPerform k :: s.agenda }
  | .matrix =>
    { s with agenda := (if (s.core k).mrun.isSome then Event.mmaRetirement k else .mCommandPerform k) :: s.agenda }
  | .copy => s

/-! ### The scoreboard towards copies (R99) -/

/-- A range of the issuing core's scratchpad: first byte, and the byte after the last. -/
abbrev Range := Int × Int

/-- Two ranges share a byte. -/
def overlap (a b : Range) : Bool := a.1 < b.2 && b.1 < a.2

/-- The bytes of a record, lowest to highest. -/
def Shape.extentOf (s : Shape) : Range := ((s.base : Int) + s.reach.1, (s.base : Int) + s.reach.2 + 1)

/-- The scratchpad range that a record names by core-local address, where it names one. -/
def Shape.scratch (s : Shape) : List Range := if s.space == 1 && s.size != 0 then [s.extentOf] else []

/-- The scratchpad range of n bytes at an address, where it is a core-local one. -/
def scratchRange (ea : Word64) (n : Nat) : List Range :=
  match classify ea with
  | .scratch a => [((a : Int), (a : Int) + n)]
  | _ => []

/-- The ranges that a copy command writes and those that it reads. -/
def CopyCmd.ranges (p : CopyCmd) (c : Core) : List Range × List Range :=
  let d := (shapeOf p.dst).scratch
  let s := (shapeOf p.src).scratch
  match p.kind with
  | .ring g _ =>
    match fget? c.rings g with
    | some r => ([((r.base : Int), (r.base : Int) + r.size)], s)
    | none => ([], s)
  | .gather idx => (d, s ++ scratchRange idx (4 * (shapeOf p.dst).extent 1))
  | .scatter idx => (d, s ++ scratchRange idx (4 * (shapeOf p.src).extent 1))
  | .publish => ([], [])
  | .upd a desc _ =>
    let t := p.optim.planes (shapeOf p.dst).size
    let at_ := fun l : List (Word64 × Nat) => l.flatMap fun (ea, n) => scratchRange ea n
    if desc.isEmpty then (d, scratchRange a 128) else (d ++ at_ t.2, at_ t.1)
  | _ => (d, s)

/-- A later command's reads or writes must wait for a copy of the context (R99). -/
def CopyCmd.conflicts (p : CopyCmd) (c : Core) (reads writes : List Range) : Bool :=
  let r := p.ranges c
  r.1.any (fun a => (reads ++ writes).any (overlap a)) || r.2.any fun a => writes.any (overlap a)

/-- A fibre access waits for the context's copies that it conflicts with (R99). -/
def awaitCopies (write : Bool) (ea : Word64) (n : Nat) : Op Unit := do
  let s ← get
  let r := scratchRange ea n
  let c := s.ccore
  if c.copies.any fun p => p.x == s.cur.x && !p.lost && p.conflicts c (if write then [] else r) (if write then r else []) then
    throw (.stall .copy)
  else pure ()

/-! ### Marks (R125, R126) -/

/-- A point at which a context goes on. -/
structure Point where
  pc : Word64
  j : Nat
  slot : Nat
  ended : Bool
  jumped : Bool
deriving DecidableEq, Repr

/-- Where a context stands. -/
def Ctx.point (c : Ctx) : Point := { pc := c.pc, j := c.j, slot := c.slot, ended := c.ended, jumped := c.jumped }

/-- Put a context at a point. -/
def Ctx.goTo (c : Ctx) (p : Point) : Ctx :=
  { c with pc := p.pc, j := p.j, slot := p.slot, ended := p.ended, jumped := p.jumped, arrived := false, blocked := false }

/-- A gated write that its owner has accepted: the place of each piece, its address and bytes. -/
abbrev Accepted := List (Place × Word64 × List Byte)

/-- The owners accept a gate entry's writes, piece by piece (R126, step 2). -/
def acceptEntry (g : GateEnt) : Op Accepted := do
  let s ← get
  let x := s.cur.x
  let ps := g.writes.flatMap fun (ea, bs) =>
    (pieces (bs.length / 64 + 2) ea.toNat bs.length).map fun (a, k) => (n64 a, (bs.drop (a - ea.toNat)).take k)
  mapEach ps fun (a, bs) => do
    let p ← locate (s.reqOf x g.src g.cls) accWrite (coreOf x) a
    pure (p, a, bs)

/-- The record cache takes the record that an HST has written (R212). -/
def Core.hstCommit (c : Core) (g : GateEnt) : Core :=
  match g.hst with
  | some (ea, r) => if fhas c.rcache ea.toNat then { c with rcache := fput c.rcache ea.toNat r } else c
  | none => c

/-- A piece carries a poison mark in one of its words. -/
def GateEnt.marksAt (g : GateEnt) (a : Word64) (n : Nat) : List Word64 :=
  g.poison.filter fun w => a.toNat < w.toNat + 8 && w.toNat < a.toNat + n

/-- An accepted gate entry performs. -/
def performEntry (g : GateEnt) (acc : Accepted) : Op Unit := do
  let s ← get
  let x := s.cur.x
  forEach acc fun (p, a, bs) => do
    writePlace (s.reqOf x g.src g.cls) a p bs (isVirt a)
    match p with
    | .here pa => forEach (g.marksAt a bs.length) fun w => modify fun s => s.poisonWords (pa + w.toNat - a.toNat) 8
    | .away _ _ => pure ()
  modK fun c => c.hstCommit g

/-- The store gate commits (R126, step 2): the queued fibre operations deliver their data, the owners accept every gated store, and
all of them perform. -/
def commitGate : Op Unit := do
  drainFibre (← get).cur.x
  let gate := (← get).cctx.gate
  let acc ← mapEach gate acceptEntry
  forEach (gate.zip acc) fun (g, a) => performEntry g a
  modC fun c => { c with gate := [] }

/-- Take a mark (R126): the gate commits, held operations reach the matrix engine (R184, R202), and the recovery state is recorded.
An atomic, barrier or task operation of the issue has performed before (`performAtEnd`), so it comes before the gated stores. -/
def takeMark (p : Point) : Op Unit := do
  commitGate
  let c := (← get).cctx
  modK fun k => { k with mq := k.mq ++ c.heldX }
  modC fun c => { c with gate := [], vSince := [], heldX := [],
                         mark := { pc := p.pc, j := p.j, slot := p.slot, ended := p.ended, jumped := p.jumped,
                                   tok := c.tokNext, live := c.live, ctl := c.ctl } }

/-! ### Rollback and halting -/

/-- A context rolls back to its last mark and is PARKED (R52, R127); what its fibre queue holds is discarded, as are the values of
loads issued since and the traps that these have raised (R90). -/
def Ctx.rolledBack (c : Ctx) : Ctx :=
  let m := c.mark
  { c.goTo { pc := m.pc, j := m.j, slot := m.slot, ended := m.ended, jumped := m.jumped } with
    state := .parked, why := .none, live := m.live, gate := [], vSince := [], heldX := [],
    ctl := m.ctl, arrivals := c.arrivals.filter (·.tok < m.tok), deferred := c.deferred.filter (·.tok < m.tok) }

/-- A seif that a member leaves goes on decoupled (R40; log 25). -/
def State.decouple (s : State) (id : Nat) : State :=
  { s with seifs := s.seifs.map fun f => if f.id == id then { f with fused := false } else f }

/-- The formats that held XCVT operations had given their banks are taken back when the operations are discarded (R184). -/
def Core.undoHeld (c : Core) (l : List MCmd) : Core :=
  l.foldr (fun m c =>
    match m.op with
    | .xcvt b mode _ =>
      let v := fget Bank.free c.banks b
      { c with banks := fput c.banks b { v with fmt := if mode == 0 then 1 else 0 } }
    | _ => c) c

/-- A refusal parks a context (R52, R127, R329). -/
def State.park (s : State) (x : Nat) (r : Refused) : State :=
  let s := s.modCore (coreOf x) fun c => c.undoHeld (s.ctx x).heldX
  let s := s.modCtx x Ctx.rolledBack
  let s := s.modCore (coreOf x) fun c => { c with fq := c.fq.filter (·.x != x) }
  let s := (s.decouple (s.ctx x).seif).handIssue (coreOf x)
  match faultPost (refusalRec r true) s with
  | .ok _ s' => s'
  | .error _ s' => s'

/-- The number of a context state in a CTXSTATE entry, before its coding (R351; log 12). -/
def CtxState.index : CtxState → Nat
  | .idle => 0
  | .ready => 1
  | .running => 2
  | .blocked => 3
  | .parked => 4
  | .draining => 5
  | .halted => 6

/-- The CTXSTATE entry of a context (R351). -/
def State.ctxStateEntry (s : State) (x : Nat) : State :=
  let c := s.ctx x
  s.strataAdd (dieOf x) 4 false (coreOf x % 24) (x % 4)
    (toBytes 8 c.pc.toNat ++ toBytes 8 c.live.sw.toNat ++ toBytes 8 c.ctl.tcause.toNat ++ toBytes 8 c.ctl.tinfo.toNat ++
      toBytes 8 c.ctl.tkrec.toNat ++ [Config.stateCode c.state.index])

/-- tcause of a trap (R48). -/
def TrapInfo.tcause (t : TrapInfo) : Word64 := n64 (t.cause + t.slotField * 2 ^ 8 + b2n t.deferred * 2 ^ 12)

/-- The TRAP entry of a trap (R351). -/
def State.trapEntryRecord (s : State) (x : Nat) (t : TrapInfo) : State :=
  s.strataAdd (dieOf x) 1 false (coreOf x % 24) (x % 4)
    (toBytes 8 t.tcause.toNat ++ toBytes 8 t.info.toNat ++ toBytes 8 t.tpc.toNat)

/-- A context is HALTED where it stands (R45, R53); what it had gated or held is not performed. -/
def State.halt (s : State) (x : Nat) : State :=
  ((s.modCore (coreOf x) fun c => c.undoHeld (s.ctx x).heldX).modCtx x fun c => { c with state := .halted, why := .none, gate := [], vSince := [], heldX := [] }).handIssue (coreOf x)

/-! ### Taking a trap, and the return from one -/

/-- sw with SLOTRES and REPLEFT of a trap (R47, R50). -/
def trapSw (sw : Word64) (slotRes repLeft : Nat) : Word64 := n64 (putFld (putFld sw.toNat 16 13 slotRes) 20 17 repLeft)

/-- Take a trap (R49, R50): the trap registers are written, the sticky state is banked, handler mode begins, a mark is taken at
the handler, and the context goes on at tv. In handler mode, or with tv = 0, it is a double trap (R53): the context is
HALTED, the strata record holds its state, and its tasks complete FAULTED. -/
def takeTrap (t : TrapInfo) : Op Unit := do
  let s ← get
  let x := s.cur.x
  let c := s.cctx
  let sw := trapSw c.live.sw t.slotRes t.repLeft
  let regs := { c.ctl with tsw := sw, tpc := t.tpc, tcause := t.tcause, tinfo := t.info }
  modify fun s => s.decouple c.seif
  if c.handler then do
    modify fun s => ((s.halt x).trapEntryRecord x t).ctxStateEntry x
    failTasks [x]
  else if c.ctl.tv == 0 then do
    modC fun c => { c with ctl := regs, live := { c.live with sw := sw } }
    modify fun s => ((s.halt x).trapEntryRecord x t).ctxStateEntry x
    failTasks [x]
  else do
    let p : Point := { pc := c.ctl.tv, j := 0, slot := 0, ended := false, jumped := false }
    modC fun c => { c with ctl := regs, banked := c.live.armed, fromEnd := c.state == .draining
                           live := { c.live with armed := [], sw := sw ||| 4 } }
    takeMark p
    modC fun c => c.goTo p
    if bitAt (s.regN rSTRCTL) 8 then modify fun s => s.trapEntryRecord x t else pure ()
    if c.state == .draining then modify fun s => s.makeReady x else pure ()

/-- The header that TRET reads at tpc (R51): none where no header stands there. -/
def tretHeader (x : Nat) (a : Word64) : Op (Option Nat) := do
  if a.toNat % 4 != 0 then pure none
  else
    match classify a with
    | .hole => pure none
    | _ => do
      let w ← fetchWord x a
      pure (if isHeaderWord w then some w else none)

/-- tsw and tpc describe a point that can be resumed (R51). -/
def tretOk (tsw hdr : Nat) : Bool :=
  fld tsw 63 24 == 0 && !bitAt tsw 2 && fld tsw 16 13 ≤ 9 && fld tsw 20 17 ≤ fld hdr 18 15

/-- Count an issue of the handler (R113). -/
def Live.countHandler (l : Live) : Live := { l with nHandler := l.nHandler + 1 }

/-- Return from a trap (R51, R156): tsw and tpc are checked; where they stand, the handler's sticky state is discarded and the
banked one restored, sw is restored, a mark is taken at the point resumed, and the context goes on there. Otherwise BADSTATUS
re-enters the handler, and with tv = 0 it is a double trap (R53). -/
def returnFromTrap (word : Word64) : Op Unit := do
  let s ← get
  let x := s.cur.x
  let c := s.cctx
  if !c.handler then trapAt cILLEGAL word
  else do
    let tsw := c.ctl.tsw.toNat
    let h ← tretHeader x c.ctl.tpc
    modCur fun k => { k with left := true }
    match h.filter (tretOk tsw) with
    | none =>
      let bad : TrapInfo := { cause := cBADSTATUS, info := s.cur.pc, slotField := 0, deferred := false, tpc := s.cur.pc,
                              slotRes := 0, repLeft := s.cur.rep - s.cur.j }
      if c.ctl.tv == 0 then throw (.trap bad)
      else do
        modC fun c => { c.goTo { pc := c.ctl.tv, j := 0, slot := 0, ended := false, jumped := false } with
                          live := c.live.countHandler
                          ctl := { c.ctl with tcause := n64 cBADSTATUS, tinfo := s.cur.pc } }
        if bitAt (s.regN rSTRCTL) 8 then modify fun s => s.trapEntryRecord x bad else pure ()
    | some hdr => do
      let left := fld tsw 20 17
      let slot := fld tsw 16 13
      let done := slot == 9 && left == 0 && bitAt hdr 11
      let p : Point := { pc := c.ctl.tpc, j := fld hdr 18 15 - left, slot := slot, ended := done, jumped := false }
      modC fun c => { c with banked := [], fromEnd := false
                             live := { c.live with armed := c.banked, sw := c.ctl.tsw &&& ~~~(4 : Word64)
                                                   nHandler := c.live.countHandler.nHandler
                                                   nTask := if done && !c.fromEnd then c.live.nTask + 1 else c.live.nTask } }
      takeMark p
      modC fun c => c.goTo p
      if done then modify fun s => s.leave x .draining .none else pure ()

/-! ### The performance of an issue (R122) -/

/-- An operation of an issue: its slot, its issue index, whether it is written in the bundle or only armed, the instruction, and
what it does. -/
structure SlotOp where
  slot : Nat
  k : Nat
  written : Bool
  instr : Instr
  perform : Op Unit

/-- The number of the issue in the context's current mode (R113): how many have been completed in it. -/
def Live.issueNo (l : Live) (handler : Bool) : Nat := if handler then l.nHandler else l.nTask

/-- Count an issue (R113). -/
def Live.countIssue (l : Live) (handler : Bool) : Live :=
  if handler then { l with nHandler := l.nHandler + 1 } else { l with nTask := l.nTask + 1 }

/-- A pending H-slot write takes effect (R210, R213), or fails a check: the live part, and the writes that fail with their details. -/
def Live.hApply (acc : Live × List (HWrite × Word64)) (w : HWrite) : Live × List (HWrite × Word64) :=
  let new := if w.whole then w.val else hputField (fget 0 acc.1.h w.h) w.field w.val.toNat
  match (shapeOf new).check with
  | none => (acc.1.putH w.h new, acc.2)
  | some c => (acc.1, acc.2 ++ [(w, n64 (w.h + c * 2 ^ 4))])

/-- A pending H-slot write is due: it takes effect at the issue that begins now, or has failed its checks and is still to be
raised (R213). -/
def Ctx.hDue (c : Ctx) (w : HWrite) : Bool := w.handler == c.handler && w.due ≤ c.live.issueNo c.handler

/-- Begin an issue: the H-slot writes due take effect (R213), and the registers are read as they then stand (R121). A write that
fails its checks stays pending until slot 5 raises SHAPE, so that an issue that a trap in slots 0 to 4 cuts short raises it when
it is resumed; an issue resumed past slot 5 discards it. -/
def beginIssue : Op Unit := do
  let s ← get
  let c := s.cctx
  let r := (c.live.hPend.filter c.hDue).foldl Live.hApply (c.live, [])
  let failed := if c.slot ≤ 5 then r.2 else []
  let l := { r.1 with hPend := failed.map (·.1) ++ c.live.hPend.filter fun w => !c.hDue w }
  modC fun c => { c with live := l, blocked := false }
  modCur fun k => { k with src := l, target := none, disarm := false, needMark := false, left := false, atEnd := none,
                           hFail := failed.head?.map (·.2) }

/-- An operation whose tile predicate holds a 0 for its issue index performs nothing (R119). -/
def Live.tileOff (l : Live) (i : Instr) (k : Nat) : Bool :=
  match i.tile with
  | some q => !bitAt (l.qv q).toNat (k % 64)
  | none => false

/-- Arm or disarm the slot of a written operation at issue 0 (R122). -/
def armSlot (o : SlotOp) : Op Unit := do
  let s ← get
  if o.written && s.cur.j == 0 then
    modL fun l => { l with armed := if o.instr.sticky then fput l.armed o.slot { op := o.instr, next := 0 }
                                    else fdel l.armed o.slot }
  else pure ()

/-- Step the slot after its operation has performed (R122). -/
def stepSlot (o : SlotOp) : Op Unit :=
  modL fun l =>
    match fget? l.armed o.slot with
    | some a => if a.op = o.instr then { l with armed := fput l.armed o.slot { a with next := o.k + 1 } } else l
    | none => l

/-- The atomic, barrier or task operation that a slot has set performs (R126, R146). Where an access of a later slot is refused,
`settle` gives up the whole state of the issue and this operation with it, so it stands only if the owners accept every access
of the issue; later slots see what it has done (R92, R113). -/
def performAtEnd : Op Unit := do
  match (← get).cur.atEnd with
  | some o => do
    modCur fun k => { k with atEnd := none }
    o.perform
  | none => pure ()

/-- Perform an operation of an issue, unless TRET has left the issue. -/
def performSlotOp (o : SlotOp) : Op Unit := do
  modCur fun k => { k with slot := o.slot, k := o.k }
  let s ← get
  if s.cur.left then pure ()
  else do
    armSlot o
    if s.cctx.live.tileOff o.instr o.k then pure () else do
      o.perform
      performAtEnd
    modCur fun k => { k with needMark := k.needMark || o.instr.endMark }
    stepSlot o

/-- A failed H-slot write raises SHAPE at slot 5 and is discarded (R213). -/
def raiseShape : Op Unit := do
  let s ← get
  match s.cur.hFail with
  | some info =>
    if s.cur.left then pure ()
    else do
      modCur fun k => { k with slot := 5 }
      modC fun c => { c with live := { c.live with hPend := c.live.hPend.filter fun w => !c.hDue w } }
      trapAt cSHAPE info
  | none => pure ()

/-- Where the context goes on after the issue (R122). -/
def Cursor.continuation (c : Cursor) : Point :=
  match c.target with
  | some t => { pc := t, j := 0, slot := 0, ended := false, jumped := true }
  | none =>
    if c.j < c.rep then { pc := c.pc, j := c.j + 1, slot := 0, ended := false, jumped := false }
    else if c.isEnd then { pc := c.pc, j := c.j, slot := 9, ended := true, jumped := false }
    else { pc := c.next, j := 0, slot := 0, ended := false, jumped := false }

/-- Another context of a core has issued a bundle: contexts that yielded become READY (R37). -/
def State.releaseYield (s : State) (x : Nat) : State :=
  (upTo 4).foldl (fun s i =>
    let y := x / 4 * 4 + i
    let c := s.ctx y
    if y != x && c.state == .blocked && c.why == .yield then
      (s.modCtx y fun c => { c with yielded := true }).makeReady y
    else s) s

/-- End an issue (R122, R124, R125): it is counted, a branch with `.d` disarms, the mark is taken where one is due, and the
context goes on at the continuation; after an end bundle it is DRAINING. -/
def endIssue : Op Unit := do
  let s ← get
  let x := s.cur.x
  let k := s.cur
  let p := k.continuation
  if k.left then pure ()
  else do
    modC fun c => { c with yielded := false
                           live := { c.live.countIssue c.handler with armed := if k.disarm then [] else c.live.armed } }
    if k.needMark || p.ended then takeMark p else pure ()
    modC fun c => c.goTo p
    if p.ended && (← get).cctx.state == .running then modify fun s => s.leave x .draining .none else pure ()
  modify fun s => s.releaseYield x

/-- Perform the operations of an issue in slot order, and end it. -/
def performIssue (l : List SlotOp) : Op Unit := do
  beginIssue
  forEach (l.filter (·.slot < 5)) performSlotOp
  raiseShape
  forEach (l.filter (5 ≤ ·.slot)) performSlotOp
  endIssue

/-- A CWR of a tile predicate governs every later slot of its own issue (R119, R157): the state in which the blocking
conditions of the later slots are tested. -/
def State.afterCwrQ (s : State) (l : List SlotOp) : State :=
  match l.head? with
  | some o =>
    match o.instr with
    | .cwr r =>
      if 16 ≤ r.cr.toNat && r.cr.toNat ≤ 23 && !s.cctx.live.isEmpty (srcS r.a r.wa) then
        s.modCtx s.cur.x fun c => { c with live := c.live.putQ (r.cr.toNat - 16) (s.cur.s r.a) }
      else s
    | _ => s
  | none => s

/-- What blocks an operation, when it is performed at the start of the issue (R37): the test is made on a state that is then
discarded. -/
def State.blocks (s : State) (o : SlotOp) : Option BlockWhy :=
  if s.cctx.live.tileOff o.instr o.k then none
  else
    match o.perform { s with cur := { s.cur with slot := o.slot, k := o.k } } with
    | .error (.block why) _ => some why
    | _ => none

/-- What blocks the issue: the first operation, in slot order, that would block (R37). -/
def State.issueBlocks (s : State) (l : List SlotOp) : Option BlockWhy :=
  let s := { s with cur := { s.cur with src := s.cctx.live } }
  let s := s.afterCwrQ l
  l.findSome? s.blocks

/-- The gate entries and the v registers of an issue would pass 64 (R126). -/
def Ctx.overflows (c : Ctx) (l : List SlotOp) : Bool :=
  c.gate.length + (l.filter (·.instr.isStore)).length > 64 ||
    (l.foldl (fun vs o => o.instr.vDests.foldl (fun vs r => if vs.contains r then vs else r :: vs) vs) c.vSince).length > 64

/-- The marks of R125 that come before an issue; `mark` is the K bit at issue 0. -/
def preMarks (mark : Bool) (l : List SlotOp) : Op Unit := do
  let c := (← get).cctx
  if mark || l.any (·.instr.preMark) || c.overflows l then takeMark c.point else pure ()

/-- The context blocks (R37, R125): it takes a mark before the blocked issue, becomes BLOCKED, and its core hands issue on. -/
def blockIssue (why : BlockWhy) : Op Unit := do
  let s ← get
  let x := s.cur.x
  takeMark s.cctx.point
  modC fun c => { c with blocked := true }
  modify fun s => s.leave x .blocked why

/-- How an issue that did not complete ends: `base` is the state before its first slot, to which a rollback, a block and a
stall return. -/
def settle (base : State) (r : EStateM.Result Exit State Unit) : Host.Outcome State Fault Refusal :=
  let back := fun (r : EStateM.Result Exit State Unit) =>
    match r with
    | .ok _ s => Host.Outcome.next s
    | .error (.refuse f) _ => Host.Outcome.next (base.park base.cur.x f)
    | .error (.stall u) _ => Host.Outcome.next (base.stalled u)
    | .error (.fault f) _ => Host.Outcome.fault f
    | .error _ s => Host.Outcome.next s
  match r with
  | .ok _ s => .next s
  | .error (.trap t) s => back (takeTrap t s)
  | .error (.block why) _ => back (blockIssue why base)
  | .error e s => back (.error e s)

/-- Perform one issue of the operations given (R122): the blocking conditions, the marks before it, and its slots. -/
def runIssue (mark : Bool) (l : List SlotOp) (s : State) : Host.Outcome State Fault Refusal :=
  match s.issueBlocks l with
  | some why => settle s (blockIssue why s)
  | none =>
    match preMarks mark l s with
    | .ok _ base => settle base (performIssue l base)
    | .error e s' => settle s (.error e s')

/-- Perform one operation as an issue of its own, written in the slot and at the issue index that the cursor holds. -/
def slotRun (i : Instr) (op : Op Unit) (s : State) : Host.Outcome State Fault Refusal :=
  runIssue false [{ slot := s.cur.slot, k := s.cur.k, written := true, instr := i, perform := op }] s

end Sys2Proof.Machine
end

