-- ==== Sys2Proof/Machine/MatrixEngine.lean ====
section
/-! DEFINITION. Machine/MatrixEngine.lean: the order in which the matrix engine and the scale port take their commands (R99, R184,
R194). -/

namespace Sys2Proof.Machine

/-- The generations of rings that an operation reads. -/
def MOp.gens (o : MOp) : List Nat :=
  match o with
  | .mma _ _ _ ga gb _ _ _ _ _ => [ga, gb]
  | .mcnt _ _ ga gb _ _ _ => [ga, gb]
  | .xfix _ g _ _ _ => [g]
  | _ => []

/-- The bytes that a push brings into its ring. -/
def CopyCmd.pushSize (p : CopyCmd) : Nat := (shapeOf p.src).size

/-- A push into a generation of a ring. -/
def CopyCmd.pushes (p : CopyCmd) (g : Nat) : Bool :=
  match p.kind with
  | .ring gen _ => gen == g
  | _ => false

/-- A push issued before an operation is on its way and has room, so that the operation waits for it (R99, R189, R220). -/
def Core.pushPending (c : Core) (g seq : Nat) : Bool :=
  match c.copies.find? (·.pushes g) with
  | some p => p.seq < seq && (c.ringGen g).fill + p.pushSize ≤ (c.ringGen g).size
  | none => false

/-- The scratchpad ranges that a queued matrix-engine command reads and writes, and the ring generations whose pushes and pops
order themselves (R189). -/
def MCmd.ranges (m : MCmd) (s : State) : List Range × List Range :=
  let c := s.core (coreOf m.x)
  let at_ := fun (a n : Nat) => ((a : Int), (a : Int) + n)
  let ring := fun (g : Nat) => at_ (c.ringGen g).base (c.ringGen g).size
  match m.op with
  | .mma _ _ _ ga gb _ _ _ _ _ => ([ring ga, ring gb], [])
  | .mcnt _ _ ga gb _ _ _ => ([ring ga, ring gb], [])
  | .nmerge _ a => ([at_ a imageBytes], [])
  | .nload _ a => ([at_ a imageBytes], [])
  | .ndump _ a => ([], [at_ a imageBytes])
  | .xfix _ g a _ _ => ([ring g, at_ a.toNat (8 + 8 * s.memN (scratchBase (coreOf m.x) + a.toNat) 8)], [])
  | _ => ([], [])

/-- A copy pushes into a ring that a command reads. -/
def CopyCmd.feeds (p : CopyCmd) (m : MCmd) : Bool := m.op.gens.any p.pushes

/-- A queued tree-engine command of the context was issued before number `seq`. -/
def Core.treeBefore (c : Core) (x seq : Nat) : Bool := c.tq.any fun t => t.x == x && t.seq < seq

/-- A command must wait for what its context issued before it (R99): copies whose ranges it shares, rings' own pushes apart, and,
where it touches scratchpad, tree-engine operations. -/
def State.mHeld (s : State) (k : Nat) (m : MCmd) : Bool :=
  let c := s.core k
  let r := m.ranges s
  (m.op.gens.any fun g => c.pushPending g m.seq) ||
    (c.copies.any fun p => p.x == m.x && !p.lost && p.seq < m.seq && !p.feeds m && p.conflicts c r.1 r.2) ||
    (!(r.1 ++ r.2).isEmpty && c.treeBefore m.x m.seq)

/-- The engine can take its next command now (R43, R99, R184, R194): none occupies the array, and what it must wait for has been
done. -/
def State.mReady (s : State) (k : Nat) : Option MCmd :=
  let c := s.core k
  if c.mrun.isSome || c.halting then none else c.mq.head?.filter fun m => !s.mHeld k m

/-- The operation occupies the array until it retires (R194). -/
def MOp.occupies (o : MOp) : Bool :=
  match o with
  | .mma _ _ _ _ _ _ _ _ _ _ => true
  | .mcnt _ _ _ _ _ _ _ => true
  | _ => false

/-- M_COMMAND_PERFORM: the engine takes its next command: an MMA or MCNT starts, unless a ring is short; any other performs. -/
def execMCommandPerform (k : Nat) (s : State) : Host.Outcome State Fault Refusal :=
  let c := s.core k
  match s.mReady k with
  | none => .next s
  | some m =>
    let s' := s.setCore k { c with mq := c.mq.drop 1 }
    if m.op.occupies then
      match m.op.short c with
      | some g => .next (shortOp m g s')
      | none => .next (s'.setCore k { c with mq := c.mq.drop 1, mrun := some m })
    else .next (m.run s')

/-- MMA_RETIREMENT: the operation in the array retires (R194). -/
def execMmaRetirement (k : Nat) (s : State) : Host.Outcome State Fault Refusal :=
  match (s.core k).mrun with
  | none => .next s
  | some m => .next (m.run (s.modCore k fun c => { c with mrun := none }))

end Sys2Proof.Machine
end

