-- ==== Sys2Proof/Machine/CopyData.lean ====
section
/-! DEFINITION. Machine/CopyData.lean: how the copy unit and the update engine read and write (R217, R218, R222): tensors in
packed order, planes by address, and the bookkeeping of an active command. -/

namespace Sys2Proof.Machine

/-! ### Commands -/

/-- A request of a copy-unit command (R329): source 4, an update engine's 7. -/
def CopyCmd.req (p : CopyCmd) (k : Nat) (shadow : Bool) : Req :=
  { asid := p.asid, src := match p.kind with
      | .upd _ _ _ => 7
      | _ => 4
    cls := 0, pdie := k / 24, core := k % 24, ctx := p.x % 4, cid := p.cid, shadow := shadow }

/-- An active command of a core. -/
def State.copyCmd (s : State) (k id : Nat) : Option CopyCmd := (s.core k).copies.find? (·.id == id)

/-- Change an active command. -/
def State.modCopy (s : State) (k id : Nat) (f : CopyCmd → CopyCmd) : State :=
  s.modCore k fun c => { c with copies := c.copies.map fun p => if p.id == id then f p else p }

/-- How many chunks a size has, and how many of them one bit of the bitmap covers (R217). -/
def chunkCount (size : Nat) : Nat := (size + 511) / 512
def chunkGroup (n : Nat) : Nat := (n + 63) / 64

/-- A chunk has been written and its arrival applied. -/
def CopyCmd.isDone (p : CopyCmd) (chunk : Nat) : Bool := fget? p.done chunk == some true

/-- The bitmap of a command (R217): bit b is set when every chunk of its group is done; bits that cover no chunk are set. -/
def CopyCmd.bits (p : CopyCmd) : Word64 :=
  let g := chunkGroup p.chunks
  n64 ((upTo 64).foldl (fun acc b =>
    if ((upTo g).map (b * g + ·)).all fun c => p.chunks ≤ c || p.isDone c then acc + 2 ^ b else acc) 0)

/-- A command reports ACCESS as a deferred trap, once for each address (R219, R221). -/
def State.tellAccess (s : State) (k : Nat) (p : CopyCmd) (a : Word64) : State :=
  match s.copyCmd k p.id with
  | some q =>
    if q.told.contains a || q.lost then s
    else (s.modCopy k p.id fun q => { q with told := q.told ++ [a] }).deferTrap p.x { cause := cACCESS, info := a, slot := 7, tok := 0 }
  | none => s

/-- A refusal parks a command (R222, R231, R329). -/
def parkCopy (k id : Nat) (r : Refused) : Op Unit := do
  modify fun s => s.modCopy k id fun p => { p with parked := true }
  faultPost (refusalRec r (r.src != 7))

/-- The completion slot of a command takes its bits. -/
def State.copyBits (s : State) (p : CopyCmd) : State :=
  if p.lost then s else s.modCtx p.x fun c => { c with bitmaps := fset (BitVec.allOnes 64) c.bitmaps p.cid p.bits }

/-- A command has completed: it is active no longer, and a push fills its ring (R220). -/
def State.copyDone (s : State) (k : Nat) (p : CopyCmd) : State :=
  s.modCore k fun c =>
    let c := { c with copies := c.copies.filter (·.id != p.id) }
    match p.kind with
    | .ring g _ => { c with rings := fput c.rings g { c.ringGen g with fill := (c.ringGen g).fill + p.pushSize } }
    | _ => c

/-- Mark chunks done; with the last of them the command completes. -/
def State.chunksDone (s : State) (k id : Nat) (l : List Nat) : State :=
  let s := s.modCopy k id fun p => { p with done := l.foldl (fun m c => fput m c true) p.done }
  match s.copyCmd k id with
  | some p =>
    let s := s.copyBits p
    if (upTo p.chunks).all p.isDone then s.copyDone k p else s
  | none => s

/-- A command completes at once, with every bit set (R210, R225, R226). -/
def State.copyAll (s : State) (k id : Nat) : State :=
  match s.copyCmd k id with
  | some p => s.chunksDone k id (upTo p.chunks)
  | none => s

/-! ### Data on its way -/

/-- A byte with its poison mark. -/
abbrev Carried := Byte × Bool

/-- Bytes read at a place with the marks of their words; another module's carry none. -/
def readCarried (rq : Req) (va : Word64) (p : Place) (n : Nat) : Op (List Carried) := do
  let r ← readPlace rq va p n
  let s ← get
  pure (match p with
    | .here pa => (r.1.zip (upTo n)).map fun (b, i) => (b, s.poisoned (pa + i) 1)
    | .away _ _ => r.1.map fun b => (b, false))

/-- Bytes written at a place; a word that takes a marked byte is marked (R222). -/
def writeCarried (rq : Req) (va : Word64) (p : Place) (l : List Carried) (mapped : Bool) : Op Unit := do
  writePlace rq va p (l.map (·.1)) mapped
  match p with
  | .here pa => forEach ((l.zip (upTo l.length)).filter (·.1.2)) fun (_, i) => modify fun s => s.poisonWords (pa + i) 1
  | .away _ _ => pure ()

/-- The runs of bytes that are given, with their offsets. -/
def runsOf : Nat → List (Option Carried) → List (Nat × List Carried)
  | _, [] => []
  | i, none :: l => runsOf (i + 1) l
  | i, some b :: l =>
    match runsOf (i + 1) l with
    | (j, r) :: rs => if j == i + 1 then (i, b :: r) :: rs else (i, [b]) :: (j, r) :: rs
    | [] => [(i, [b])]

/-- A place with the address that names it and a number of bytes. -/
abbrev Piece := Place × Word64 × Nat

/-- Move a place on. -/
def Place.plus (p : Place) (i : Nat) : Place :=
  match p with
  | .here pa => .here (pa + i)
  | .away m d => .away m d

/-- Write the bytes given for a list of pieces; bytes not given are left as they are. -/
def writePieces (rq : Req) (mapped : Bool) : List Piece → List (Option Carried) → Op Unit
  | [], _ => pure ()
  | (p, va, n) :: ps, l => do
    forEach (runsOf 0 (l.take n)) fun (i, bs) => writeCarried rq (va + n64 i) (p.plus i) bs mapped
    writePieces rq mapped ps (l.drop n)

/-! ### Tensors in packed order (R209) -/

/-- The pieces of n packed bytes from offset `lo` on, by address: none crosses a row's end or a 64-byte boundary. For an
accumulator record the addresses are those within the bank. -/
def Shape.segs (s : Shape) : Nat → Nat → Nat → List (Nat × Nat)
  | 0, _, _ => []
  | fuel + 1, lo, n =>
    if n == 0 then []
    else
      let a := wrapN 64 ((if s.space == 2 then 0 else (s.base : Int)) + s.byteAt lo)
      let m := min (min n (s.span - lo % s.span)) (64 - a % 64)
      (a, m) :: segs s fuel (lo + m) (n - m)

/-- Where a piece of a tensor lands: a virtual address for SPACE 0, the core's scratchpad for SPACE 1. -/
def Shape.locate (s : Shape) (rq : Req) (acc k a : Nat) : Op Place :=
  if s.space == 0 then translate rq acc (n64 a) else pure (.here (scratchBase k + a))

/-- The pieces of n packed bytes of a tensor, located. -/
def Shape.pieces (s : Shape) (rq : Req) (acc k lo n : Nat) : Op (List Piece) :=
  mapEach (s.segs n lo n) fun (a, m) => do
    let p ← s.locate rq acc k a
    pure (p, n64 a, m)

/-- The request through a record carries its shadow mark (R218). -/
def CopyCmd.reqFor (p : CopyCmd) (k : Nat) (sh : Shape) : Req := p.req k sh.sh

/-- Bytes of a bank as a drain copy read it. -/
def bankBytes (img : List Byte × BitVec 32) (a n : Nat) : List Carried :=
  (upTo n).map fun i => (img.1.getD (a + i) 0, bitAt img.2.toNat ((a + i) / 256))

/-- Read n packed bytes of a tensor. -/
def CopyCmd.read (p : CopyCmd) (k : Nat) (sh : Shape) (lo n : Nat) : Op (List Carried) := do
  let ls ← mapEach (sh.segs n lo n) fun (a, m) =>
    if sh.space == 2 then pure (bankBytes (p.image.getD ([], 0)) a m)
    else do
      let pl ← sh.locate (p.reqFor k sh) accRead k a
      readCarried (p.reqFor k sh) (n64 a) pl m
  pure ls.flatten

/-! ### Planes by address (R134, R227) -/

/-- The pieces of a range by effective address, located. -/
def planePieces (rq : Req) (acc k : Nat) (ea : Word64) (n : Nat) : Op (List Piece) :=
  mapEach (Sys2Proof.Machine.pieces (n / 64 + 2) ea.toNat n) fun (a, m) => do
    let p ← Sys2Proof.Machine.locate rq acc k (n64 a)
    pure (p, n64 a, m)

/-- Read a range by effective address. -/
def planeRead (rq : Req) (k : Nat) (ea : Word64) (n : Nat) : Op (List Carried) := do
  let ps ← planePieces rq accRead k ea n
  let ls ← mapEach ps fun (p, va, m) => readCarried rq va p m
  pure ls.flatten

/-- Write a located range. -/
def planeWrite (rq : Req) (ps : List Piece) (l : List Carried) : Op Unit :=
  writePieces rq (ps.any fun (_, va, _) => isVirt va) ps (l.map some)

/-- A range touches the hole above the scratchpad (R134). -/
def inHole (ea : Word64) (n : Nat) : Bool := n != 0 && ea.toNat < 0x400000 && 0x300000 < ea.toNat + n

/-- The number that carried bytes hold, and whether one of them is marked. -/
def carriedN (l : List Carried) : Nat × Bool := (ofBytes (l.map (·.1)), l.any (·.2))

/-- n bytes of a number, each with a mark. -/
def carry (n : Nat) (v : Nat × Bool) : List Carried := (toBytes n v.1).map fun b => (b, v.2)

/-- Run an operation as an event: a refusal that nobody took leaves the state as it was. -/
def runOp (op : Op Unit) (s : State) : Host.Outcome State Fault Refusal :=
  match op s with
  | .ok _ s' => .next s'
  | .error (.fault f) _ => .fault f
  | .error _ _ => .next s

end Sys2Proof.Machine
end

