-- ==== Sys2Proof/Machine/Update.lean ====
section
/-! DEFINITION. Machine/Update.lean: the update engine (R226 to R229): the optimiser descriptor, one weight chunk's update, and
completion. -/

namespace Sys2Proof.Machine

/-! ### FP32 arithmetic (R83, R229) -/

def f32Add (a b : Nat) : Nat := (fp32.add false RNE (fp32.val a) (fp32.val b)).1
def f32Sub (a b : Nat) : Nat := (fp32.add false RNE (fp32.val a) (fp32.val b).negate).1
def f32Mul (a b : Nat) : Nat := (fp32.mul false RNE (fp32.val a) (fp32.val b)).1
def f32Div (a b : Nat) : Nat := fp32.div (fp32.val a) (fp32.val b)
def f32Sqrt (a : Nat) : Nat := fp32.sqrt (fp32.val a)

/-- 1.0 -/
def f32One : Nat := 0x3F800000

/-- a > b. -/
def f32Gt (a b : Nat) : Bool := !(fp32.val a).isNan && !(fp32.val b).isNan && cmpVal (fp32.val a) (fp32.val b) > 0

/-- b x b x … with n multiplications after the first b (R229). -/
def f32Pow (b : Nat) : Nat → Nat → Nat
  | 0, acc => acc
  | n + 1, acc => f32Pow b n (f32Mul acc b)

/-! ### One element (R229) -/

/-- What the update of an element uses and leaves: gradient, weight, first and second moment as FP32 bits. -/
structure Elem where
  g : Nat
  w : Nat
  m : Nat
  v : Nat
deriving DecidableEq, Repr

/-- The update of one element; `g` has been scaled by the clip factor. -/
def Optim.step (o : Optim) (pow1 pow2 : Nat) (e : Elem) : Elem :=
  if o.kind == 0 then
    let g := f32Add e.g (f32Mul o.wd e.w)
    let m := f32Add (f32Mul o.b1 e.m) g
    { e with m := m, w := f32Sub e.w (f32Mul o.lr m) }
  else
    let m := f32Add (f32Mul o.b1 e.m) (f32Mul (f32Sub f32One o.b1) e.g)
    let v := f32Add (f32Mul o.b2 e.v) (f32Mul (f32Mul (f32Sub f32One o.b2) e.g) e.g)
    let mh := f32Div m (f32Sub f32One pow1)
    let vh := f32Sqrt (f32Div v (f32Sub f32One pow2))
    let d := f32Add (f32Div mh (f32Add vh o.eps)) (f32Mul o.wd e.w)
    { e with m := m, v := v, w := f32Sub e.w (f32Mul o.lr d) }

/-- The clip factor (R229). -/
def Optim.clipFactor (o : Optim) (norm : Nat) : Nat :=
  if f32Gt o.clip 0 && f32Gt norm (f32Mul o.clip o.clip) then f32Div o.clip (f32Sqrt norm) else f32One

/-! ### A chunk -/

/-- The marks of the memory at a place (R150); what is not vault or HBM of this module has no tag. -/
def State.tagAt (s : State) (p : Place) : BitVec 9 :=
  match p with
  | .here pa => if inScratch (offOf pa) then tagUnset else s.tag pa
  | .away _ _ => tagUnset

/-- The place of each n-byte element of located pieces. -/
def elemPlaces (n : Nat) : List Piece → List Place
  | [] => []
  | (p, _, m) :: ps => ((upTo m).filter (· % n == 0)).map p.plus ++ elemPlaces n ps

/-- The value of a gradient element: FP32 or BF16; a format that R227 does not list has no stated value (log 7). -/
def Optim.gradValue (o : Optim) (code : Nat) (free : Word64) : FVal :=
  if o.gfmt == 0 then fp32.val code else if o.gfmt == 1 then bf16.val code else fp32.val (free.toNat % 2 ^ 32)

/-- Update one owned chunk (R229): everything is located and read before anything is written. A plane that would touch the hole
above the scratchpad leaves the chunk unchanged and raises ACCESS (log 28). -/
def updateChunk (k : Nat) (p : CopyCmd) (q : Nat) : Op Unit := do
  let o := p.optim
  let sh := shapeOf p.dst
  let rq := p.req k false
  let rw := p.reqFor k sh
  let n := o.count q sh.size
  let s0 := o.stateIndex q
  let gr := o.gradOf q sh.size
  let momA := o.mom + n64 (4 * s0)
  let varA := o.var + n64 (4 * s0)
  let extA := o.ext + n64 (2 * o.first q)
  let holes := ([(gr.1, gr.2), (momA, 4 * n)] ++ (if o.kind == 1 then [(varA, 4 * n)] else []) ++
    (if o.layout == 0 then [(extA, 2 * n)] else [])).filter fun (a, m) => inHole a m
  match holes with
  | (a, _) :: _ => modify fun s => s.tellAccess k p a
  | [] => do
    let gp ← planePieces rq accRead k gr.1 gr.2
    let gb ← planeRead rq k gr.1 gr.2
    let mp ← planePieces rq accWrite k momA (4 * n)
    let mb ← planeRead rq k momA (4 * n)
    let vp ← if o.kind == 1 then planePieces rq accWrite k varA (4 * n) else pure []
    let vb ← if o.kind == 1 then planeRead rq k varA (4 * n) else pure []
    let ep ← if o.layout == 0 then planePieces rq accWrite k extA (2 * n) else pure []
    let eb ← if o.layout == 0 then planeRead rq k extA (2 * n) else pure []
    let wp ← sh.pieces rw accWrite k (512 * q) (o.wBytes * n)
    let wb ← p.read k sh (512 * q) (o.wBytes * n)
    let draw ← nextFree
    let s ← get
    let tags := (elemPlaces o.gBytes gp).map s.tagAt
    let gs := ((chunksOf o.gBytes n gb).map carriedN).zip (upTo n)
    let gv := gs.map fun (c, i) => (o.gradValue c.1 (Config.freeField draw i), c.2)
    if tags.any (fun t => bitAt t.toNat 8) || gv.any (fun g => g.1.special) then
      modify fun s => s.modCopy k p.id fun p => { p with upd := p.upd + n64 (2 ^ 32) }
    else do
      let c := fp32.val (p.consts.getD 0 f32One)
      let ms := (chunksOf 4 n mb).map carriedN
      let vs := if o.kind == 1 then (chunksOf 4 n vb).map carriedN else List.replicate n (0, false)
      let es := if o.layout == 0 then (chunksOf 2 n eb).map carriedN else List.replicate n (0, false)
      let ws := (chunksOf o.wBytes n wb).map carriedN
      let res := (upTo n).map fun i =>
        let g := gv.getD i (.fin false 0 0, false)
        let m := ms.getD i (0, false)
        let v := vs.getD i (0, false)
        let e := es.getD i (0, false)
        let w := ws.getD i (0, false)
        let t := (tags.getD i tagUnset).toNat % 256
        let scaled := g.1.scale (if t == 0x80 then 0 else -(sgn 8 t))
        let w0 := if o.layout == 0 then w.1 * 2 ^ 16 + e.1 else w.1
        (o.step (p.consts.getD 1 0) (p.consts.getD 2 0)
          { g := (fp32.mul false RNE c scaled).1, w := w0, m := m.1, v := v.1 },
         g.2 || m.2 || v.2 || e.2 || w.2)
      if o.kind == 1 then planeWrite rq vp (res.flatMap fun r => carry 4 (r.1.v, r.2)) else pure ()
      planeWrite rq mp (res.flatMap fun r => carry 4 (r.1.m, r.2))
      if o.layout == 0 then do
        writePieces rw (sh.space == 0) wp ((res.flatMap fun r => carry 2 (r.1.w / 2 ^ 16, r.2)).map some)
        planeWrite rq ep (res.flatMap fun r => carry 2 (r.1.w % 2 ^ 16, r.2))
      else writePieces rw (sh.space == 0) wp ((res.flatMap fun r => carry 4 (r.1.w, r.2)).map some)
      modify fun s => s.modCopy k p.id fun p => { p with upd := p.upd + 1 }

/-! ### Completion -/

/-- The gradient marks of a located range are taken back (R229). -/
def State.resetTags (s : State) (ps : List Piece) : State :=
  ps.foldl (fun s (p, _, m) =>
    match p with
    | .here pa => if inScratch (offOf pa) || m == 0 then s else (s.setTag pa tagUnset).setTag (pa + m - 1) tagUnset
    | .away _ _ => s) s

/-- Write STATUS; an address in the hole raises ACCESS (log 28). -/
def writeStatusWord (k : Nat) (p : CopyCmd) (v : Word64) : Op Unit := do
  let a := p.optim.status
  if inHole a 8 then modify fun s => s.tellAccess k p a
  else do
    let ps ← planePieces (p.req k false) accWrite k a 8
    planeWrite (p.req k false) ps (carry 8 (v.toNat, false))

/-- The end of an UPD (R229): the gradient chunks under the owned chunks lose their tags, with ZG their elements become zero, and
STATUS is written. -/
def finishUpdate (k : Nat) (p : CopyCmd) : Op Unit := do
  let o := p.optim
  let size := (shapeOf p.dst).size
  let rq := p.req k false
  let rs := (((upTo p.chunks).filter o.owns).map fun q => o.gradOf q size).filter fun (a, n) => !inHole a n
  let pss ← mapEach rs fun (a, n) => planePieces rq (if o.zg then accWrite else accRead) k a n
  forEach pss fun ps => do
    modify fun s => s.resetTags ps
    if o.zg then planeWrite rq ps ((ps.flatMap fun (_, _, m) => List.replicate m (0, false))) else pure ()
  writeStatusWord k p p.upd

/-- The powers of B1 and B2 (R229); for STEP = 0 the spec states none (log 7). -/
def Optim.powers (o : Optim) (draw : Nat) : List Nat :=
  if o.kind == 0 then [0, 0]
  else if o.steps == 0 then [(Config.freeField draw 0).toNat % 2 ^ 32, (Config.freeField draw 1).toNat % 2 ^ 32]
  else [f32Pow o.b1 (o.steps - 1) o.b1, f32Pow o.b2 (o.steps - 1) o.b2]

/-- The gate of an UPD is open: there is none, or the phase awaited has completed (R153, R226). -/
def gateOpen (k : Nat) (p : CopyCmd) (gate : Option Word64) : Op Bool := do
  match gate with
  | none => pure true
  | some a => do
    let pl ← Sys2Proof.Machine.locate (p.req k false) accRead k a
    let r ← readPlace (p.req k false) a pl 32
    pure (phaseDone (recFld r.1 16 4) p.optim.phase)

/-- The descriptor is read at issue, or after a resume where that was refused (R226). -/
def readDescriptor (k : Nat) (p : CopyCmd) : Op CopyCmd := do
  match p.kind with
  | .upd a [] gate => do
    let b ← planeRead (p.req k false) k a 128
    let p' := { p with kind := .upd a (b.map (·.1)) gate }
    modify fun s => s.modCopy k p.id fun _ => p'
    pure p'
  | _ => pure p

/-- An UPD whose gate is open begins: a malformed descriptor completes it, otherwise NORM is read once (R226, R229). -/
def beginUpdate (k : Nat) (p0 : CopyCmd) : Op Unit := do
  let p ← readDescriptor k p0
  let o := p.optim
  let gate := match p.kind with
    | .upd _ _ g => g
    | _ => none
  if o.malformed (shapeOf p.dst).fmt then do
    writeStatusWord k p (BitVec.allOnes 64)
    modify fun s => s.copyAll k p.id
  else do
    let go ← gateOpen k p gate
    if !go then pure ()
    else do
      let norm ← (if inHole o.norm 4 then do
          modify fun s => s.tellAccess k p o.norm
          let n ← nextFree
          pure ((Config.freeField n 0).toNat % 2 ^ 32)
        else do
          let b ← planeRead (p.req k false) k o.norm 4
          pure (carriedN b).1)
      let draw ← nextFree
      modify fun s => s.modCopy k p.id fun p =>
        { p with waits := false, consts := o.clipFactor norm :: o.powers draw }

end Sys2Proof.Machine
end

