-- ==== Sys2Proof/Machine/CopyEngine.lean ====
section
/-! DEFINITION. Machine/CopyEngine.lean: the block-transfer engine: the chunks of active copies (R217 to R222, R224), ring pushes
that find room (R220), PUBLISH (R225), and UPD gates (R226). -/

namespace Sys2Proof.Machine

/-! ### What a command must wait for (R99) -/

/-- A command of the copy unit must wait for one that the context issued before it. -/
def State.copyHeld (s : State) (k : Nat) (p : CopyCmd) : Bool :=
  let c := s.core k
  let r := p.ranges c
  !p.lost &&
    ((c.copies.any fun q => q.x == p.x && !q.lost && q.seq < p.seq && q.conflicts c r.2 r.1) ||
      ((c.mq ++ c.mrun.toList).any fun m => m.x == p.x && m.seq < p.seq && !p.feeds m &&
        (let w := m.ranges s
         w.2.any (fun a => (r.1 ++ r.2).any (overlap a)) || w.1.any fun a => r.1.any (overlap a))) ||
      c.treeBefore p.x p.seq)

/-- A core runs, so that its commands go on (R43, R222). -/
def Core.running (c : Core) : Bool := !c.halting

/-! ### The data of a chunk (R219) -/

/-- Entry r of an index list: none where it lies in the hole above the scratchpad. -/
def CopyCmd.index (p : CopyCmd) (k : Nat) (base : Word64) (r : Nat) : Op (Option Nat) := do
  let ea := base + n64 (4 * r)
  if inHole ea 4 then pure none
  else do
    let b ← planeRead (p.req k false) k ea 4
    pure (some (carriedN b).1)

/-- An index that names no row is reported with the address of its entry. -/
def CopyCmd.rowOf (p : CopyCmd) (k : Nat) (base : Word64) (limit r : Nat) : Op (Option Nat) := do
  let i ← p.index k base r
  match i.filter (· < limit) with
  | some j => pure (some j)
  | none => do
    modify fun s => s.tellAccess k p (base + n64 (4 * r))
    pure none

/-- The parts of n packed bytes from `lo` on, row by row: the row, the offset in it, and the length. -/
def rowParts (span : Nat) : Nat → Nat → Nat → List (Nat × Nat × Nat)
  | 0, _, _ => []
  | fuel + 1, lo, n =>
    if n == 0 then []
    else
      let m := min n (span - lo % span)
      (lo / span, lo % span, m) :: rowParts span fuel (lo + m) (n - m)

/-- Part of a source row, or nothing. -/
def CopyCmd.rowBytes (p : CopyCmd) (k : Nat) (row : Option Nat) (off n : Nat) : Op (List (Option Carried)) := do
  let sh := shapeOf p.src
  match row with
  | none => pure (List.replicate n none)
  | some r => do
    let b ← p.read k sh (r * sh.span + off) n
    pure (b.map some)

/-- The source element of a transposed destination element (R219), by its number in packed order. -/
def transposed (sh : Shape) (e : Nat) : Nat :=
  let e0 := sh.extent 0
  let e1 := sh.extent 1
  (e / (e0 * e1) * e0 + e % e0) * e1 + e / e0 % e1

/-- The bytes that COPYT gives n destination bytes from `lo` on. -/
def CopyCmd.transpose (p : CopyCmd) (k lo n : Nat) : Op (List Carried) := do
  let d := shapeOf p.dst
  let w := d.bits
  let src := shapeOf p.src
  if w == 4 then
    mapEach (upTo n) fun i => do
      let a := transposed d (2 * (lo + i))
      let b := transposed d (2 * (lo + i) + 1)
      let x ← p.read k src (a / 2) 1
      let y ← p.read k src (b / 2) 1
      let u := carriedN x
      let v := carriedN y
      let nib := fun (z e : Nat) => if e % 2 == 0 then z % 16 else z / 16
      pure (BitVec.ofNat 8 (nib u.1 a + 16 * nib v.1 b), u.2 || v.2)
  else do
    let m := w / 8
    let ls ← mapEach (upTo (n / m)) fun i => p.read k src (m * transposed d (lo / m + i)) m
    pure ls.flatten

/-- The bytes that a command gives n destination bytes from packed offset `lo` on; none for a byte left untouched. -/
def CopyCmd.fetch (p : CopyCmd) (k lo n : Nat) : Op (List (Option Carried)) := do
  let d := shapeOf p.dst
  let src := shapeOf p.src
  match p.kind with
  | .gather idx => do
    let ls ← mapEach (rowParts d.span n lo n) fun (r, off, m) => do
      let i ← p.rowOf k idx (src.extent 1) r
      p.rowBytes k i off m
    pure ls.flatten
  | .scatter idx => do
    let rows ← mapEach (upTo (src.extent 1)) fun r => p.rowOf k idx (d.extent 1) r
    let last := fun (row : Nat) => ((upTo rows.length).reverse).find? fun r => rows.getD r none == some row
    let ls ← mapEach (rowParts d.span n lo n) fun (r, off, m) => p.rowBytes k (last r) off m
    pure ls.flatten
  | .copyt => do
    let l ← p.transpose k lo n
    pure (l.map some)
  | _ => do
    let l ← p.read k src lo n
    pure (l.map some)

/-- The located pieces of n destination bytes of a command; a ring's lie in scratchpad (R220). -/
def CopyCmd.target (p : CopyCmd) (k lo n : Nat) : Op (List Piece) := do
  match p.kind with
  | .ring g off => do
    let r := ((← get).core k).ringGen g
    let a := (off + lo) % r.size
    let first := min n (r.size - a)
    let at_ := fun (o m : Nat) => (Place.here (scratchBase k + r.base + o), n64 (r.base + o), m)
    pure (if first == n then [at_ a n] else [at_ a first, at_ 0 (n - first)])
  | _ => (shapeOf p.dst).pieces (p.reqFor k (shapeOf p.dst)) accWrite k lo n

/-- The chunk check at the destination (R222, R346): refetches are counted, and a chunk whose third refetch fails as well is
written poisoned with an ECC entry. -/
def crcCheck (ps : List Piece) (l : List (Option Carried)) : Op (List (Option Carried)) := do
  let f := Config.crcFails (← nextFree)
  match ps with
  | (.here pa, _, _) :: _ => do
    forEach (upTo (min f 3)) fun _ => modify fun s => s.count (pdieOf pa) telCRCRETRY
    if f ≥ 4 then do
      modify fun s => s.strataAdd (pdieOf pa) 5 false 0xFF 0xFF (toBytes 8 3 ++ toBytes 8 pa)
      pure (l.map fun b => b.map fun c => (c.1, true))
    else pure l
  | _ => pure l

/-! ### CRED (R98, R219) -/

/-- The sum of two element codes of FP32, FP16, BF16 or INT32. -/
def addCodes (fmt : Nat) (sr : Option Nat) (old operand : Nat) : Nat :=
  if fmt == 0x07 then (old + operand) % 2 ^ 32
  else
    let f := if fmt == 0x01 then fp32 else if fmt == 0x02 then fp16 else bf16
    fpAdd f (f.val old) (f.val operand) (if fmt == 0x03 then sr else none)

/-- Add n bytes of elements at located pieces. -/
def reducePieces (rq : Req) (fmt size : Nat) (sr : Bool) : List Piece → List Carried → Op Unit
  | [], _ => pure ()
  | (p, va, n) :: ps, l => do
    forEach (upTo (n / size)) fun i => do
      let b := carriedN ((l.drop (i * size)).take size)
      let r ← (if sr then do
          let d ← nextFree
          pure (some (Config.randomBits d).toNat)
        else pure none)
      let old ← readCarried rq (va + n64 (i * size)) (p.plus (i * size)) size
      let o := carriedN old
      writeCarried rq (va + n64 (i * size)) (p.plus (i * size)) (carry size (addCodes fmt r o.1 b.1, o.2 || b.2)) true
    reducePieces rq fmt size sr ps (l.drop n)

/-- A chunk of a CRED; one that resolves to a scratchpad through the window is not written and raises ACCESS. Whether the chunk
was written, and whether poisoned. -/
def reduceChunk (k : Nat) (p : CopyCmd) (sr : Bool) (lo n : Nat) : Op (Bool × Bool) := do
  let d := shapeOf p.dst
  let rq := p.reqFor k d
  let l ← p.read k (shapeOf p.src) lo n
  let ps ← d.pieces rq accAtomic k lo n
  let window := ps.find? fun (pl, _, _) => match pl with
    | .here pa => inScratch (offOf pa)
    | .away _ _ => false
  match window with
  | some (_, va, _) => do
    modify fun s => s.tellAccess k p va
    pure (false, false)
  | none => do
    let l' ← crcCheck ps (l.map some)
    let l := l'.map fun b => b.getD (0, false)
    reducePieces rq d.fmt (d.bits / 8) sr ps l
    pure (true, l.any (·.2))

/-! ### Dirty-page copies (R224) -/

/-- The dirty bit of the page at a place, by physical byte and bit. -/
def State.dirtyBit (s : State) (pa : Nat) : Nat × Nat :=
  let pg := programOff (offOf pa) / 65536
  (physOf (pdieOf pa) (s.regN (rDIRTY (pdieOf pa)) + pg / 8), pg % 8)

/-- The first chunk read of a page of a dirty copy: whether the page is to be copied; a dirty one is served with its bit
cleared. -/
def servePage (k : Nat) (p : CopyCmd) (chunk : Nat) : Op Bool := do
  let src := shapeOf p.src
  let va := n64 (src.base + chunk / 128 * 65536)
  if p.served.contains va then pure true
  else do
    let pl ← translate (p.reqFor k src) accRead va
    let dirty ← (match pl with
      | .here pa => do
        let s ← get
        let b := s.dirtyBit pa
        if bitAt (s.byte b.1).toNat b.2 then do
          set (s.write b.1 [s.byte b.1 &&& ~~~BitVec.ofNat 8 (2 ^ b.2)])
          pure true
        else pure false
      | .away _ _ => do
        let n ← nextFree
        pure (bitAt (Config.remoteByte n).toNat 0))
    if dirty then do
      modify fun s => s.modCopy k p.id fun q => { q with served := q.served ++ [va] }
      pure true
    else pure false

/-! ### A chunk -/

/-- The packed size of a command's destination. -/
def CopyCmd.size (p : CopyCmd) : Nat :=
  match p.kind with
  | .ring _ _ => p.pushSize
  | _ => (shapeOf p.dst).size

/-- The bytes of a chunk. -/
def CopyCmd.chunkLen (p : CopyCmd) (chunk : Nat) : Nat := min 512 (p.size - 512 * chunk)

/-- Write a chunk: whether it was written, and whether poisoned. -/
def CopyCmd.transfer (p : CopyCmd) (k chunk : Nat) : Op (Bool × Bool) := do
  let lo := 512 * chunk
  let n := p.chunkLen chunk
  match p.kind with
  | .reduce sr => reduceChunk k p sr lo n
  | .upd _ _ _ => do
    if p.optim.owns chunk then updateChunk k p chunk else pure ()
    pure (true, false)
  | _ => do
    let l ← p.fetch k lo n
    let ps ← p.target k lo n
    let l ← crcCheck ps l
    let sh := shapeOf p.dst
    writePieces (p.reqFor k sh) (match p.kind with
      | .ring _ _ => false
      | _ => sh.space == 0) ps l
    pure (true, l.any fun b => b.any (·.2))

/-- The arrival that a chunk owes (R221). -/
def CopyCmd.arrival (p : CopyCmd) (k chunk : Nat) : Op Unit := do
  match p.bar with
  | none => pure ()
  | some a => do
    let rq := p.req k false
    let d ← barArrive rq k a (.arrive (n64 (p.chunkLen chunk)) (p.bad.contains chunk))
    match d with
    | .inHbm => do
      faultPost (undeliverable rq a)
      modify fun s => s.tellAccess k p a
    | _ => pure ()

/-- What follows a written chunk before its bit is set: its arrival, or the end of an UPD after its last chunk. -/
def CopyCmd.afterChunk (p : CopyCmd) (k chunk : Nat) : Op Unit :=
  match p.kind with
  | .upd _ _ _ => if (upTo p.chunks).all fun c => c == chunk || p.isDone c then finishUpdate k p else pure ()
  | _ => p.arrival k chunk

/-- The chunk that is owed its arrival is done once that has been applied. -/
def settleChunk (k id chunk : Nat) : Op Unit := do
  match (← get).copyCmd k id with
  | none => pure ()
  | some p => do
    let r ← tryOp (p.afterChunk k chunk)
    match r with
    | .ok _ => modify fun s => s.chunksDone k id [chunk]
    | .error ref => parkCopy k id ref

/-- Transfer a chunk that is neither written nor of a clean page. -/
def writeChunk (k : Nat) (p : CopyCmd) (chunk : Nat) : Op Unit := do
  let r ← tryOp (p.transfer k chunk)
  match r with
  | .error ref => parkCopy k p.id ref
  | .ok (written, bad) =>
    if !written then modify fun s => s.chunksDone k p.id [chunk]
    else do
      modify fun s => s.modCopy k p.id fun q =>
        { q with done := fput q.done chunk false, bad := if bad then q.bad ++ [chunk] else q.bad }
      settleChunk k p.id chunk

/-- The chunks of a page of a dirty copy. -/
def pageChunks (chunk : Nat) : List Nat := (upTo 128).map (chunk / 128 * 128 + ·)

/-- The engine can transfer a chunk now. -/
def State.chunkReady (s : State) (k : Nat) (p : CopyCmd) (chunk : Nat) : Bool :=
  (s.core k).running && !p.parked && !p.waits && !p.needImage && chunk < p.chunks && !p.isDone chunk && !s.copyHeld k p

/-- COPY_CHUNK_WRITTEN as an operation. -/
def copyChunk (k id chunk : Nat) : Op Unit := do
  let s ← get
  match (s.copyCmd k id).filter fun p => s.chunkReady k p chunk with
  | none => pure ()
  | some p =>
    if fhas p.done chunk then settleChunk k id chunk
    else if p.kind == .copy true then do
      let r ← tryOp (servePage k p chunk)
      match r with
      | .error ref => parkCopy k id ref
      | .ok true => writeChunk k p chunk
      | .ok false => modify fun s => s.chunksDone k id (pageChunks chunk)
    else writeChunk k p chunk

/-- COPY_CHUNK_WRITTEN: a chunk of an active command is written, its arrival applied, and its bit set. -/
def execCopyChunkWritten (k id chunk : Nat) (s : State) : Host.Outcome State Fault Refusal := runOp (copyChunk k id chunk) s

/-! ### CRING (R220) -/

/-- A pending push has room behind the earlier ones. -/
def Core.hasRoom (c : Core) (p : CopyCmd) (g : Nat) : Bool :=
  (c.ringGen g).fill + ((c.copies.filter fun q => q.pushes g && q.seq < p.seq).map (·.pushSize)).sum + p.pushSize ≤
    (c.ringGen g).size

/-- A push that waits can take its room now. -/
def State.roomReady (s : State) (k : Nat) (p : CopyCmd) : Bool :=
  (s.core k).running && p.waits && match p.kind with
    | .ring g _ => (s.core k).hasRoom p g
    | _ => false

/-- CRING_ROOM: a pending push finds room and begins to write. -/
def execCringRoom (k id : Nat) (s : State) : Host.Outcome State Fault Refusal :=
  match (s.copyCmd k id).filter (s.roomReady k) with
  | some _ => .next (s.modCopy k id fun p => { p with waits := false })
  | none => .next s

/-! ### PUBLISH (R99, R225) -/

/-- The virtual pages of 64 KB that hold a byte of a record. -/
def Shape.vpages (s : Shape) : List Nat :=
  (s.rows.flatMap fun r =>
    let a := wrapN 64 ((s.base : Int) + r)
    (upTo ((a % 65536 + s.span + 65535) / 65536)).map (a / 65536 + ·)).eraseDups

/-- A PUBLISH must wait for the copies issued before it that write its buffer, whole pages, through a shadow record, and, as a
release, for the context's tree-engine operations (R99, R232). -/
def State.publishHeld (s : State) (k : Nat) (p : CopyCmd) : Bool :=
  let c := s.core k
  let buffer := (shapeOf p.dst).vpages
  (c.copies.any fun q => q.x == p.x && q.lost == p.lost && q.seq < p.seq && (shapeOf q.dst).sh &&
    (shapeOf q.dst).vpages.any buffer.contains) || (!p.lost && c.treeBefore p.x p.seq)

/-- The die of a buffer and the leaf entries of its pages, each of which must have a second set. -/
def publishPages (rq : Req) (pages : List Nat) : Op (Option (Nat × List TlbEnt)) := do
  let va := n64 (pages.headD 0 * 65536)
  let e ← ldtLookup (va.toNat / 2 ^ 49)
  let s ← get
  if !bitAt e.toNat 0 then refuse rq accPublish 6 va
  else if fld e.toNat 12 1 != s.moduleNo then do
    modify fun s => { s with fabricOut := s.fabricOut ++
      [{ modl := fld e.toNat 12 1, pdie := fld e.toNat 16 13, asid := rq.asid, va := va, kind := accPublish, data := [] }] }
    pure none
  else
    let d := fld e.toNat 16 13
    match s.dieRefuses d (va.toNat % 2 ^ 49) with
    | some r => refuse rq accPublish r va
    | none => do
      let es ← mapEach pages fun pg => do
        let va := n64 (pg * 65536)
        let t ← tlbLookup rq accPublish d (va.toNat % 2 ^ 49) va
        if t.big || !bitAt t.leaf.toNat 4 then refuse rq accPublish 4 va else pure t
      pure (some (d, es))

/-- Exchange the two sets of a page (R225, R328): SEL in the table and in the TLB. -/
def State.exchange (s : State) (d : Nat) (t : TlbEnt) : State :=
  let s := s.write t.addr (toBytes 8 (s.memN t.addr 8 ^^^ 32))
  s.modDie d fun v => { v with tlb := v.tlb.map fun u =>
    if u.addr == t.addr then { u with leaf := u.leaf ^^^ 32 } else u }

/-- A PUBLISH can perform now. -/
def State.publishReady (s : State) (k : Nat) (p : CopyCmd) : Bool :=
  (s.core k).running && p.kind == .publish && !p.parked && !s.publishHeld k p

/-- PUBLISH_EXCHANGE: the page sets of the buffer are exchanged and the command completes; a page without a second set parks
it. -/
def execPublishExchange (k id : Nat) (s : State) : Host.Outcome State Fault Refusal :=
  match (s.copyCmd k id).filter (s.publishReady k) with
  | none => .next s
  | some p =>
    let op : Op Unit := do
      let r ← tryOp (publishPages (p.req k false) (shapeOf p.dst).vpages)
      match r with
      | .error ref => parkCopy k id ref
      | .ok none => modify fun s => s.copyAll k id
      | .ok (some (d, es)) => modify fun s => (es.foldl (fun s t => s.exchange d t) s).copyAll k id
    runOp op s

/-! ### UPD (R226) -/

/-- An UPD still waits for its gate. -/
def State.updReady (s : State) (k : Nat) (p : CopyCmd) : Bool :=
  (s.core k).running && p.waits && !p.parked && !s.copyHeld k p && match p.kind with
    | .upd _ _ _ => true
    | _ => false

/-- UPD_GATE_OPEN: the phase awaited has completed, and the update engine begins. -/
def execUpdGateOpen (k id : Nat) (s : State) : Host.Outcome State Fault Refusal :=
  match (s.copyCmd k id).filter (s.updReady k) with
  | none => .next s
  | some p =>
    let op : Op Unit := do
      let r ← tryOp (beginUpdate k p)
      match r with
      | .error ref => parkCopy k id ref
      | .ok _ => pure ()
    runOp op s

end Sys2Proof.Machine
end

