-- ==== Sys2Proof/Machine/ScalarInt.lean ====
section
/-! DEFINITION. Machine/ScalarInt.lean: integer arithmetic, compares, selects and constants of the S slot (R130, R136 to R141). -/

namespace Sys2Proof.Machine

/-! ### Results -/

/-- Bits [127:64] of the signed product (R136). -/
def mulhS (a b : Word64) : Word64 := w64 (a.toInt * b.toInt / 2 ^ 64)

/-- Bits [127:64] of the unsigned product. -/
def mulhU (a b : Word64) : Word64 := n64 (a.toNat * b.toNat / 2 ^ 64)

/-- Signed quotient rounded towards zero, with the edges of R137. -/
def divS (a b : Word64) : Word64 := if b = 0 then BitVec.allOnes 64 else w64 (a.toInt.tdiv b.toInt)

/-- Unsigned quotient (R137). -/
def divU (a b : Word64) : Word64 := if b = 0 then BitVec.allOnes 64 else n64 (a.toNat / b.toNat)

/-- Signed remainder with the sign of the dividend (R137). -/
def remS (a b : Word64) : Word64 := if b = 0 then a else w64 (a.toInt.tmod b.toInt)

/-- Unsigned remainder (R137). -/
def remU (a b : Word64) : Word64 := if b = 0 then a else n64 (a.toNat % b.toNat)

/-- Shifts by the low six bits of the second operand (R136). -/
def shlW (a b : Word64) : Word64 := a <<< (b.toNat % 64)
def shrW (a b : Word64) : Word64 := a >>> (b.toNat % 64)
def sraW (a b : Word64) : Word64 := a.sshiftRight (b.toNat % 64)

/-- Minima and maxima (R136). -/
def minS (a b : Word64) : Word64 := if a.toInt ≤ b.toInt then a else b
def maxS (a b : Word64) : Word64 := if a.toInt ≤ b.toInt then b else a
def minU (a b : Word64) : Word64 := if a.toNat ≤ b.toNat then a else b
def maxU (a b : Word64) : Word64 := if a.toNat ≤ b.toNat then b else a

def andnW (a b : Word64) : Word64 := a &&& ~~~b

/-- Leading zero bits; 64 for zero (R139). -/
def clzW (a : Word64) : Word64 := if a = 0 then 64 else n64 (63 - Nat.log2 a.toNat)

/-- Trailing zero bits; 64 for zero. -/
def ctzW (a : Word64) : Word64 := n64 (((upTo 64).find? (bitAt a.toNat)).getD 64)

/-- The number of one bits. -/
def popcW (a : Word64) : Word64 := n64 ((upTo 64).filter (bitAt a.toNat)).length

/-- The integer condition codes (R130). -/
def condHolds (cc : BitVec 4) (a b : Word64) : Bool :=
  match cc.toNat with
  | 0x0 => a == b
  | 0x1 => a != b
  | 0x2 => a.toInt < b.toInt
  | 0x3 => a.toInt ≥ b.toInt
  | 0x4 => a.toInt > b.toInt
  | 0x5 => a.toInt ≤ b.toInt
  | 0x6 => a.toNat < b.toNat
  | 0x7 => a.toNat ≥ b.toNat
  | 0x8 => a.toNat > b.toNat
  | 0x9 => a.toNat ≤ b.toNat
  | _ => false

/-! ### Forms -/

/-- A register-register operation (R136). -/
def aluRR (f : Word64 → Word64 → Word64) (r : RR) : Op Unit := do
  need [srcS r.a r.wa, srcS r.b r.wb]
  writeS r.d (f (← getS r.a) (← getS r.b))

/-- A single-operand operation (R139). -/
def aluRU (f : Word64 → Word64) (r : RU) : Op Unit := do
  need [srcS r.a r.wa]
  writeS r.d (f (← getS r.a))

/-- An immediate form: imm takes the place of S[b] (R138). -/
def aluRI (f : Word64 → Word64 → Word64) (r : RI) : Op Unit := do
  need [srcS r.a r.wa]
  writeS r.d (f (← getS r.a) (r.imm.signExtend 64))

def sNopOp : Op Unit := pure ()
def addOp (r : RR) : Op Unit := aluRR (· + ·) r
def subOp (r : RR) : Op Unit := aluRR (· - ·) r
def mulOp (r : RR) : Op Unit := aluRR (· * ·) r
def mulhOp (r : RR) : Op Unit := aluRR mulhS r
def mulhuOp (r : RR) : Op Unit := aluRR mulhU r
def divOp (r : RR) : Op Unit := aluRR divS r
def divuOp (r : RR) : Op Unit := aluRR divU r
def remOp (r : RR) : Op Unit := aluRR remS r
def remuOp (r : RR) : Op Unit := aluRR remU r
def andOp (r : RR) : Op Unit := aluRR (· &&& ·) r
def orOp (r : RR) : Op Unit := aluRR (· ||| ·) r
def xorOp (r : RR) : Op Unit := aluRR (· ^^^ ·) r
def andnOp (r : RR) : Op Unit := aluRR andnW r
def shlOp (r : RR) : Op Unit := aluRR shlW r
def shrOp (r : RR) : Op Unit := aluRR shrW r
def sraOp (r : RR) : Op Unit := aluRR sraW r
def minOp (r : RR) : Op Unit := aluRR minS r
def maxOp (r : RR) : Op Unit := aluRR maxS r
def minuOp (r : RR) : Op Unit := aluRR minU r
def maxuOp (r : RR) : Op Unit := aluRR maxU r
def clzOp (r : RU) : Op Unit := aluRU clzW r
def ctzOp (r : RU) : Op Unit := aluRU ctzW r
def popcOp (r : RU) : Op Unit := aluRU popcW r
def movOp (r : RU) : Op Unit := aluRU (fun a => a) r

/-- BFX: a zero-extended field (R139). -/
def bfxOp (r : Bfx) : Op Unit := do
  need [srcS r.a r.wa]
  writeS r.d (n64 (fld (← getS r.a).toNat (r.pos.toNat + r.wm1.toNat) r.pos.toNat))

/-- BFI: a field of d replaced by the low bits of a (R139). -/
def bfiOp (r : Bfi) : Op Unit := do
  need [srcS r.a r.wa, srcS r.d r.wd]
  writeS r.d (n64 (putFld (← getS r.d).toNat (r.pos.toNat + r.wm1.toNat) r.pos.toNat (← getS r.a).toNat))

/-- CMP.cc (R140). -/
def cmpOp (cc : BitVec 4) (r : RR) : Op Unit := aluRR (fun a b => n64 (b2n (condHolds cc a b))) r

/-- CSEL (R140): all three sources are read. -/
def cselOp (r : Csel) : Op Unit := do
  need [srcS r.a r.wa, srcS r.b r.wb, srcS r.c r.wc]
  let a ← getS r.a
  let b ← getS r.b
  writeS r.d (if (← getS r.c) != 0 then a else b)

def addImmediateOp (r : RI) : Op Unit := aluRI (· + ·) r
def subImmediateOp (r : RI) : Op Unit := aluRI (· - ·) r
def mulImmediateOp (r : RI) : Op Unit := aluRI (· * ·) r
def andImmediateOp (r : RI) : Op Unit := aluRI (· &&& ·) r
def orImmediateOp (r : RI) : Op Unit := aluRI (· ||| ·) r
def xorImmediateOp (r : RI) : Op Unit := aluRI (· ^^^ ·) r
def andnImmediateOp (r : RI) : Op Unit := aluRI andnW r
def shlImmediateOp (r : RI) : Op Unit := aluRI shlW r
def shrImmediateOp (r : RI) : Op Unit := aluRI shrW r
def sraImmediateOp (r : RI) : Op Unit := aluRI sraW r
def minImmediateOp (r : RI) : Op Unit := aluRI minS r
def maxImmediateOp (r : RI) : Op Unit := aluRI maxS r
def minuImmediateOp (r : RI) : Op Unit := aluRI minU r
def maxuImmediateOp (r : RI) : Op Unit := aluRI maxU r
def cmpImmediateOp (cc : BitVec 4) (r : RI) : Op Unit := aluRI (fun a b => n64 (b2n (condHolds cc a b))) r

/-- The 32-bit immediate of LI, LIH and LA (R141). -/
def imm32 (i31 : Bool) (imm : BitVec 31) : BitVec 32 := BitVec.ofNat 32 (b2n i31 * 2 ^ 31 + imm.toNat)

/-- LI (R141). -/
def liOp (r : Li) : Op Unit := writeS r.d ((imm32 r.i31 r.imm).signExtend 64)

/-- LIH (R141). -/
def lihOp (r : Lih) : Op Unit := do
  need [srcS r.a r.wa]
  writeS r.d (n64 ((imm32 r.i31 r.imm).toNat * 2 ^ 32 + (← getS r.a).toNat % 2 ^ 32))

/-- LA (R141): with M = 1, relative to this bundle's header. -/
def laOp (r : La) : Op Unit := do
  let i := (imm32 r.i31 r.imm).signExtend 64
  let pc := (← get).cur.pc
  writeS r.d (if r.m then pc + i else i)

/-! ### Meanings: each operation performed as an issue of its own -/

def execSNop (s : State) : Host.Outcome State Fault Refusal :=
  slotRun .sNop sNopOp s

def execAdd (r : RR) (s : State) : Host.Outcome State Fault Refusal :=
  slotRun (.add r) (addOp r) s

def execSub (r : RR) (s : State) : Host.Outcome State Fault Refusal :=
  slotRun (.sub r) (subOp r) s

def execMul (r : RR) (s : State) : Host.Outcome State Fault Refusal :=
  slotRun (.mul r) (mulOp r) s

def execMulh (r : RR) (s : State) : Host.Outcome State Fault Refusal :=
  slotRun (.mulh r) (mulhOp r) s

def execMulhu (r : RR) (s : State) : Host.Outcome State Fault Refusal :=
  slotRun (.mulhu r) (mulhuOp r) s

def execDiv (r : RR) (s : State) : Host.Outcome State Fault Refusal :=
  slotRun (.div r) (divOp r) s

def execDivu (r : RR) (s : State) : Host.Outcome State Fault Refusal :=
  slotRun (.divu r) (divuOp r) s

def execRem (r : RR) (s : State) : Host.Outcome State Fault Refusal :=
  slotRun (.rem r) (remOp r) s

def execRemu (r : RR) (s : State) : Host.Outcome State Fault Refusal :=
  slotRun (.remu r) (remuOp r) s

def execAnd (r : RR) (s : State) : Host.Outcome State Fault Refusal :=
  slotRun (.and r) (andOp r) s

def execOr (r : RR) (s : State) : Host.Outcome State Fault Refusal :=
  slotRun (.or r) (orOp r) s

def execXor (r : RR) (s : State) : Host.Outcome State Fault Refusal :=
  slotRun (.xor r) (xorOp r) s

def execAndn (r : RR) (s : State) : Host.Outcome State Fault Refusal :=
  slotRun (.andn r) (andnOp r) s

def execShl (r : RR) (s : State) : Host.Outcome State Fault Refusal :=
  slotRun (.shl r) (shlOp r) s

def execShr (r : RR) (s : State) : Host.Outcome State Fault Refusal :=
  slotRun (.shr r) (shrOp r) s

def execSra (r : RR) (s : State) : Host.Outcome State Fault Refusal :=
  slotRun (.sra r) (sraOp r) s

def execMin (r : RR) (s : State) : Host.Outcome State Fault Refusal :=
  slotRun (.min r) (minOp r) s

def execMax (r : RR) (s : State) : Host.Outcome State Fault Refusal :=
  slotRun (.max r) (maxOp r) s

def execMinu (r : RR) (s : State) : Host.Outcome State Fault Refusal :=
  slotRun (.minu r) (minuOp r) s

def execMaxu (r : RR) (s : State) : Host.Outcome State Fault Refusal :=
  slotRun (.maxu r) (maxuOp r) s

def execClz (r : RU) (s : State) : Host.Outcome State Fault Refusal :=
  slotRun (.clz r) (clzOp r) s

def execCtz (r : RU) (s : State) : Host.Outcome State Fault Refusal :=
  slotRun (.ctz r) (ctzOp r) s

def execPopc (r : RU) (s : State) : Host.Outcome State Fault Refusal :=
  slotRun (.popc r) (popcOp r) s

def execMov (r : RU) (s : State) : Host.Outcome State Fault Refusal :=
  slotRun (.mov r) (movOp r) s

def execBfx (r : Bfx) (s : State) : Host.Outcome State Fault Refusal :=
  slotRun (.bfx r) (bfxOp r) s

def execBfi (r : Bfi) (s : State) : Host.Outcome State Fault Refusal :=
  slotRun (.bfi r) (bfiOp r) s

def execCmp (cc : BitVec 4) (r : RR) (s : State) : Host.Outcome State Fault Refusal :=
  slotRun (.cmp cc r) (cmpOp cc r) s

def execCsel (r : Csel) (s : State) : Host.Outcome State Fault Refusal :=
  slotRun (.csel r) (cselOp r) s

def execAddImmediate (r : RI) (s : State) : Host.Outcome State Fault Refusal :=
  slotRun (.addImmediate r) (addImmediateOp r) s

def execSubImmediate (r : RI) (s : State) : Host.Outcome State Fault Refusal :=
  slotRun (.subImmediate r) (subImmediateOp r) s

def execMulImmediate (r : RI) (s : State) : Host.Outcome State Fault Refusal :=
  slotRun (.mulImmediate r) (mulImmediateOp r) s

def execAndImmediate (r : RI) (s : State) : Host.Outcome State Fault Refusal :=
  slotRun (.andImmediate r) (andImmediateOp r) s

def execOrImmediate (r : RI) (s : State) : Host.Outcome State Fault Refusal :=
  slotRun (.orImmediate r) (orImmediateOp r) s

def execXorImmediate (r : RI) (s : State) : Host.Outcome State Fault Refusal :=
  slotRun (.xorImmediate r) (xorImmediateOp r) s

def execAndnImmediate (r : RI) (s : State) : Host.Outcome State Fault Refusal :=
  slotRun (.andnImmediate r) (andnImmediateOp r) s

def execShlImmediate (r : RI) (s : State) : Host.Outcome State Fault Refusal :=
  slotRun (.shlImmediate r) (shlImmediateOp r) s

def execShrImmediate (r : RI) (s : State) : Host.Outcome State Fault Refusal :=
  slotRun (.shrImmediate r) (shrImmediateOp r) s

def execSraImmediate (r : RI) (s : State) : Host.Outcome State Fault Refusal :=
  slotRun (.sraImmediate r) (sraImmediateOp r) s

def execMinImmediate (r : RI) (s : State) : Host.Outcome State Fault Refusal :=
  slotRun (.minImmediate r) (minImmediateOp r) s

def execMaxImmediate (r : RI) (s : State) : Host.Outcome State Fault Refusal :=
  slotRun (.maxImmediate r) (maxImmediateOp r) s

def execMinuImmediate (r : RI) (s : State) : Host.Outcome State Fault Refusal :=
  slotRun (.minuImmediate r) (minuImmediateOp r) s

def execMaxuImmediate (r : RI) (s : State) : Host.Outcome State Fault Refusal :=
  slotRun (.maxuImmediate r) (maxuImmediateOp r) s

def execCmpImmediate (cc : BitVec 4) (r : RI) (s : State) : Host.Outcome State Fault Refusal :=
  slotRun (.cmpImmediate cc r) (cmpImmediateOp cc r) s

def execLi (r : Li) (s : State) : Host.Outcome State Fault Refusal :=
  slotRun (.li r) (liOp r) s

def execLih (r : Lih) (s : State) : Host.Outcome State Fault Refusal :=
  slotRun (.lih r) (lihOp r) s

def execLa (r : La) (s : State) : Host.Outcome State Fault Refusal :=
  slotRun (.la r) (laOp r) s

end Sys2Proof.Machine
end

