-- ==== Sys2Proof/Machine/ScalarControl.lean ====
section
/-! DEFINITION. Machine/ScalarControl.lean: branches and calls (R124, R142, R143). A branch takes effect after the last slot of
its issue; whether its target is a header is found when the target is fetched (R124). -/

namespace Sys2Proof.Machine

/-- Take a branch at the end of the issue, disarming every slot where `dis` (R122, R142). -/
def branchTo (t : Word64) (dis : Bool) : Op Unit := modCur fun k => { k with target := some t, disarm := dis }

/-- The target of a relative form: this bundle's header + 4 x offset (R142). -/
def relTarget (pc : Word64) (off : BitVec 31) : Word64 := pc + 4 * off.signExtend 64

/-- BR (R142). -/
def brOp (r : Br) : Op Unit := do
  branchTo (relTarget (← get).cur.pc r.off) r.dis

/-- CALL (R142). -/
def callOp (r : Call) : Op Unit := do
  let k := (← get).cur
  writeS r.d k.next
  branchTo (relTarget k.pc r.off) r.dis

/-- BC.cc (R142). -/
def bcOp (cc : BitVec 4) (r : Bc) : Op Unit := do
  need [srcS r.a r.wa, srcS r.b r.wb]
  if condHolds cc (← getS r.a) (← getS r.b) then branchTo (relTarget (← get).cur.pc r.off) false else pure ()

/-- JR (R143). -/
def jrOp (r : Jr) : Op Unit := do
  need [srcS r.a r.wa]
  branchTo (← getS r.a) false

/-- CALLR (R143): the target is read at the start of the issue. -/
def callrOp (r : Callr) : Op Unit := do
  need [srcS r.a r.wa]
  writeS r.d (← get).cur.next
  branchTo (← getS r.a) false

/-- RET (R143). -/
def retOp (r : Jr) : Op Unit := do
  need [srcS r.a r.wa]
  branchTo (← getS r.a) false

/-! ### Meanings: each operation performed as an issue of its own -/

def execBr (r : Br) (s : State) : Host.Outcome State Fault Refusal :=
  slotRun (.br r) (brOp r) s

def execCall (r : Call) (s : State) : Host.Outcome State Fault Refusal :=
  slotRun (.call r) (callOp r) s

def execBc (cc : BitVec 4) (r : Bc) (s : State) : Host.Outcome State Fault Refusal :=
  slotRun (.bc cc r) (bcOp cc r) s

def execJr (r : Jr) (s : State) : Host.Outcome State Fault Refusal :=
  slotRun (.jr r) (jrOp r) s

def execCallr (r : Callr) (s : State) : Host.Outcome State Fault Refusal :=
  slotRun (.callr r) (callrOp r) s

def execRet (r : Jr) (s : State) : Host.Outcome State Fault Refusal :=
  slotRun (.ret r) (retOp r) s

end Sys2Proof.Machine
end

