-- ==== Sys2Proof/Machine/ScalarMem.lean ====
section
/-! DEFINITION. Machine/ScalarMem.lean: scalar loads and stores (R134, R135, R144, R145) and atomics (R146 to R150). -/

namespace Sys2Proof.Machine

/-- The slot word of an instruction, for tinfo (R48). -/
def slotWord (i : Instr) : Word64 := n64 ((encode i).headD 0)

/-- The effective address of a scalar memory form at the issue index (R134). -/
def scalarAddr (a : BitVec 6) (disp : BitVec 15) (stride : BitVec 13) : Op Word64 := do
  let k := (← get).cur.k
  pure (effAddr (← getS a) (disp.signExtend 64) (stride.signExtend 64) k)

/-- Send an s register the value that a load read, through its token (R135). -/
def deliverS (d : BitVec 6) (cls : Nat) (ea v : Word64) (bad : Bool) : Op Unit := do
  let tok ← markEmpty false d.toNat
  let k := (← get).cur
  if d == 0 && !bad then pure ()
  else sendValue { tok := tok, isV := false, reg := d.toNat, val := v.zeroExtend 1024, poison := bad, pc := k.pc,
                   slot := k.slot, va := ea, src := 0, cls := cls }

/-- A load of n bytes, sign- or zero-extended (R144). -/
def loadOp (n : Nat) (signed : Bool) (r : Ld) : Op Unit := do
  need [srcS r.a r.wa]
  let ea ← scalarAddr r.a r.disp r.stride
  checkHole ea
  checkAlign ea n
  awaitEngines
  let b ← loadBytes 0 r.cls.toNat ea n
  let v := ofBytes b.1
  deliverS r.d r.cls.toNat ea (if signed then w64 (sgn (8 * n) v) else n64 v) b.2

/-- A store of n bytes into the store gate (R126, R144); the context's queued engine operations come first (R99, R232, R261). -/
def storeOp (n : Nat) (r : St) : Op Unit := do
  need [srcS r.a r.wa, srcS r.d r.wd]
  let ea ← scalarAddr r.a r.disp r.stride
  checkHole ea
  checkAlign ea n
  awaitEngines
  gateStore 0 r.cls.toNat [(ea, toBytes n (← getS r.d).toNat)]

def ldBOp (r : Ld) : Op Unit := loadOp 1 true r
def ldBuOp (r : Ld) : Op Unit := loadOp 1 false r
def ldHOp (r : Ld) : Op Unit := loadOp 2 true r
def ldHuOp (r : Ld) : Op Unit := loadOp 2 false r
def ldWOp (r : Ld) : Op Unit := loadOp 4 true r
def ldWuOp (r : Ld) : Op Unit := loadOp 4 false r
def ldDOp (r : Ld) : Op Unit := loadOp 8 true r
def stBOp (r : St) : Op Unit := storeOp 1 r
def stHOp (r : St) : Op Unit := storeOp 2 r
def stWOp (r : St) : Op Unit := storeOp 4 r
def stDOp (r : St) : Op Unit := storeOp 8 r

/-- An atomic at its issue (R146): its operands are read and its address is checked, the destination is marked empty, and the
operation is set to perform at the mark that ends the issue. A misaligned core-local target of an adder raises ALIGN, not ACCESS
(DESIGN CHOICE, log 23). -/
def atomicIssue (kind : AtomicKind) (ea a b : Word64) (d : BitVec 6) (cls : BitVec 3) : Op Unit := do
  checkHole ea
  checkAlign ea (kind.size b)
  match kind.adder, classify ea with
  | true, .scratch _ => trapAt cACCESS ea
  | _, _ => do
    awaitEngines
    let tok ← markEmpty false d.toNat
    modCur fun k => { k with atEnd := some (.atomic kind ea a b d.toNat tok cls.toNat) }

/-- ATOP and ATSWP (R147): the operand is S[d]. -/
def atOp (kind : AtomicKind) (r : At) : Op Unit := do
  need [srcS r.a r.wa, srcS r.d r.wd]
  let ea ← scalarAddr r.a r.disp r.stride
  atomicIssue kind ea (← getS r.d) 0 r.d r.cls

def atopAddOp (r : At) : Op Unit := atOp .add r
def atopAndOp (r : At) : Op Unit := atOp .and r
def atopOrOp (r : At) : Op Unit := atOp .or r
def atopXorOp (r : At) : Op Unit := atOp .xor r
def atopMinOp (r : At) : Op Unit := atOp .min r
def atopMaxOp (r : At) : Op Unit := atOp .max r
def atopSubOp (r : At) : Op Unit := atOp .sub r
def atswpOp (r : At) : Op Unit := atOp .swap r

/-- ATCAS (R148): S[d] is the expected value, S[d + 1] the new one. -/
def atcasOp (r : Ato) : Op Unit := do
  need [srcS r.a r.wa, srcS r.d r.wd, srcS (r.d + 1) r.wd]
  let ea ← scalarAddr r.a r.disp r.stride
  atomicIssue .cas ea (← getS r.d) (← getS (r.d + 1)) r.d r.cls

/-- ATFADD (R149): S[d + 1][1:0] selects the format; 3 is ILLEGAL. -/
def atfaddOp (r : Ato) : Op Unit := do
  need [srcS r.a r.wa, srcS r.d r.wd, srcS (r.d + 1) r.wd]
  let b ← getS (r.d + 1)
  if fld b.toNat 1 0 == 3 then trapAt cILLEGAL (slotWord (.atfadd r))
  else do
    let ea ← scalarAddr r.a r.disp r.stride
    atomicIssue (.fadd r.opt) ea (← getS r.d) b r.d r.cls

/-- ATADDS (R150): S[d + 1] holds the incoming tag and the format; a format of 2 or 3, or an UNSET tag, is ILLEGAL. Its
bits [63:10] are ignored (DESIGN CHOICE, log 23). -/
def ataddsOp (r : At) : Op Unit := do
  need [srcS r.a r.wa, srcS r.d r.wd, srcS (r.d + 1) r.wd]
  let b ← getS (r.d + 1)
  if fld b.toNat 9 8 ≥ 2 || fld b.toNat 7 0 == 0x80 then trapAt cILLEGAL (slotWord (.atadds r))
  else do
    let ea ← scalarAddr r.a r.disp r.stride
    atomicIssue .adds ea (← getS r.d) b r.d r.cls

/-! ### Meanings: each operation performed as an issue of its own -/

def execLdB (r : Ld) (s : State) : Host.Outcome State Fault Refusal :=
  slotRun (.ldB r) (ldBOp r) s

def execLdBu (r : Ld) (s : State) : Host.Outcome State Fault Refusal :=
  slotRun (.ldBu r) (ldBuOp r) s

def execLdH (r : Ld) (s : State) : Host.Outcome State Fault Refusal :=
  slotRun (.ldH r) (ldHOp r) s

def execLdHu (r : Ld) (s : State) : Host.Outcome State Fault Refusal :=
  slotRun (.ldHu r) (ldHuOp r) s

def execLdW (r : Ld) (s : State) : Host.Outcome State Fault Refusal :=
  slotRun (.ldW r) (ldWOp r) s

def execLdWu (r : Ld) (s : State) : Host.Outcome State Fault Refusal :=
  slotRun (.ldWu r) (ldWuOp r) s

def execLdD (r : Ld) (s : State) : Host.Outcome State Fault Refusal :=
  slotRun (.ldD r) (ldDOp r) s

def execStB (r : St) (s : State) : Host.Outcome State Fault Refusal :=
  slotRun (.stB r) (stBOp r) s

def execStH (r : St) (s : State) : Host.Outcome State Fault Refusal :=
  slotRun (.stH r) (stHOp r) s

def execStW (r : St) (s : State) : Host.Outcome State Fault Refusal :=
  slotRun (.stW r) (stWOp r) s

def execStD (r : St) (s : State) : Host.Outcome State Fault Refusal :=
  slotRun (.stD r) (stDOp r) s

def execAtopAdd (r : At) (s : State) : Host.Outcome State Fault Refusal :=
  slotRun (.atopAdd r) (atopAddOp r) s

def execAtopAnd (r : At) (s : State) : Host.Outcome State Fault Refusal :=
  slotRun (.atopAnd r) (atopAndOp r) s

def execAtopOr (r : At) (s : State) : Host.Outcome State Fault Refusal :=
  slotRun (.atopOr r) (atopOrOp r) s

def execAtopXor (r : At) (s : State) : Host.Outcome State Fault Refusal :=
  slotRun (.atopXor r) (atopXorOp r) s

def execAtopMin (r : At) (s : State) : Host.Outcome State Fault Refusal :=
  slotRun (.atopMin r) (atopMinOp r) s

def execAtopMax (r : At) (s : State) : Host.Outcome State Fault Refusal :=
  slotRun (.atopMax r) (atopMaxOp r) s

def execAtopSub (r : At) (s : State) : Host.Outcome State Fault Refusal :=
  slotRun (.atopSub r) (atopSubOp r) s

def execAtswp (r : At) (s : State) : Host.Outcome State Fault Refusal :=
  slotRun (.atswp r) (atswpOp r) s

def execAtcas (r : Ato) (s : State) : Host.Outcome State Fault Refusal :=
  slotRun (.atcas r) (atcasOp r) s

def execAtfadd (r : Ato) (s : State) : Host.Outcome State Fault Refusal :=
  slotRun (.atfadd r) (atfaddOp r) s

def execAtadds (r : At) (s : State) : Host.Outcome State Fault Refusal :=
  slotRun (.atadds r) (ataddsOp r) s

end Sys2Proof.Machine
end

