-- ==== Sys2Proof/Machine/Lanes.lean ====
section
/-! DEFINITION. Machine/Lanes.lean: lanes and predicates of the vector registers (R159), shared by the vector families. -/

namespace Sys2Proof.Machine

/-- Lane bytes of a width code (R117): b 1, h 2, w 4, d 8. -/
def laneN (w : BitVec 2) : Nat := 2 ^ w.toNat

/-- `count` elements of `bits` bits, lowest first. -/
def elemsOf (bits count v : Nat) : List Nat := (upTo count).map fun i => v / 2 ^ (bits * i) % 2 ^ bits

/-- The number whose elements of `bits` bits are given, lowest first. -/
def ofElems (bits : Nat) (l : List Nat) : Nat := l.foldr (fun v acc => v % 2 ^ bits + 2 ^ bits * acc) 0

/-- The lanes of n bytes of a register (R159). -/
def lanesOf (n : Nat) (v : VReg) : List Nat := elemsOf (8 * n) (128 / n) v.toNat

/-- Lane i of n bytes is active (R159). -/
def laneActive (p : PReg) (n i : Nat) : Bool := bitAt p.toNat (n * i)

/-- The lanes with their numbers and whether they are active. -/
def lanesWith (p : PReg) (n : Nat) (l : List Nat) : List (Nat × Bool × Nat) :=
  (upTo l.length).zip l |>.map fun (i, v) => (i, laneActive p n i, v)

/-- A register whose active lanes hold new values and whose inactive lanes hold old ones (R159). -/
def mergeLanes (p : PReg) (n : Nat) (old : VReg) (new : List Nat) : VReg :=
  BitVec.ofNat 1024 (ofElems (8 * n) ((lanesWith p n new).zip (lanesOf n old) |>.map fun ((_, a, v), o) => if a then v else o))

/-- Write the active lanes of v_d; inactive lanes keep the value at the start of the issue (R121, R159). -/
def writeLanes (d : BitVec 9) (p : PReg) (n : Nat) (new : List Nat) : Op Unit := do
  let old ← getV d
  writeV d (mergeLanes p n old new)

/-- Write the active lanes of p_d: all n bits of a lane together (R159). -/
def writePLanes (d : BitVec 9) (p : PReg) (n : Nat) (new : List Bool) : Op Unit := do
  let pd : BitVec 4 := d.truncate 4
  let old ← getP pd
  let bits := (lanesWith p n (new.map b2n)).map fun (i, a, v) =>
    if a then v * (2 ^ n - 1) else fld old.toNat (n * i + n - 1) (n * i)
  writeP pd (BitVec.ofNat 128 (ofElems n bits))

/-- The OR of the flags of the active lanes, where each lane has a code and flags. -/
def activeFlags (p : PReg) (n : Nat) (l : List Flagged) : Nat :=
  ((upTo l.length).zip l).foldl (fun acc (i, r) => if laneActive p n i then acc ||| r.2 else acc) 0

/-- Deliver lane results with their flags (R67). -/
def deliverFp (d : BitVec 9) (p : PReg) (n : Nat) (l : List Flagged) : Op Unit :=
  raiseFlags (activeFlags p n l) (writeLanes d p n (l.map (·.1)))

/-- Apply a function to active lanes only. -/
def onActive (p : PReg) (n : Nat) (l : List Nat) (f : Nat → Flagged) : List Flagged :=
  (lanesWith p n l).map fun (_, a, v) => if a then f v else (0, 0)

/-- Apply a function to the active pairs of lanes. -/
def onActive2 (p : PReg) (n : Nat) (l m : List Nat) (f : Nat → Nat → Flagged) : List Flagged :=
  ((lanesWith p n l).zip m).map fun ((_, a, v), w) => if a then f v w else (0, 0)

end Sys2Proof.Machine
end

