-- ==== Sys2Proof/Machine/VectorInt.lean ====
section
/-! DEFINITION. Machine/VectorInt.lean: integer arithmetic, compares and predicate operations of the vector slots (R162, R165,
R166). -/

namespace Sys2Proof.Machine

/-- A value limited to [lo, hi]. -/
def clampI (lo hi i : Int) : Int := if i < lo then lo else if i > hi then hi else i

/-- A lane result of an addition or subtraction: saturated to the signed or unsigned range, or wrapped (R162). -/
def addLane (sat u : Bool) (op : Int → Int → Int) (bits a b : Nat) : Nat :=
  if sat && u then wrapN bits (clampI 0 ((2 ^ bits : Nat) - 1) (op a b))
  else if sat then wrapN bits (clampI (-(2 ^ (bits - 1) : Nat)) ((2 ^ (bits - 1) : Nat) - 1) (op (sgn bits a) (sgn bits b)))
  else wrapN bits (op a b)

/-- Bits [2n - 1 : n] of the product (R162). -/
def mulhLane (u : Bool) (bits a b : Nat) : Nat :=
  if u then a * b / 2 ^ bits else wrapN bits (sgn bits a * sgn bits b / (2 ^ bits : Nat))

/-- A lane is below another, signed or unsigned. -/
def laneLt (u : Bool) (bits a b : Nat) : Bool := if u then a < b else sgn bits a < sgn bits b

/-- |a|, with SAT at the most negative value (R162). -/
def absLane (sat : Bool) (bits a : Nat) : Nat :=
  let i := sgn bits a
  if sat && i == -(2 ^ (bits - 1) : Nat) then 2 ^ (bits - 1) - 1 else wrapN bits i.natAbs

/-- A two-operand integer form (R162); the function takes the lane width in bits. -/
def vint2 (f : Nat → Nat → Nat → Nat) (r : VF) : Op Unit := do
  need [srcV r.a r.wa, srcV r.b r.wb]
  let n := laneN r.w
  let a := lanesOf n (← getV r.a)
  let b := lanesOf n (← getV r.b)
  writeLanes r.d (← getP r.p) n (List.zipWith (f (8 * n)) a b)

/-- U (R162). -/
def vfU (r : VF) : Bool := r.sub.getLsbD 0

def vaddOp (r : VF) : Op Unit := vint2 (addLane r.sat (vfU r) (· + ·)) r
def vsubOp (r : VF) : Op Unit := vint2 (addLane r.sat (vfU r) (· - ·)) r
def vmulOp (r : VF) : Op Unit := vint2 (fun bits a b => a * b % 2 ^ bits) r
def vmulhOp (r : VF) : Op Unit := vint2 (mulhLane (vfU r)) r
def vminOp (r : VF) : Op Unit := vint2 (fun bits a b => if laneLt (vfU r) bits b a then b else a) r
def vmaxOp (r : VF) : Op Unit := vint2 (fun bits a b => if laneLt (vfU r) bits a b then b else a) r
def vandOp (r : VF) : Op Unit := vint2 (fun _ a b => a &&& b) r
def vorOp (r : VF) : Op Unit := vint2 (fun _ a b => a ||| b) r
def vxorOp (r : VF) : Op Unit := vint2 (fun _ a b => a ^^^ b) r
def vandnOp (r : VF) : Op Unit := vint2 (fun bits a b => a &&& ((2 ^ bits - 1) ^^^ b)) r
def vshlOp (r : VF) : Op Unit := vint2 (fun bits a b => a * 2 ^ (b % bits) % 2 ^ bits) r
def vshrOp (r : VF) : Op Unit := vint2 (fun bits a b => a / 2 ^ (b % bits)) r
def vsraOp (r : VF) : Op Unit := vint2 (fun bits a b => wrapN bits (sgn bits a / (2 ^ (b % bits) : Nat))) r

/-- VABS (R162). -/
def vabsOp (r : VF) : Op Unit := do
  need [srcV r.a r.wa]
  let n := laneN r.w
  writeLanes r.d (← getP r.p) n ((lanesOf n (← getV r.a)).map (absLane r.sat (8 * n)))

/-- An integer condition on two lanes (R130, R165). -/
def laneCond (cc : BitVec 4) (bits a b : Nat) : Bool :=
  match cc.toNat with
  | 0x0 => a == b
  | 0x1 => a != b
  | 0x2 => sgn bits a < sgn bits b
  | 0x3 => sgn bits a ≥ sgn bits b
  | 0x4 => sgn bits a > sgn bits b
  | 0x5 => sgn bits a ≤ sgn bits b
  | 0x6 => a < b
  | 0x7 => a ≥ b
  | 0x8 => a > b
  | 0x9 => a ≤ b
  | _ => false

/-- VCMP.cc (R165). -/
def vcmpOp (cc : BitVec 4) (r : VF) : Op Unit := do
  need [srcV r.a r.wa, srcV r.b r.wb]
  let n := laneN r.w
  let a := lanesOf n (← getV r.a)
  let b := lanesOf n (← getV r.b)
  writePLanes r.d (← getP r.p) n (List.zipWith (laneCond cc (8 * n)) a b)

/-! ### Predicate operations (R166) -/

/-- A p register named by a 9-bit field. -/
def pField (r : BitVec 9) : BitVec 4 := r.truncate 4

/-- An s register named by a 9-bit field. -/
def sField (r : BitVec 9) : BitVec 6 := r.truncate 6

def vNopOp : Op Unit := pure ()
def pandOp (r : VF) : Op Unit := do
  writeP (pField r.d) ((← getP (pField r.a)) &&& (← getP (pField r.b)))
def porOp (r : VF) : Op Unit := do
  writeP (pField r.d) ((← getP (pField r.a)) ||| (← getP (pField r.b)))
def pxorOp (r : VF) : Op Unit := do
  writeP (pField r.d) ((← getP (pField r.a)) ^^^ (← getP (pField r.b)))
def pnotOp (r : VF) : Op Unit := do
  writeP (pField r.d) (~~~(← getP (pField r.a)))

/-- The lanes of a predicate that are set. -/
def lanesSet (p : PReg) (n : Nat) : List Nat := (upTo (128 / n)).filter (laneActive p n)

/-- PPOP (R166). -/
def ppopOp (r : VF) : Op Unit := do
  writeS (sField r.d) (n64 (lanesSet (← getP (pField r.a)) (laneN r.w)).length)

/-- PFIRST (R166). -/
def pfirstOp (r : VF) : Op Unit := do
  writeS (sField r.d) (n64 ((lanesSet (← getP (pField r.a)) (laneN r.w)).headD (128 / laneN r.w)))

/-! ### Meanings: each operation performed as an issue of its own -/

def execVadd (r : VF) (s : State) : Host.Outcome State Fault Refusal :=
  slotRun (.vadd r) (vaddOp r) s

def execVsub (r : VF) (s : State) : Host.Outcome State Fault Refusal :=
  slotRun (.vsub r) (vsubOp r) s

def execVmul (r : VF) (s : State) : Host.Outcome State Fault Refusal :=
  slotRun (.vmul r) (vmulOp r) s

def execVmulh (r : VF) (s : State) : Host.Outcome State Fault Refusal :=
  slotRun (.vmulh r) (vmulhOp r) s

def execVmin (r : VF) (s : State) : Host.Outcome State Fault Refusal :=
  slotRun (.vmin r) (vminOp r) s

def execVmax (r : VF) (s : State) : Host.Outcome State Fault Refusal :=
  slotRun (.vmax r) (vmaxOp r) s

def execVand (r : VF) (s : State) : Host.Outcome State Fault Refusal :=
  slotRun (.vand r) (vandOp r) s

def execVor (r : VF) (s : State) : Host.Outcome State Fault Refusal :=
  slotRun (.vor r) (vorOp r) s

def execVxor (r : VF) (s : State) : Host.Outcome State Fault Refusal :=
  slotRun (.vxor r) (vxorOp r) s

def execVandn (r : VF) (s : State) : Host.Outcome State Fault Refusal :=
  slotRun (.vandn r) (vandnOp r) s

def execVshl (r : VF) (s : State) : Host.Outcome State Fault Refusal :=
  slotRun (.vshl r) (vshlOp r) s

def execVshr (r : VF) (s : State) : Host.Outcome State Fault Refusal :=
  slotRun (.vshr r) (vshrOp r) s

def execVsra (r : VF) (s : State) : Host.Outcome State Fault Refusal :=
  slotRun (.vsra r) (vsraOp r) s

def execVabs (r : VF) (s : State) : Host.Outcome State Fault Refusal :=
  slotRun (.vabs r) (vabsOp r) s

def execVcmp (cc : BitVec 4) (r : VF) (s : State) : Host.Outcome State Fault Refusal :=
  slotRun (.vcmp cc r) (vcmpOp cc r) s

def execVNop (s : State) : Host.Outcome State Fault Refusal :=
  slotRun .vNop vNopOp s

def execPand (r : VF) (s : State) : Host.Outcome State Fault Refusal :=
  slotRun (.pand r) (pandOp r) s

def execPor (r : VF) (s : State) : Host.Outcome State Fault Refusal :=
  slotRun (.por r) (porOp r) s

def execPxor (r : VF) (s : State) : Host.Outcome State Fault Refusal :=
  slotRun (.pxor r) (pxorOp r) s

def execPnot (r : VF) (s : State) : Host.Outcome State Fault Refusal :=
  slotRun (.pnot r) (pnotOp r) s

def execPpop (r : VF) (s : State) : Host.Outcome State Fault Refusal :=
  slotRun (.ppop r) (ppopOp r) s

def execPfirst (r : VF) (s : State) : Host.Outcome State Fault Refusal :=
  slotRun (.pfirst r) (pfirstOp r) s

end Sys2Proof.Machine
end

