-- ==== Sys2Proof/Machine/VectorFloat.lean ====
section
/-! DEFINITION. Machine/VectorFloat.lean: floating-point arithmetic and compares of the vector slots (R163 to R165), conversions
(R167, R168) and shared-exponent blocks (R169). -/

namespace Sys2Proof.Machine

/-- The format of a floating-point form (R163). -/
def vfFmt (r : VF) : Fmt := if r.w == 2 then fp32 else if r.sub.getLsbD 0 then bf16 else fp16

/-- A single-operand form (R163). -/
def vfp1 (f : Fmt → Bool → Nat → FVal → Flagged) (r : VF) : Op Unit := do
  need [srcV r.a r.wa]
  let n := laneN r.w
  let rm ← getRM
  let p ← getP r.p
  let t := vfFmt r
  deliverFp r.d p n (onActive p n (lanesOf n (← getV r.a)) fun a => f t r.fo rm (t.valI r.fi a))

/-- A two-operand form (R163). -/
def vfp2 (f : Fmt → Bool → Nat → FVal → FVal → Flagged) (r : VF) : Op Unit := do
  need [srcV r.a r.wa, srcV r.b r.wb]
  let n := laneN r.w
  let rm ← getRM
  let p ← getP r.p
  let t := vfFmt r
  let a := lanesOf n (← getV r.a)
  let b := lanesOf n (← getV r.b)
  deliverFp r.d p n (onActive2 p n a b fun a b => f t r.fo rm (t.valI r.fi a) (t.valI r.fi b))

/-- A fused form (R163): a x b + c, with c negated where `sub`. -/
def vfma3 (sub : Bool) (r : VF) : Op Unit := do
  need [srcV r.a r.wa, srcV r.b r.wb, srcV r.c r.wc]
  let n := laneN r.w
  let rm ← getRM
  let p ← getP r.p
  let t := vfFmt r
  let a := lanesOf n (← getV r.a)
  let b := lanesOf n (← getV r.b)
  let c := lanesOf n (← getV r.c)
  let l := (lanesWith p n a).zip (b.zip c) |>.map fun ((_, act, x), y, z) =>
    if act then
      let v := t.valI r.fi z
      t.fma r.fo rm (t.valI r.fi x) (t.valI r.fi y) (if sub then v.negate else v)
    else (0, 0)
  deliverFp r.d p n l

def vfaddOp (r : VF) : Op Unit := vfp2 (fun t fo rm a b => t.add fo rm a b) r
def vfsubOp (r : VF) : Op Unit := vfp2 (fun t fo rm a b => t.add fo rm a b.negate) r
def vfmulOp (r : VF) : Op Unit := vfp2 (fun t fo rm a b => t.mul fo rm a b) r
def vfmaOp (r : VF) : Op Unit := vfma3 false r
def vfmsOp (r : VF) : Op Unit := vfma3 true r
def vfminOp (r : VF) : Op Unit := vfp2 (fun t fo rm a b => t.minmax false fo rm a b) r
def vfmaxOp (r : VF) : Op Unit := vfp2 (fun t fo rm a b => t.minmax true fo rm a b) r
def vrcpOp (r : VF) : Op Unit := vfp1 Fmt.rcp r
def vrsqOp (r : VF) : Op Unit := vfp1 Fmt.rsq r
def vexp2Op (r : VF) : Op Unit := vfp1 Fmt.exp2 r
def vlog2Op (r : VF) : Op Unit := vfp1 Fmt.log2 r

/-- A float condition (R130): whether it holds, and NV where an operand is a signalling NaN (R165). -/
def floatCond (cc : BitVec 4) (a b : FVal) : Bool × Nat :=
  let un := a.isNan || b.isNan
  let c := cmpVal a b
  let r := match cc.toNat with
    | 0x0 => !un && c == 0
    | 0x1 => un || c != 0
    | 0x2 => !un && c < 0
    | 0x3 => !un && c ≤ 0
    | 0x4 => !un && c > 0
    | 0x5 => !un && c ≥ 0
    | 0x6 => un
    | 0x7 => !un
    | _ => false
  (r, if a.isSig || b.isSig then NV else 0)

/-- VFCMP.cc (R165). -/
def vfcmpOp (cc : BitVec 4) (r : VF) : Op Unit := do
  need [srcV r.a r.wa, srcV r.b r.wb]
  let n := laneN r.w
  let p ← getP r.p
  let t := vfFmt r
  let a := lanesOf n (← getV r.a)
  let b := lanesOf n (← getV r.b)
  let l := onActive2 p n a b fun a b =>
    let c := floatCond cc (t.valI r.fi a) (t.valI r.fi b)
    (b2n c.1, c.2)
  raiseFlags (activeFlags p n l) (writePLanes r.d p n (l.map fun v => v.1 == 1))

/-! ### VCVT (R167, R168) -/

/-- An integer limited to n bits: clamped with SAT, else its low bits (R68). -/
def narrowInt (n : Nat) (sat : Bool) (i : Int) : Flagged :=
  (wrapN n (if sat then clampI (-(2 ^ (n - 1) : Nat)) ((2 ^ (n - 1) : Nat) - 1) i else i), 0)

/-- A conversion: source bits, destination bits, and what it does to a code. -/
structure Conv where
  src : Nat
  dst : Nat
  run : Bool → Bool → Bool → Nat → Nat → Flagged

/-- A conversion to FP32 from a format (R68). -/
def convWiden (f : Fmt) : Conv := ⟨f.bits, 32, fun fi fo _ rm c => fp32.deliver fo rm (f.valI fi c)⟩

/-- A conversion between formats (R68, R69). -/
def convFp (f g : Fmt) : Conv := ⟨f.bits, g.bits, fun fi fo sat rm c => g.convert fo sat rm (f.valI fi c)⟩

/-- A conversion of an n-bit integer to FP32 (R68). -/
def convOfInt (n : Nat) : Conv := ⟨n, 32, fun _ fo _ rm c => fp32.deliver fo rm (ofInt (sgn n c))⟩

/-- A conversion of FP32 to an n-bit integer (R69). -/
def convToInt (n : Nat) : Conv := ⟨32, n, fun fi _ sat rm c => toInt n sat rm (fp32.valI fi c)⟩

/-- A conversion between integers (R68). -/
def convInt (m n : Nat) : Conv := ⟨m, n, fun _ _ sat _ c => narrowInt n sat (sgn m c)⟩

/-- FI applied to an E2M1 code: 0.5 is its one subnormal magnitude (R61, R66). -/
def e2m1ValI (fi : Bool) (c : Nat) : FVal :=
  if fi && c % 8 == 1 then .fin (bitAt c 3) 0 0 else e2m1Val c

/-- The conversions by selector (R167). -/
def convOf (code : Nat) : Conv :=
  match code with
  | 0x01 => convWiden fp16
  | 0x02 => convWiden bf16
  | 0x03 => convWiden e5m2
  | 0x04 => convWiden e4m3
  | 0x05 => ⟨4, 32, fun fi fo _ rm c => fp32.deliver fo rm (e2m1ValI fi c)⟩
  | 0x06 => convFp fp32 fp16
  | 0x07 => convFp fp32 bf16
  | 0x08 => convFp fp32 e5m2
  | 0x09 => convFp fp32 e4m3
  | 0x0A => ⟨32, 4, fun fi fo _ rm c => toE2m1 fo rm (fp32.valI fi c)⟩
  | 0x0B => convFp fp16 bf16
  | 0x0C => convFp bf16 fp16
  | 0x0D => convOfInt 4
  | 0x0E => convOfInt 8
  | 0x0F => convOfInt 32
  | 0x10 => convToInt 32
  | 0x11 => convToInt 8
  | 0x12 => convInt 4 8
  | 0x13 => convInt 4 32
  | 0x14 => convInt 8 32
  | 0x15 => convInt 32 8
  | 0x16 => convInt 32 4
  | _ => convInt 8 4

/-- VCVT (R167, R168). -/
def vcvtOp (r : VF) : Op Unit := do
  need [srcV r.a r.wa]
  let c := convOf r.c.toNat
  let wide := max c.src c.dst
  let m := 1024 / wide
  let part := r.sub.toNat
  let rm ← getRM
  let p ← getP r.p
  let a := (← getV r.a).toNat
  let act := fun (j : Nat) => bitAt p.toNat (wide / 8 * j)
  let srcAt := fun (j : Nat) => if c.src == wide then j else part * m + j
  let l := (upTo m).map fun j =>
    if act j then c.run r.fi r.fo r.sat rm (a / 2 ^ (c.src * srcAt j) % 2 ^ c.src) else (0, 0)
  let off := if c.dst == wide then 0 else part * m
  let old := (← getV r.d).toNat
  let keep := elemsOf c.dst (1024 / c.dst) old
  let new := (upTo keep.length).zip keep |>.map fun (i, o) =>
    if off ≤ i && i < off + m && act (i - off) then (l.getD (i - off) (0, 0)).1 else o
  raiseFlags (l.foldl (fun acc v => acc ||| v.2) 0) (writeV r.d (BitVec.ofNat 1024 (ofElems c.dst new)))

/-! ### VSXPACK and VSXUNPACK (R169) -/

/-- VSXPACK: two blocks of 16 FP32 lanes each. -/
def vsxpackOp (r : VF) : Op Unit := do
  need [srcV r.a r.wa]
  let f := r.w.toNat
  let n := 8 * sxBytes f
  let rm ← getRM
  let xs := (lanesOf 4 (← getV r.a)).map fp32.val
  let b0 := sxPack f rm (xs.take 16)
  let b1 := sxPack f rm (xs.drop 16)
  let lo := 2 * n * r.sub.toNat
  let old := (← getV r.d).toNat
  raiseFlags (b0.2 ||| b1.2)
    (writeV r.d (BitVec.ofNat 1024 (putFld old (lo + 2 * n - 1) lo (b0.1 + b1.1 * 2 ^ n))))

/-- VSXUNPACK: two blocks to 32 FP32 lanes. -/
def vsxunpackOp (r : VF) : Op Unit := do
  need [srcV r.a r.wa]
  let f := r.w.toNat
  let n := 8 * sxBytes f
  let a := (← getV r.a).toNat / 2 ^ (2 * n * r.sub.toNat)
  let l := [a % 2 ^ n, a / 2 ^ n % 2 ^ n].flatMap fun b => (upTo 16).map fun i => (fp32.deliver false RNE (sxVal f b i)).1
  writeV r.d (BitVec.ofNat 1024 (ofElems 32 l))

/-! ### Meanings: each operation performed as an issue of its own -/

def execVfadd (r : VF) (s : State) : Host.Outcome State Fault Refusal :=
  slotRun (.vfadd r) (vfaddOp r) s

def execVfsub (r : VF) (s : State) : Host.Outcome State Fault Refusal :=
  slotRun (.vfsub r) (vfsubOp r) s

def execVfmul (r : VF) (s : State) : Host.Outcome State Fault Refusal :=
  slotRun (.vfmul r) (vfmulOp r) s

def execVfma (r : VF) (s : State) : Host.Outcome State Fault Refusal :=
  slotRun (.vfma r) (vfmaOp r) s

def execVfms (r : VF) (s : State) : Host.Outcome State Fault Refusal :=
  slotRun (.vfms r) (vfmsOp r) s

def execVfmin (r : VF) (s : State) : Host.Outcome State Fault Refusal :=
  slotRun (.vfmin r) (vfminOp r) s

def execVfmax (r : VF) (s : State) : Host.Outcome State Fault Refusal :=
  slotRun (.vfmax r) (vfmaxOp r) s

def execVrcp (r : VF) (s : State) : Host.Outcome State Fault Refusal :=
  slotRun (.vrcp r) (vrcpOp r) s

def execVrsq (r : VF) (s : State) : Host.Outcome State Fault Refusal :=
  slotRun (.vrsq r) (vrsqOp r) s

def execVexp2 (r : VF) (s : State) : Host.Outcome State Fault Refusal :=
  slotRun (.vexp2 r) (vexp2Op r) s

def execVlog2 (r : VF) (s : State) : Host.Outcome State Fault Refusal :=
  slotRun (.vlog2 r) (vlog2Op r) s

def execVfcmp (cc : BitVec 4) (r : VF) (s : State) : Host.Outcome State Fault Refusal :=
  slotRun (.vfcmp cc r) (vfcmpOp cc r) s

def execVcvt (r : VF) (s : State) : Host.Outcome State Fault Refusal :=
  slotRun (.vcvt r) (vcvtOp r) s

def execVsxpack (r : VF) (s : State) : Host.Outcome State Fault Refusal :=
  slotRun (.vsxpack r) (vsxpackOp r) s

def execVsxunpack (r : VF) (s : State) : Host.Outcome State Fault Refusal :=
  slotRun (.vsxunpack r) (vsxunpackOp r) s

end Sys2Proof.Machine
end

