-- ==== Sys2Proof/Machine/VectorMove.lean ====
section
/-! DEFINITION. Machine/VectorMove.lean: data movement (R170 to R172), reductions, scans and selection (R81, R173, R174). -/

namespace Sys2Proof.Machine

/-! ### Data movement -/

/-- VPERM (R170). -/
def vpermOp (r : VF) : Op Unit := do
  need [srcV r.a r.wa, srcV r.b r.wb]
  let n := laneN r.w
  let a := lanesOf n (← getV r.a)
  let b := lanesOf n (← getV r.b)
  writeLanes r.d (← getP r.p) n (b.map fun j => a.getD (j % (128 / n)) 0)

/-- The lanes of VSHUF (R171). -/
def shuffle (sub : Nat) (a b : List Nat) : List Nat :=
  let half := a.length / 2
  let weave := fun (o : Nat) => (upTo half).flatMap fun j => [a.getD (o + j) 0, b.getD (o + j) 0]
  let pick := fun (o : Nat) => (upTo a.length).map fun i => (a ++ b).getD (2 * i + o) 0
  match sub with
  | 0 => weave 0
  | 1 => weave half
  | 2 => pick 0
  | 3 => pick 1
  | _ => a.reverse

/-- VSHUF (R171); `rev` has no source b. -/
def vshufOp (r : VF) : Op Unit := do
  need (if r.sub = 4 then [srcV r.a r.wa] else [srcV r.a r.wa, srcV r.b r.wb])
  let n := laneN r.w
  let a := lanesOf n (← getV r.a)
  let b := lanesOf n (← getV r.b)
  writeLanes r.d (← getP r.p) n (shuffle r.sub.toNat a b)

/-- VBCAST (R170). -/
def vbcastOp (r : VF) : Op Unit := do
  need [srcS (sField r.a) r.wa]
  let n := laneN r.w
  let v ← getS (sField r.a)
  writeLanes r.d (← getP r.p) n (List.replicate (128 / n) v.toNat)

/-- VMOVS (R172): an insert with Sub[0] = 0, else an extract, sign-extended with Sub[1]. -/
def vmovsOp (r : VF) : Op Unit := do
  let n := laneN r.w
  if r.sub.getLsbD 0 then do
    need [srcV r.a r.wa, srcS (sField r.b) r.wb]
    let i := (← getS (sField r.b)).toNat % (128 / n)
    let v := (lanesOf n (← getV r.a)).getD i 0
    writeS (sField r.d) (if r.sub.getLsbD 1 then w64 (sgn (8 * n) v) else n64 v)
  else do
    need [srcS (sField r.a) r.wa, srcS (sField r.b) r.wb]
    let i := (← getS (sField r.b)).toNat % (128 / n)
    let v ← getS (sField r.a)
    writeV r.d (BitVec.ofNat 1024 (ofElems (8 * n) ((lanesOf n (← getV r.d)).set i v.toNat)))

/-- VSEL (R170). -/
def vselOp (r : VF) : Op Unit := do
  need [srcV r.a r.wa, srcV r.b r.wb]
  let n := laneN r.w
  let a := lanesOf n (← getV r.a)
  let b := lanesOf n (← getV r.b)
  let pc ← getP (pField r.c)
  writeLanes r.d (← getP r.p) n ((lanesWith pc n a).zip b |>.map fun ((_, s, x), y) => if s then x else y)

/-- VCOMPRESS (R170). -/
def vcompressOp (r : VF) : Op Unit := do
  need [srcV r.a r.wa]
  let n := laneN r.w
  let p ← getP r.p
  let l := (lanesWith p n (lanesOf n (← getV r.a))).filter (·.2.1) |>.map (·.2.2)
  writeV r.d (BitVec.ofNat 1024 (ofElems (8 * n) l))

/-- VEXPAND (R170). -/
def vexpandOp (r : VF) : Op Unit := do
  need [srcV r.a r.wa]
  let n := laneN r.w
  let p ← getP r.p
  let a := lanesOf n (← getV r.a)
  let new := (upTo (128 / n)).map fun i => a.getD ((upTo i).filter (laneActive p n)).length 0
  writeLanes r.d p n new

/-! ### Reductions and scans -/

/-- The format of a float reduction (R173). -/
def redFmt (r : VF) : Fmt := if r.w == 2 then fp32 else fp16

/-- One step of op on two lanes (R173), with flags. -/
def redStep (r : VF) (rm : Nat) (a b : Nat) : Flagged :=
  let bits := 8 * laneN r.w
  let f := redFmt r
  match r.sub.toNat with
  | 0 => ((a + b) % 2 ^ bits, 0)
  | 1 => (if laneLt false bits b a then b else a, 0)
  | 2 => (if laneLt false bits a b then b else a, 0)
  | 3 => (min a b, 0)
  | 4 => (max a b, 0)
  | 5 => f.add r.fo rm (f.valI r.fi a) (f.valI r.fi b)
  | 6 => f.minmax false r.fo rm (f.valI r.fi a) (f.valI r.fi b)
  | _ => f.minmax true r.fo rm (f.valI r.fi a) (f.valI r.fi b)

/-- The identity of op (R173). -/
def redIdentity (r : VF) : Nat :=
  let bits := 8 * laneN r.w
  let f := redFmt r
  match r.sub.toNat with
  | 0 => 0
  | 1 => 2 ^ (bits - 1) - 1
  | 2 => 2 ^ (bits - 1)
  | 3 => 2 ^ bits - 1
  | 4 => 0
  | 5 => f.signed true 0
  | 6 => f.infinity false
  | _ => f.infinity true

/-- The lanes of a reduction's source, inactive ones replaced by the identity, without flags. -/
def redLanes (r : VF) (p : PReg) (a : VReg) : List Flagged :=
  (lanesWith p (laneN r.w) (lanesOf (laneN r.w) a)).map fun (_, act, v) => (if act then v else redIdentity r, 0)

/-- Combine neighbours of a list, whose flags are ORed on. -/
def redPairs (f : Nat → Nat → Flagged) : List Flagged → List Flagged
  | a :: b :: rest =>
    let v := f a.1 b.1
    (v.1, a.2 ||| b.2 ||| v.2) :: redPairs f rest
  | l => l

/-- The tree of VRED (R81): at every step each even lane takes in its neighbour; `n` steps. -/
def redTree (f : Nat → Nat → Flagged) : Nat → List Flagged → List Flagged
  | 0, l => l
  | n + 1, l => redTree f n (redPairs f l)

/-- The step at distance d of VSCAN (R81): from the values of the step before. -/
def scanStep (f : Nat → Nat → Flagged) (d : Nat) (l : List Flagged) : List Flagged :=
  l.take d ++ List.zipWith (fun a b => let v := f a.1 b.1; (v.1, b.2 ||| v.2)) l (l.drop d)

/-- The scan of R81: `n` steps from distance d on. -/
def scanFrom (f : Nat → Nat → Flagged) : Nat → Nat → List Flagged → List Flagged
  | 0, _, l => l
  | n + 1, d, l => scanFrom f n (2 * d) (scanStep f d l)

/-- VRED (R173): lane 0 of d takes the result, whatever the predicate holds. -/
def vredOp (r : VF) : Op Unit := do
  need [srcV r.a r.wa]
  let rm ← getRM
  let p ← getP r.p
  let t := (redTree (redStep r rm) 7 (redLanes r p (← getV r.a))).headD (0, 0)
  let old ← getV r.d
  let bits := 8 * laneN r.w
  raiseFlags t.2 (writeV r.d (BitVec.ofNat 1024 (putFld old.toNat (bits - 1) 0 t.1)))

/-- A lane as VSCAN delivers it: lane 0 has passed no step, and every NaN delivered is canonical (R60). -/
def scanLane (r : VF) (v : Nat) : Nat :=
  if 5 ≤ r.sub.toNat && ((redFmt r).val v).isNan then (redFmt r).nanCode else v

/-- VSCAN (R173). -/
def vscanOp (r : VF) : Op Unit := do
  need [srcV r.a r.wa]
  let rm ← getRM
  let p ← getP r.p
  let l := redLanes r p (← getV r.a)
  let steps := Nat.log2 l.length
  let t := scanFrom (redStep r rm) steps 1 l
  raiseFlags (t.foldl (fun acc v => acc ||| v.2) 0) (writeLanes r.d p (laneN r.w) (t.map fun v => scanLane r v.1))

/-! ### Selection (R174) -/

/-- The rank of a key in its kind, as an integer that orders keys: NaN below -infinity, -0 equal to +0. -/
def keyRank (kind : Nat) (f : Fmt) (v : Nat) : Int :=
  match kind with
  | 0 => sgn f.bits v
  | 1 => v
  | _ =>
    if (f.val v).isNan then -(2 ^ f.bits : Nat)
    else
      let m : Int := (v % 2 ^ (f.bits - 1) : Nat)
      if bitAt v (f.bits - 1) then -m else m

/-- A key as it is delivered: a NaN is canonical. -/
def keyOut (kind : Nat) (f : Fmt) (v : Nat) : Nat := if kind == 2 && (f.val v).isNan then f.nanCode else v

/-- The kind's lowest key. -/
def keyLowest (kind : Nat) (f : Fmt) : Nat :=
  match kind with
  | 0 => 2 ^ (f.bits - 1)
  | 1 => 0
  | _ => f.infinity true

/-- Insert a candidate (rank, key, lane) after those that rank at least as high. -/
def insertKey (c : Int × Nat × Nat) : List (Int × Nat × Nat) → List (Int × Nat × Nat)
  | [] => [c]
  | d :: ds => if d.1 ≥ c.1 then d :: insertKey c ds else c :: d :: ds

/-- VTOPK (R174): k stands in the c field, the index or the lane of vb goes to v(d + 1). -/
def vtopkOp (r : VF) : Op Unit := do
  need (srcV r.a r.wa :: (if r.sub.getLsbD 2 then [srcV r.b r.wb] else []))
  let n := laneN r.w
  let f := redFmt r
  let kind := r.sub.toNat % 4
  let k := r.c.toNat
  let p ← getP r.p
  let b := lanesOf n (← getV r.b)
  let cand := (lanesWith p n (lanesOf n (← getV r.a))).filter (·.2.1)
  let sorted := cand.foldl (fun l (i, _, v) => insertKey (keyRank kind f v, v, i) l) []
  let pick := (sorted.take k).map fun (_, v, i) => (keyOut kind f v, if r.sub.getLsbD 2 then b.getD i 0 else i)
  let full := pick ++ List.replicate (k - pick.length) (keyLowest kind f, 2 ^ (8 * n) - 1)
  let put := fun (old : VReg) (l : List Nat) => BitVec.ofNat 1024 (ofElems (8 * n) (l ++ (lanesOf n old).drop k))
  let keys := put (← getV r.d) (full.map (·.1))
  let idx := put (← getV (r.d + 1)) (full.map (·.2))
  writeV r.d keys
  writeV (r.d + 1) idx

/-! ### Meanings: each operation performed as an issue of its own -/

def execVperm (r : VF) (s : State) : Host.Outcome State Fault Refusal :=
  slotRun (.vperm r) (vpermOp r) s

def execVshuf (r : VF) (s : State) : Host.Outcome State Fault Refusal :=
  slotRun (.vshuf r) (vshufOp r) s

def execVbcast (r : VF) (s : State) : Host.Outcome State Fault Refusal :=
  slotRun (.vbcast r) (vbcastOp r) s

def execVmovs (r : VF) (s : State) : Host.Outcome State Fault Refusal :=
  slotRun (.vmovs r) (vmovsOp r) s

def execVsel (r : VF) (s : State) : Host.Outcome State Fault Refusal :=
  slotRun (.vsel r) (vselOp r) s

def execVcompress (r : VF) (s : State) : Host.Outcome State Fault Refusal :=
  slotRun (.vcompress r) (vcompressOp r) s

def execVexpand (r : VF) (s : State) : Host.Outcome State Fault Refusal :=
  slotRun (.vexpand r) (vexpandOp r) s

def execVred (r : VF) (s : State) : Host.Outcome State Fault Refusal :=
  slotRun (.vred r) (vredOp r) s

def execVscan (r : VF) (s : State) : Host.Outcome State Fault Refusal :=
  slotRun (.vscan r) (vscanOp r) s

def execVtopk (r : VF) (s : State) : Host.Outcome State Fault Refusal :=
  slotRun (.vtopk r) (vtopkOp r) s

end Sys2Proof.Machine
end

