-- ==== Sys2Proof/Machine/VectorLp.lean ====
section
/-! DEFINITION. Machine/VectorLp.lean: LP arithmetic and conversions (R177, R178), VLPSPLIT and VLPJOIN (R179, R180), and VRAND
(R181). -/

namespace Sys2Proof.Machine

/-- The mask of tinfo for the active lanes that have no result (R80). -/
def lpMask (p : PReg) (l : List (Option Nat)) : Nat :=
  ((upTo l.length).zip l).foldl (fun acc (i, v) => if laneActive p 8 i && v.isNone then acc + 2 ^ i else acc) 0

/-- Deliver 16 LP results: LPRANGE where an active lane has none (R80, R177), else what `write` does with them. -/
def deliverLp (p : PReg) (l : List (Option Nat)) (write : List Nat → Op Unit) : Op Unit :=
  if lpMask p l != 0 then trapAt cLPRANGE (n64 (lpMask p l)) else write (l.map fun v => v.getD 0)

/-- A two-operand LP form (R177). -/
def vlp2 (f : Nat → Nat → Option Nat) (r : VF) : Op Unit := do
  need [srcV r.a r.wa, srcV r.b r.wb]
  let p ← getP r.p
  let a := lanesOf 8 (← getV r.a)
  let b := lanesOf 8 (← getV r.b)
  deliverLp p (List.zipWith f a b) (writeLanes r.d p 8)

def vlpmulOp (r : VF) : Op Unit := vlp2 lpMul r
def vlpaddOp (r : VF) : Op Unit := vlp2 (fun a b => lpSum [a, b]) r
def vlpmaxOp (r : VF) : Op Unit := vlp2 (fun a b => some (lpMax a b)) r
def vlpdivOp (r : VF) : Op Unit := vlp2 lpDiv r

/-- The 16 w-lanes of part h. -/
def halfW (h : Nat) (v : VReg) : List Nat := ((lanesOf 4 v).drop (16 * h)).take 16

/-- A register whose w-lanes 16h + i take new values for the active LP lanes i. -/
def putHalfW (p : PReg) (h : Nat) (old : VReg) (new : List Nat) : VReg :=
  let l := lanesOf 4 old
  BitVec.ofNat 1024 (ofElems 32 ((upTo 32).map fun j =>
    if j / 16 == h && laneActive p 8 (j % 16) then new.getD (j % 16) 0 else l.getD j 0))

/-- VLPCVT (R178). -/
def vlpcvtOp (r : VF) : Op Unit := do
  need [srcV r.a r.wa]
  let p ← getP r.p
  let h := r.sub.toNat % 2
  let a ← getV r.a
  let old ← getV r.d
  let rm ← getRM
  match r.sub.toNat / 2 with
  | 0 =>
    let l := onActive p 8 (halfW h a) fun c => lpOfFloat (fp32.val c)
    raiseFlags (activeFlags p 8 l) (writeLanes r.d p 8 (l.map (·.1)))
  | 1 =>
    let l := onActive p 8 (lanesOf 8 a) (lpToFloat rm)
    raiseFlags (activeFlags p 8 l) (writeV r.d (putHalfW p h old (l.map (·.1))))
  | 2 => writeLanes r.d p 8 ((halfW h a).map lp32To)
  | _ => deliverLp p ((lanesOf 8 a).map lpTo32) fun l => writeV r.d (putHalfW p h old l)

/-- A lane of VLPSPLIT against the shared exponent (R179). -/
def splitLane (x : Int) (w : Nat) : Nat :=
  if lpIsN w then 0x7FC0
  else if lpZ w then 0
  else (bf16.round RNE (lpS w) (2 ^ 32 + lpF w) (max (lpE w - x) (-400) - 32) false).1

/-- VLPSPLIT (R179): d and then vc are written; where they are one register, it takes both. -/
def vlpsplitOp (r : VF) : Op Unit := do
  need [srcV r.a r.wa]
  let part := r.sub.toNat % 4
  let a := lanesOf 8 (← getV r.a)
  let x : Int := (lpMaxE (a.filter fun w => !lpIsN w)).getD 0
  let oldD := lanesOf 2 (← getV r.d)
  let d := BitVec.ofNat 1024 (ofElems 16 (oldD.take (16 * part) ++ a.map (splitLane x) ++ oldD.drop (16 * part + 16)))
  let c ← getV r.c
  let oldC := lanesOf 4 (if r.c = r.d then d else c)
  writeV r.d d
  writeV r.c (BitVec.ofNat 1024 (ofElems 32 (oldC.set part (wrapN 32 x))))

/-- A lane of VLPJOIN (R180). -/
def joinLane (x : Int) (c : Nat) : Option Nat :=
  match fp32.val c with
  | .fin n m e => if m == 0 then some lpZero else lpOfMag n m (e + x)
  | _ => some lpN

/-- VLPJOIN (R180). -/
def vlpjoinOp (r : VF) : Op Unit := do
  need [srcV r.a r.wa, srcV r.b r.wb]
  let p ← getP r.p
  let part := r.sub.toNat % 2
  let x := sgn 32 ((lanesOf 4 (← getV r.b)).getD part 0)
  deliverLp p ((halfW part (← getV r.a)).map (joinLane x)) (writeLanes r.d p 8)

/-! ### Random bits -/

/-- The mixing lines of R181. -/
def mix64 (z : Word64) : Word64 :=
  let z := (z ^^^ (z >>> 30)) * 0xBF58476D1CE4E5B9
  let z := (z ^^^ (z >>> 27)) * 0x94D049BB133111EB
  z ^^^ (z >>> 31)

/-- Word i of counter value `ctr` (R181). -/
def randWord (seed ctr : Word64) (i : Nat) : Word64 := mix64 (seed + (16 * ctr + n64 (i + 1)) * 0x9E3779B97F4A7C15)

/-- The 1,024 bits of a counter value. -/
def randBits (seed ctr : Word64) : Nat := ofElems 64 ((upTo 16).map fun i => (randWord seed ctr i).toNat)

/-- The FP32 of a uniform draw: bits [31:8] of a word times 2^-24 (R181). -/
def uniform (w : Nat) : Nat := (fp32.round RNE false (w / 256) (-24) false).1

/-- VRAND (R181): the counter step is taken whatever the predicate holds. -/
def vrandOp (r : VF) : Op Unit := do
  let l := (← get).cctx.live
  let z := randBits l.rseed l.ctr
  modL fun l => { l with ctr := l.ctr + 1 }
  let n := laneN r.w
  let p ← getP r.p
  writeLanes r.d p n (if r.sub.getLsbD 0 then (elemsOf 32 32 z).map uniform else elemsOf (8 * n) (128 / n) z)

/-! ### Meanings: each operation performed as an issue of its own -/

def execVlpmul (r : VF) (s : State) : Host.Outcome State Fault Refusal :=
  slotRun (.vlpmul r) (vlpmulOp r) s

def execVlpadd (r : VF) (s : State) : Host.Outcome State Fault Refusal :=
  slotRun (.vlpadd r) (vlpaddOp r) s

def execVlpmax (r : VF) (s : State) : Host.Outcome State Fault Refusal :=
  slotRun (.vlpmax r) (vlpmaxOp r) s

def execVlpdiv (r : VF) (s : State) : Host.Outcome State Fault Refusal :=
  slotRun (.vlpdiv r) (vlpdivOp r) s

def execVlpcvt (r : VF) (s : State) : Host.Outcome State Fault Refusal :=
  slotRun (.vlpcvt r) (vlpcvtOp r) s

def execVlpsplit (r : VF) (s : State) : Host.Outcome State Fault Refusal :=
  slotRun (.vlpsplit r) (vlpsplitOp r) s

def execVlpjoin (r : VF) (s : State) : Host.Outcome State Fault Refusal :=
  slotRun (.vlpjoin r) (vlpjoinOp r) s

def execVrand (r : VF) (s : State) : Host.Outcome State Fault Refusal :=
  slotRun (.vrand r) (vrandOp r) s

end Sys2Proof.Machine
end

