-- ==== Sys2Proof/Machine/VectorMem.lean ====
section
/-! DEFINITION. Machine/VectorMem.lean: vector loads and stores (R118, R175, R176). -/

namespace Sys2Proof.Machine

/-- The base address of a form with a displacement and a stride (R175). -/
def vecAddr (r : VM) : Op Word64 := do
  let k := (← get).cur.k
  pure (effAddr (← getS r.s) (r.disp.signExtend 64 * 8) (r.stride.signExtend 64 * 8) k)

/-- The active lanes of a form with their element addresses. -/
def activeAddrs (p : PReg) (n : Nat) (addr : Nat → Word64) : List (Nat × Word64) :=
  ((upTo (128 / n)).filter (laneActive p n)).map fun i => (i, addr i)

/-- The element address of the lowest active lane in the hole above the scratchpad raises ACCESS (R134, R175). -/
def checkLaneHoles (l : List (Nat × Word64)) : Op Unit :=
  match l.find? fun a => classify a.2 == .hole with
  | some a => trapAt cACCESS a.2
  | none => pure ()

/-- Check each active lane's element address (R175): the hole, then the alignment of the lowest misaligned lane. -/
def checkLanes (n : Nat) (l : List (Nat × Word64)) : Op Unit := do
  checkLaneHoles l
  match l.find? fun a => a.2.toNat % n != 0 with
  | some a => trapAt cALIGN a.2
  | none => pure ()

/-- Send a v register what its active lanes read; inactive lanes keep their value (R176). -/
def deliverV (d : BitVec 9) (cls : Nat) (p : PReg) (n : Nat) (ea : Word64) (new : List Nat) (bad : Bool) : Op Unit := do
  let old ← getV d
  let tok ← markEmpty true d.toNat
  let k := (← get).cur
  sendValue { tok := tok, isV := true, reg := d.toNat, val := mergeLanes p n old new, poison := bad, pc := k.pc,
              slot := k.slot, va := ea, src := 1, cls := cls }

/-- Read the elements of active lanes and send them. -/
def loadLanes (d : BitVec 9) (cls : Nat) (p : PReg) (n : Nat) (ea : Word64) (l : List (Nat × Word64)) : Op Unit := do
  awaitEngines
  let vs ← mapEach l fun (i, a) => do
    let b ← loadBytes 1 cls a n
    pure (i, ofBytes b.1, b.2)
  let new := vs.foldl (fun (acc : List Nat) (i, v, _) => acc.set i v) (List.replicate (128 / n) 0)
  deliverV d cls p n ea new (vs.any (·.2.2))

/-- Store the elements of active lanes, lowest lane first, as one gate entry (R176). -/
def storeLanes (v : VReg) (cls n : Nat) (l : List (Nat × Word64)) : Op Unit := do
  awaitEngines
  let vs := lanesOf n v
  gateStore 1 cls (l.map fun (i, a) => (a, toBytes n (vs.getD i 0)))

/-- The element addresses of a contiguous form (R175). -/
def unitAddrs (r : VM) (ea : Word64) (p : PReg) : List (Nat × Word64) := activeAddrs p (laneN r.w) fun i => ea + n64 (laneN r.w * i)

/-- VLD (R175). The elements of active lanes are read. -/
def vldOp (r : VM) : Op Unit := do
  need [srcS r.s r.wb]
  let ea ← vecAddr r
  checkHole ea
  checkAlign ea 64
  let p ← getP r.p
  let l := unitAddrs r ea p
  checkLaneHoles l
  loadLanes r.v r.cls.toNat p (laneN r.w) ea l

/-- VST (R175). -/
def vstOp (r : VM) : Op Unit := do
  need [srcS r.s r.wb, srcV r.v r.wv]
  let ea ← vecAddr r
  checkHole ea
  checkAlign ea 64
  let p ← getP r.p
  let v ← getV r.v
  let l := unitAddrs r ea p
  checkLaneHoles l
  if p = BitVec.allOnes 128 then do
    awaitEngines
    gateStore 1 r.cls.toNat [(ea, toBytes 128 v.toNat)]
  else storeLanes v r.cls.toNat (laneN r.w) l

/-- The element addresses of a strided form (R175): S[base + 1] apart, under the same W bit. -/
def stridedAddrs (r : VM) : Op (List (Nat × Word64)) := do
  let ea ← vecAddr r
  let step ← getS (r.s + 1)
  let p ← getP r.p
  pure (activeAddrs p (laneN r.w) fun i => ea + n64 i * step)

/-- VLDS (R175). -/
def vldsOp (r : VM) : Op Unit := do
  need [srcS r.s r.wb, srcS (r.s + 1) r.wb]
  let l ← stridedAddrs r
  checkLanes (laneN r.w) l
  loadLanes r.v r.cls.toNat (← getP r.p) (laneN r.w) (← vecAddr r) l

/-- VSTS (R175). -/
def vstsOp (r : VM) : Op Unit := do
  need [srcS r.s r.wb, srcS (r.s + 1) r.wb, srcV r.v r.wv]
  let l ← stridedAddrs r
  checkLanes (laneN r.w) l
  storeLanes (← getV r.v) r.cls.toNat (laneN r.w) l

/-- The element addresses of an indexed form (R175). -/
def indexedAddrs (r : VG) : Op (List (Nat × Word64)) := do
  let base ← getS r.s
  let x := lanesOf (laneN r.w) (← getV r.x)
  let p ← getP r.p
  pure (activeAddrs p (laneN r.w) fun i => base + n64 (x.getD i 0 * laneN r.w))

/-- VGATH (R175). -/
def vgathOp (r : VG) : Op Unit := do
  need [srcS r.s r.wb, srcV r.x r.wx]
  let l ← indexedAddrs r
  checkLanes (laneN r.w) l
  loadLanes r.v r.cls.toNat (← getP r.p) (laneN r.w) (← getS r.s) l

/-- VSCAT (R175). -/
def vscatOp (r : VG) : Op Unit := do
  need [srcS r.s r.wb, srcV r.x r.wx, srcV r.v r.wv]
  let l ← indexedAddrs r
  checkLanes (laneN r.w) l
  storeLanes (← getV r.v) r.cls.toNat (laneN r.w) l

/-- VLDB (R175): the element is read where a lane is active. -/
def vldbOp (r : VM) : Op Unit := do
  need [srcS r.s r.wb]
  let ea ← vecAddr r
  let n := laneN r.w
  checkHole ea
  checkAlign ea n
  let p ← getP r.p
  awaitEngines
  let b ← (if (lanesSet p n).isEmpty then pure ([], false) else loadBytes 1 r.cls.toNat ea n)
  deliverV r.v r.cls.toNat p n ea (List.replicate (128 / n) (ofBytes b.1)) b.2

/-! ### Meanings: each operation performed as an issue of its own -/

def execVld (r : VM) (s : State) : Host.Outcome State Fault Refusal :=
  slotRun (.vld r) (vldOp r) s

def execVst (r : VM) (s : State) : Host.Outcome State Fault Refusal :=
  slotRun (.vst r) (vstOp r) s

def execVlds (r : VM) (s : State) : Host.Outcome State Fault Refusal :=
  slotRun (.vlds r) (vldsOp r) s

def execVsts (r : VM) (s : State) : Host.Outcome State Fault Refusal :=
  slotRun (.vsts r) (vstsOp r) s

def execVgath (r : VG) (s : State) : Host.Outcome State Fault Refusal :=
  slotRun (.vgath r) (vgathOp r) s

def execVscat (r : VG) (s : State) : Host.Outcome State Fault Refusal :=
  slotRun (.vscat r) (vscatOp r) s

def execVldb (r : VM) (s : State) : Host.Outcome State Fault Refusal :=
  slotRun (.vldb r) (vldbOp r) s

end Sys2Proof.Machine
end

