-- ==== Sys2Proof/Machine/Fibre.lean ====
section
/-! DEFINITION. Machine/Fibre.lean: the fibre stream instructions at their issue (R253 to R272): levels, stream registers, joint
streams, and what enters the fibre queue. -/

namespace Sys2Proof.Machine

/-! ### Reading ahead (R260) -/

/-- Bytes that an F operation reads before its issue: the context's own gated stores first; an address in the hole raises
ACCESS, uncorrectable data raises POISON (R134, R260, R261). The bundle blocks while bytes that do not lie in the core's own
scratchpad have not arrived (R260). -/
def aheadBytes (a : Word64) (n : Nat) : Op (List Byte) := do
  let ps ← mapEach (pieces (n / 64 + 2) a.toNat n) fun (b, k) => do
    checkHole (n64 b)
    if isVirt (n64 b) && !(← get).cctx.arrived then throw (.block .ahead) else pure ()
    awaitCopies false (n64 b) k
    let r ← loadBytes 2 0 (n64 b) k
    let s ← get
    if r.2 then trapAt cPOISON s.cur.pc else pure r.1
  pure ps.flatten

/-- A little-endian number that an F operation reads before its issue. -/
def ahead (a : Word64) (n : Nat) : Op Nat := do
  let bs ← aheadBytes a n
  pure (ofBytes bs)

/-! ### Levels (R253 to R256) -/

/-- A level as its descriptor gives it; `seg` and `pos` are addresses. -/
structure Level where
  desc : Word64
  kind : Nat
  t : Bool
  x : Bool
  extent : Nat
  seg : Word64
  pos : Word64
deriving DecidableEq, Repr

/-- Level kinds (R253). -/
def lDense : Nat := 0
def lCompressed : Nat := 1
def lBitmap : Nat := 2

/-- The fields of a descriptor are malformed (R253). -/
def levelBad (lv : Level) (seg pos : Nat) : Bool :=
  ((lv.t || lv.x) && lv.kind != lCompressed) || (lv.kind == lDense && seg != 0) ||
    ((lv.kind == lDense || lv.kind == 3) && pos != 0) ||
    ((lv.kind == lCompressed || lv.kind == 3) && lv.seg.toNat % 4 != 0)

/-- Read a level descriptor; a malformed one raises ACCESS with its address (R253). -/
def readLevel (desc : Word64) : Op Level := do
  let w ← ahead desc 12
  let seg := fld w 63 32
  let pos := fld w 95 64
  let lv : Level :=
    { desc := desc, kind := fld w 31 30, t := bitAt w 29, x := bitAt w 28, extent := fld w 27 0
      seg := desc + w64 (sgn 32 seg), pos := desc + w64 (sgn 32 pos) }
  if levelBad lv seg pos then trapAt cACCESS desc else pure lv

/-- Entry m of a skip table: the coordinate and the byte offset of entry 64m (R256). -/
def skipEntry (lv : Level) (m : Nat) : Op (Nat × Nat) := do
  if lv.x then do
    let w ← ahead (lv.desc + 12 + n64 (8 * m)) 8
    pure (w % 2 ^ 32, w / 2 ^ 32)
  else do
    let w ← ahead (lv.desc + 12 + n64 (4 * m)) 4
    pure (w, 64 * m)

/-- Bit b of segment s of a bitmap level (R254). -/
def bitmapBit (lv : Level) (s b : Nat) : Op Bool := do
  let i := s * lv.extent + b
  let w ← ahead (lv.seg + n64 (i / 8)) 1
  pure (bitAt w (i % 8))

/-- The first set bit of a bitmap segment at or above b, among n bits. -/
def nextBit (lv : Level) (s : Nat) : Nat → Nat → Op (Option Nat)
  | 0, _ => pure none
  | n + 1, b => do
    let v ← bitmapBit lv s b
    if v then pure (some b) else nextBit lv s n (b + 1)

/-- The number of set bits among n bits of a bitmap segment. -/
def countBits (lv : Level) (s : Nat) : Nat → Op Nat
  | 0 => pure 0
  | n + 1 => do
    let v ← bitmapBit lv s n
    let c ← countBits lv s n
    pure (c + b2n v)

/-! ### Faults and accepted states -/

/-- MALCOORD for an input register (R257): it is left at the offending entry with BAD set; nothing else changes. -/
def malcoord {α : Type} (f : Nat) (v : Stream) (cond : Nat) : Op α := do
  modL fun l => l.putStream f { v with bad := true, cond := BitVec.ofNat 3 cond }
  trapAt cMALCOORD (n64 (f + cond * 2 ^ 4))

/-- MALCOORD for an output register, which it leaves unchanged. -/
def malOut {α : Type} (f cond lane : Nat) : Op α := trapAt cMALCOORD (n64 (f + cond * 2 ^ 4 + lane * 2 ^ 8))

/-- The detail of R259. -/
def streamInfo (f : Nat) : Word64 := n64 (f + 4 * 2 ^ 8)

/-- Require a register in one of some states (R259). -/
def accept (f : Nat) (states : List (BitVec 3)) : Op Unit := do
  let s ← get
  if states.contains (s.cctx.live.stream f).state then pure () else trapAt cACCESS (streamInfo f)

/-- The states of an input that can be walked. -/
def fWalk : List (BitVec 3) := [fIN, fISECT, fUNION]

/-! ### Walking an IN register -/

/-- Decode the entry at which a compressed level's register stands, `prev` being the coordinate before it (R255 to R257). -/
def decodeEntry (lv : Level) (f : Nat) (v : Stream) (prev : Option Nat) : Op Stream := do
  let byte := v.byte.toNat
  let bend := v.bend.toNat
  if lv.x && byte ≥ bend then malcoord f v 3
  else do
    let d ← ahead (lv.pos + n64 byte) 1
    if d == 0xFF && !lv.x then malcoord f v 5
    else if d == 0xFF && byte + 5 > bend then malcoord f v 3
    else do
      let delta ← (if d == 0xFF then ahead (lv.pos + n64 (byte + 1)) 4 else pure d)
      let len := if d == 0xFF then 5 else 1
      let c := match prev with
        | some p => p + delta
        | none => delta
      if prev.isSome && delta == 0 then malcoord f v 1
      else if c ≥ v.extent.toNat then malcoord f v 2
      else do
        let sk ← (if lv.t && v.entry.toNat % 64 == 0 then skipEntry lv (v.entry.toNat / 64) else pure (c, 0))
        if sk.1 != c then malcoord f v 6
        else if lv.x && v.entry + 1 == v.hi && byte + len != bend then malcoord f v 3
        else pure { v with coord := BitVec.ofNat 32 c }

/-- The bytes of the position of the entry at which a register stands. -/
def entryLen (lv : Level) (v : Stream) : Op Nat := do
  if !lv.x then pure 1
  else do
    let d ← ahead (lv.pos + v.byte.zeroExtend 64) 1
    pure (if d == 0xFF then 5 else 1)

/-- Advance an IN register by one entry (R265); one at END stays, one that is BAD raises its condition again (R257). -/
def advanceIn (lv : Level) (f : Nat) (v : Stream) : Op Stream :=
  if v.bad then malcoord f v v.cond.toNat
  else if v.atEnd then pure v
  else
    let w := { v with entry := v.entry + 1, count := v.count + 1 }
    match v.kind.toNat with
    | 0 =>
      if v.coord.toNat + 1 < v.extent.toNat then pure { w with coord := v.coord + 1 } else pure { w with atEnd := true }
    | 1 => do
      let n ← entryLen lv v
      let w := { w with byte := v.byte + BitVec.ofNat 32 n }
      if w.entry == w.hi then pure { w with atEnd := true } else decodeEntry lv f w (some v.coord.toNat)
    | 2 => do
      let c := v.coord.toNat + 1
      let b ← nextBit lv v.segment.toNat (v.extent.toNat - c) c
      match b with
      | some b => pure { w with coord := BitVec.ofNat 32 b }
      | none => pure { w with atEnd := true }
    | _ => pure { w with atEnd := true }

/-- Advance an IN register, one entry after another, to the first coordinate at or above c; `n` bounds the entries. -/
def skipSeq (lv : Level) (f c : Nat) : Nat → Stream → Op Stream
  | 0, v => pure v
  | n + 1, v => do
    if v.atEnd || v.coord.toNat ≥ c then pure v
    else do
      let w ← advanceIn lv f v
      skipSeq lv f c n w

/-- The largest of the k table entries above the current entry whose coordinate is at most c (R265). -/
def tableFind (lv : Level) (v : Stream) (c : Nat) : Nat → Op (Option (Nat × Nat × Nat))
  | 0 => pure none
  | k + 1 => do
    let m := v.entry.toNat / 64 + (k + 1)
    let e ← skipEntry lv m
    if e.1 ≤ c then pure (some (m, e.1, e.2)) else tableFind lv v c k

/-- Use the skip table, where it can be used (R265). -/
def skipTable (lv : Level) (f c : Nat) (v : Stream) : Op Stream := do
  let r ← tableFind lv v c ((v.hi.toNat - 1) / 64 - v.entry.toNat / 64)
  match r with
  | none => pure v
  | some (m, t, byte) =>
    let w := { v with entry := BitVec.ofNat 32 (64 * m), byte := BitVec.ofNat 32 byte
                      count := v.count + BitVec.ofNat 32 (64 * m - v.entry.toNat) }
    if t ≥ v.extent.toNat then malcoord f w 2
    else if t ≤ v.coord.toNat then malcoord f w 6
    else pure { w with coord := BitVec.ofNat 32 t }

/-- FSKIP on an IN register (R265). -/
def skipIn (lv : Level) (f c : Nat) (tab : Bool) (v : Stream) : Op Stream :=
  if v.atEnd || v.coord.toNat ≥ c then pure v
  else if v.bad then malcoord f v v.cond.toNat
  else if v.kind == 0 then
    let upTo := min c v.extent.toNat
    let n := BitVec.ofNat 32 (upTo - v.coord.toNat)
    let w := { v with entry := v.entry + n, count := v.count + n }
    pure (if upTo < v.extent.toNat then { w with coord := BitVec.ofNat 32 upTo } else { w with atEnd := true })
  else do
    let w ← (if v.kind == 1 && tab && lv.t then skipTable lv f c v else pure v)
    skipSeq lv f c (2 ^ 32) w

/-! ### A register as it is walked: an IN register, or a joint one with its inputs (R266) -/

/-- A register being walked; for an IN register the inputs are not used. -/
structure Walk where
  f : Nat
  v : Stream
  lv : Level
  x : Stream
  lx : Level
  y : Stream
  ly : Level

/-- The level of a register; a dense one needs no array. -/
def levelOf (v : Stream) : Op Level :=
  if v.state == fIN || v.state == fHELD then
    if v.kind == 0 then pure { desc := v.desc, kind := 0, t := false, x := false, extent := v.extent.toNat, seg := 0, pos := 0 }
    else readLevel v.desc
  else pure { desc := 0, kind := 0, t := false, x := false, extent := 0, seg := 0, pos := 0 }

/-- Begin to walk a register whose stream is given. -/
def walkOf (f : Nat) (v : Stream) : Op Walk := do
  let s ← get
  let x := s.cctx.live.stream v.x.toNat
  let y := s.cctx.live.stream v.y.toNat
  let lv ← levelOf v
  if v.joint then do
    let lx ← levelOf x
    let ly ← levelOf y
    pure { f := f, v := v, lv := lv, x := x, lx := lx, y := y, ly := ly }
  else pure { f := f, v := v, lv := lv, x := x, lx := lv, y := y, ly := lv }

/-- Store the registers of a walk. -/
def putWalk (w : Walk) : Op Unit :=
  modL fun l =>
    let l := l.putStream w.f w.v
    if w.v.joint then (l.putStream w.v.x.toNat w.x).putStream w.v.y.toNat w.y else l

/-- resync_isect (R266); `n` bounds the steps. -/
def resyncIsect : Nat → Walk → Op Walk
  | 0, w => pure w
  | n + 1, w => do
    if w.x.atEnd || w.y.atEnd || w.x.coord == w.y.coord then
      pure { w with v := { w.v with atEnd := w.x.atEnd || w.y.atEnd, coord := w.x.coord } }
    else if w.x.coord.toNat < w.y.coord.toNat then do
      let x ← skipSeq w.lx w.v.x.toNat w.y.coord.toNat (2 ^ 32) w.x
      resyncIsect n { w with x := x }
    else do
      let y ← skipSeq w.ly w.v.y.toNat w.x.coord.toNat (2 ^ 32) w.y
      resyncIsect n { w with y := y }

/-- A draw of free values (log 7). -/
def freeDraw : Op (Nat → Word64) := do
  let n ← nextFree
  pure (Config.freeField n)

/-- resync_union (R266); with both inputs at END the coordinate is a free value (log 7). -/
def resyncUnion (w : Walk) : Op Walk := do
  if w.x.atEnd && w.y.atEnd then do
    let d ← freeDraw
    pure { w with v := { w.v with atEnd := true, coord := (d 0).truncate 32, px := false, py := false } }
  else
    let c := if w.x.atEnd then w.y.coord else if w.y.atEnd then w.x.coord
             else if w.x.coord.toNat ≤ w.y.coord.toNat then w.x.coord else w.y.coord
    pure { w with v := { w.v with atEnd := false, coord := c, px := !w.x.atEnd && w.x.coord == c
                                  py := !w.y.atEnd && w.y.coord == c } }

/-- Position a joint stream (R266). -/
def resync (w : Walk) : Op Walk := if w.v.state == fISECT then resyncIsect (2 ^ 33) w else resyncUnion w

/-- Advance by one element (R265, R266); a joint register that is BAD raises its condition again (R257). -/
def Walk.advance (w : Walk) : Op Walk :=
  if !w.v.joint then do
    let v ← advanceIn w.lv w.f w.v
    pure { w with v := v }
  else if w.v.bad then malcoord w.f w.v w.v.cond.toNat
  else if w.v.atEnd then pure w
  else do
    let both := w.v.state == fISECT
    let x ← (if both || w.v.px then advanceIn w.lx w.v.x.toNat w.x else pure w.x)
    let y ← (if both || w.v.py then advanceIn w.ly w.v.y.toNat w.y else pure w.y)
    resync { w with x := x, y := y, v := { w.v with count := w.v.count + 1 } }

/-- Advance by n elements. -/
def Walk.advanceBy : Nat → Walk → Op Walk
  | 0, w => pure w
  | n + 1, w => do
    let w' ← w.advance
    Walk.advanceBy n w'

/-- FSKIP (R265). -/
def Walk.skip (w : Walk) (c : Nat) (tab : Bool) : Op Walk :=
  if !w.v.joint then do
    let v ← skipIn w.lv w.f c tab w.v
    pure { w with v := v }
  else if w.v.atEnd || w.v.coord.toNat ≥ c then pure w
  else if w.v.bad then malcoord w.f w.v w.v.cond.toNat
  else do
    let x ← skipIn w.lx w.v.x.toNat c tab w.x
    let y ← skipIn w.ly w.v.y.toNat c tab w.y
    resync { w with x := x, y := y }

/-- The element at which a walk stands (R267): its coordinate and the entries on the sides where it is present. -/
def Walk.elem (w : Walk) : MergeElem :=
  if !w.v.joint then { coord := w.v.coord.toNat, ex := some w.v.entry.toNat, ey := none }
  else
    let both := w.v.state == fISECT
    { coord := w.v.coord.toNat, ex := if both || w.v.px then some w.x.entry.toNat else none
      ey := if both || w.v.py then some w.y.entry.toNat else none }

/-- Take up to n elements, and step past the last of them where `past` (R267). -/
def Walk.take (past : Bool) : Nat → Walk → Op (List MergeElem × Walk)
  | 0, w => pure ([], w)
  | n + 1, w => do
    if w.v.atEnd then pure ([], w)
    else if w.v.bad then malcoord w.f w.v w.v.cond.toNat
    else if n == 0 && !past then pure ([w.elem], w)
    else do
      let w' ← w.advance
      let r ← Walk.take past n w'
      pure (w.elem :: r.1, r.2)

/-! ### Opening (R264) -/

/-- A register whose fields that no rule sets hold free values (log 7). -/
def freeStream (state : BitVec 3) (desc : Word64) (lv : Level) : Op Stream := do
  let d ← freeDraw
  pure { desc := desc, state := state, atEnd := false, px := false, py := false, escw := false, bad := false, cond := 0
         kind := BitVec.ofNat 2 lv.kind, x := (d 0).truncate 4, y := (d 1).truncate 4, extent := BitVec.ofNat 32 lv.extent
         segment := (d 2).truncate 32, entry := (d 3).truncate 32, hi := (d 4).truncate 32, coord := (d 5).truncate 32
         byte := (d 6).truncate 32, bend := (d 7).truncate 32, vbase := d 8, count := 0, offered := (d 9).truncate 32 }

/-- Entry s of a compressed level's segment array: the entry index and the byte offset (R255). -/
def segEntry (lv : Level) (s : Nat) : Op (Nat × Nat) := do
  if lv.x then do
    let w ← ahead (lv.seg + n64 (8 * s)) 8
    pure (w % 2 ^ 32, w / 2 ^ 32)
  else do
    let w ← ahead (lv.seg + n64 (4 * s)) 4
    pure (w, w)

/-- Open a level's segment s as an input (R254, R264). -/
def openIn (f : Nat) (lv : Level) (s : Nat) : Op Stream := do
  let v0 ← freeStream fIN lv.desc lv
  let v := { v0 with segment := BitVec.ofNat 32 s }
  match lv.kind with
  | 0 =>
    let w := { v with entry := BitVec.ofNat 32 (s * lv.extent), hi := BitVec.ofNat 32 (s * lv.extent + lv.extent) }
    pure (if lv.extent == 0 then { w with atEnd := true } else { w with coord := 0 })
  | 1 => do
    let a ← segEntry lv s
    let b ← segEntry lv (s + 1)
    let w := { v with entry := BitVec.ofNat 32 a.1, hi := BitVec.ofNat 32 b.1, byte := BitVec.ofNat 32 a.2
                      bend := if lv.x then BitVec.ofNat 32 b.2 else v.bend }
    if b.1 < a.1 || b.2 < a.2 then malcoord f w 4
    else if a.1 == b.1 then pure { w with atEnd := true }
    else decodeEntry lv f w none
  | 2 => do
    let first ← ahead (lv.pos + n64 (4 * s)) 4
    let n ← countBits lv s lv.extent
    let b ← nextBit lv s lv.extent 0
    let w := { v with entry := BitVec.ofNat 32 first, hi := BitVec.ofNat 32 (first + n) }
    match b with
    | some b => pure { w with coord := BitVec.ofNat 32 b }
    | none => pure { w with atEnd := true }
  | _ => do
    let w := { v with entry := BitVec.ofNat 32 s, hi := BitVec.ofNat 32 (s + 1) }
    let c ← ahead (lv.seg + n64 (4 * s)) 4
    if c ≥ lv.extent then malcoord f w 2 else pure { w with coord := BitVec.ofNat 32 c }

/-- Open a compressed level for output at an entry with a value base (R264). -/
def openOut (lv : Level) (entry : Nat) (vbase : Word64) : Op Stream := do
  let v ← freeStream fOUT lv.desc lv
  if lv.kind != lCompressed then trapAt cACCESS lv.desc
  else pure { v with entry := BitVec.ofNat 32 entry, byte := BitVec.ofNat 32 entry, vbase := vbase, coord := fNone
                     offered := fNone }

/-- FOPEN with its segment operand and value base (R264). -/
def openWith (r : Fopen) (seg : Nat) (vbase : Word64) : Op Unit := do
  accept r.f.toNat [fCLOSED, fIN, fOUT]
  let a := (← getS r.a) + (r.disp.signExtend 64 <<< 2)
  checkHole a
  checkAlign a 4
  awaitEngines
  let lv ← readLevel a
  let v ← (if r.o then openOut lv seg vbase else openIn r.f.toNat lv seg)
  modL fun l => l.putStream r.f.toNat v

/-- FOPEN without an extension word: segment 0, value base 0. -/
def fopenOp (r : Fopen) : Op Unit := do
  need [srcS r.a r.wa]
  openWith r 0 0

/-- FOPEN with an extension word. -/
def fopenExtOp (r : Fopen) (e : FopenX) : Op Unit := do
  need (srcS r.a r.wa :: srcS e.b e.wb :: (if r.o then [srcS (e.b + 1) e.wb] else []))
  let seg := ((← getS e.b).toNat + e.segi.toNat) % 2 ^ 32
  openWith r seg (← getS (e.b + 1))

/-! ### Advancing and joining -/

/-- FNEXT (R265). -/
def fnextOp (r : Fnext) : Op Unit := do
  let f := r.f.toNat
  let n := r.nm1.toNat + 1
  accept f (fOUT :: fWalk)
  awaitEngines
  let v := (← get).cctx.live.stream f
  if v.state == fOUT then
    if n != 1 then trapAt cACCESS (streamInfo f)
    else modL fun l => l.putStream f { v with coord := fNone, offered := fNone, count := 0 }
  else do
    let w ← walkOf f v
    let w' ← w.advanceBy n
    putWalk w'

/-- FSKIP (R265). -/
def fskipOp (r : Fskip) : Op Unit := do
  need [srcS r.b r.wb]
  let f := r.f.toNat
  accept f fWalk
  awaitEngines
  let c := (← getS r.b).toNat
  let w ← walkOf f ((← get).cctx.live.stream f)
  let w' ← w.skip c r.t
  putWalk w'

/-- FISECT and FUNION (R259, R266). -/
def joinOp (state : BitVec 3) (r : Fjoin) : Op Unit := do
  accept r.x.toNat [fIN]
  accept r.y.toNat [fIN]
  if r.x == r.y then trapAt cACCESS (streamInfo r.y.toNat) else pure ()
  accept r.d.toNat [fCLOSED, fIN, fOUT]
  if r.d == r.x || r.d == r.y then trapAt cACCESS (streamInfo r.d.toNat) else pure ()
  awaitEngines
  let d ← freeDraw
  let v0 ← freeStream state (d 0) { desc := 0, kind := (d 1).toNat % 4, t := false, x := false, extent := (d 2).toNat, seg := 0,
                                    pos := 0 }
  let w ← walkOf r.d.toNat { v0 with x := r.x, y := r.y }
  let w' ← resync w
  putWalk { w' with x := { w'.x with state := fHELD }, y := { w'.y with state := fHELD } }

def fisectOp (r : Fjoin) : Op Unit := joinOp fISECT r
def funionOp (r : Fjoin) : Op Unit := joinOp fUNION r

/-! ### Queued operations (R260) -/

/-- The fibre queue holds 4 commands; where it is full the bundle blocks (R37). -/
def fibreRoom : Op Unit := do
  let s ← get
  if s.ccore.fq.length ≥ 4 then throw (.block (.queue 2)) else pure ()

/-- A fibre write waits for what the context's earlier engine commands still read or write of its range (R99, R261): copies, and the
commands of the matrix engine. -/
def awaitWrite (ea : Word64) (n : Nat) : Op Unit := do
  awaitCopies true ea n
  let s ← get
  let r := scratchRange ea n
  let c := s.ccore
  if (c.mq ++ c.mrun.toList).any fun m => m.x == s.cur.x && (m.ranges s).1.any fun a => r.any (overlap a) then
    throw (.stall .matrix)
  else pure ()

/-- Put an operation into the fibre queue. -/
def pushFibre (o : FOp) : Op Unit := do
  let k := (← get).cur
  modK fun c => { c with fq := c.fq ++ [{ x := k.x, pc := k.pc, op := o }] }

/-- Reserve the gate entry of an operation whose data has still to form (R261, R271). -/
def reserveGate : Op Nat := do
  let s ← get
  let e : GateEnt := { id := s.nextId, src := 2, cls := 0, writes := [], poison := [], hst := none, ready := false,
                       time := s.time }
  set { s with nextId := s.nextId + 1 }
  modC fun c => { c with gate := c.gate ++ [e] }
  pure s.nextId

/-- The number of lanes E of a width (R267). -/
def fibreLanes (w : BitVec 2) : Nat := if w == 3 then 16 else 32

/-- Up to E elements of a register, and where it stands once it has moved past them (R267). -/
def takeElems (f : Nat) (keep : Bool) (n : Nat) : Op (List MergeElem × Walk) := do
  let w ← walkOf f ((← get).cctx.live.stream f)
  w.take (!keep) n

/-- With K = 0 a register moves past the elements taken (R267). -/
def passElems (keep : Bool) (w : Walk) : Op Unit := if keep then pure () else putWalk w

/-- The side of each element that is delivered (R267). -/
def sideAddrs (side : Bool) (base : Word64) (n : Nat) (l : List MergeElem) : List (Option Word64) :=
  l.map fun e => (if side then e.ey else e.ex).map fun i => base + n64 (n * i)

/-- The elements that the operation will read lie outside the hole (R134), and no copy is still to write them (R99). -/
def checkHoles (n : Nat) (l : List (Option Word64)) : Op Unit :=
  forEach l fun a => match a with
    | some a => do
      checkHole a
      awaitCopies false a n
    | none => pure ()

/-- FLDV (R267): f moves once every check has passed, so that a trap leaves it where it was (R49). -/
def fldvOp (r : Fldv) : Op Unit := do
  fibreRoom
  need [srcS r.a r.wa]
  let f := r.f.toNat
  accept f fWalk
  let n := laneN r.w
  let st := ((← get).cctx.live.stream f).state
  if r.side && st == fIN then trapAt cACCESS (streamInfo f) else pure ()
  let base ← getS r.a
  checkAlign base n
  awaitEngines
  let t ← takeElems f r.k (fibreLanes r.w)
  let addrs := sideAddrs r.side base n t.1
  checkHoles n addrs
  passElems r.k t.2
  let tok ← markEmpty true r.vd.toNat
  pushFibre (.fldv tok r.vd.toNat n addrs)

/-- FCRD (R267). -/
def fcrdOp (r : Fcrd) : Op Unit := do
  fibreRoom
  let f := r.f.toNat
  accept f fWalk
  awaitEngines
  let t ← takeElems f r.k (fibreLanes r.w)
  passElems r.k t.2
  let tok ← markEmpty true r.vd.toNat
  pushFibre (.fcrd tok r.vd.toNat (laneReg (laneN r.w) (t.1.map (·.coord))))

/-- The emitted coordinates of FEMIT are checked in lane order against the offered coordinate and the extent (R268). -/
def checkEmit (f extent : Nat) : Option Nat → List (Nat × Nat) → Op Unit
  | _, [] => pure ()
  | prev, (lane, c) :: l => do
    let low := match prev with
      | some p => decide (c ≤ p)
      | none => false
    if low then malOut f 1 lane
    else if c ≥ extent then malOut f 2 lane
    else checkEmit f extent (some c) l

/-- The offered coordinate of an output, where there is one. -/
def Stream.offer (v : Stream) : Option Nat := if v.offered == fNone then none else some v.offered.toNat

/-- FEMIT (R268). -/
def femitOp (r : Femit) : Op Unit := do
  fibreRoom
  need [srcV r.v r.wv, srcV (r.v + 1) r.wv]
  let f := r.f.toNat
  accept f [fOUT]
  awaitEngines
  let v := (← get).cctx.live.stream f
  let lv ← readLevel v.desc
  let n := laneN r.w
  let p ← getP r.p
  let cs := lanesOf 4 (← getV r.v)
  let vals := elemsOf (8 * n) (fibreLanes r.w) (← getV (r.v + 1)).toNat
  let l := ((upTo (fibreLanes r.w)).filter fun i => bitAt p.toNat (4 * i)).map fun i => (i, cs.getD i 0, vals.getD i 0)
  checkEmit f v.extent.toNat v.offer (l.map fun (i, c, _) => (i, c))
  match l.getLast? with
  | some (_, c, _) => modL fun s => s.putStream f { v with offered := BitVec.ofNat 32 c }
  | none => pure ()
  awaitWrite (lv.pos + v.byte.zeroExtend 64) (5 * l.length)
  awaitWrite (v.vbase + n64 (n * v.entry.toNat)) (n * l.length)
  let g ← reserveGate
  pushFibre (.femit f n lv.pos (l.map fun (_, c, u) => (c, u)) g)

/-- FMERGE at its issue (R269). -/
def fmergeOp (r : Fmerge) : Op Unit := do
  fibreRoom
  need [srcS r.a r.wa, srcS r.b r.wb]
  let fo := r.fo.toNat
  let fu := r.fu.toNat
  accept fo [fOUT]
  accept fu [fUNION]
  let n := mergeBytes r.fmt.toNat
  let a ← getS r.a
  let b ← getS r.b
  checkAlign a n
  checkAlign b n
  awaitEngines
  let v := (← get).cctx.live.stream fo
  let lv ← readLevel v.desc
  let w ← walkOf fu ((← get).cctx.live.stream fu)
  let t ← w.take true 32
  if t.1.any fun e => e.coord ≥ v.extent.toNat then malOut fo 2 0 else pure ()
  checkHoles n (sideAddrs false a n t.1 ++ sideAddrs true b n t.1)
  putWalk t.2
  if t.1.isEmpty then pure ()
  else modL fun s => s.putStream fo { v with offered := BitVec.ofNat 32 ((t.1.map (·.coord)).foldl max 0) }
  awaitWrite (lv.pos + v.byte.zeroExtend 64) (5 * t.1.length)
  awaitWrite (v.vbase + n64 (n * v.entry.toNat)) (n * t.1.length)
  let rm ← getRM
  let g ← reserveGate
  pushFibre (.fmerge fo r.fmt.toNat lv.pos r.z t.1 a b rm g)

/-- FSTAT (R270). -/
def fstatOp (r : Fstat) : Op Unit := do
  fibreRoom
  let tok ← markEmpty false r.d.toNat
  pushFibre (.fstat tok r.d.toNat r.f.toNat r.sel.toNat)

/-! ### Saving, restoring and closing -/

/-- FSAVE (R271). -/
def fsaveOp (r : Fimg) : Op Unit := do
  fibreRoom
  need [srcS r.a r.wa]
  let ea ← getS r.a
  checkHole ea
  checkAlign ea 64
  awaitEngines
  awaitWrite ea 64
  let g ← reserveGate
  pushFibre (.fsave r.f.toNat ea g)

/-- The register that an image holds (R262). -/
def Stream.ofImage (w : Nat) : Stream :=
  { desc := n64 (fld w 63 0), state := BitVec.ofNat 3 (fld w 71 64), atEnd := bitAt w 72, px := bitAt w 73, py := bitAt w 74
    escw := bitAt w 75, bad := bitAt w 76, cond := BitVec.ofNat 3 (fld w 79 77), kind := BitVec.ofNat 2 (fld w 87 80)
    x := BitVec.ofNat 4 (fld w 91 88), y := BitVec.ofNat 4 (fld w 95 92), extent := BitVec.ofNat 32 (fld w 127 96)
    segment := BitVec.ofNat 32 (fld w 159 128), entry := BitVec.ofNat 32 (fld w 191 160), hi := BitVec.ofNat 32 (fld w 223 192)
    coord := BitVec.ofNat 32 (fld w 255 224), byte := BitVec.ofNat 32 (fld w 287 256), bend := BitVec.ofNat 32 (fld w 319 288)
    vbase := n64 (fld w 383 320), count := BitVec.ofNat 32 (fld w 415 384), offered := BitVec.ofNat 32 (fld w 447 416) }

/-- A joint register other than f has g as an input. -/
def Live.usedBy (l : Live) (f g : Nat) : Bool :=
  (upTo 16).any fun h => h != f && (l.stream h).joint && ((l.stream h).x.toNat == g || (l.stream h).y.toNat == g)

/-- An image that FREST refuses (R271). -/
def Live.imageBad (l : Live) (f w : Nat) : Bool :=
  let v := Stream.ofImage w
  let held := fun (g : Nat) => (l.stream g).state == fHELD && !l.usedBy f g
  fld w 71 64 > 5 || fld w 87 82 != 0 || fld w 511 448 != 0 || (v.joint && !(held v.x.toNat && held v.y.toNat))

/-- FREST (R271). -/
def frestOp (r : Fimg) : Op Unit := do
  need [srcS r.a r.wa]
  let f := r.f.toNat
  accept f [fCLOSED, fIN, fOUT]
  let ea ← getS r.a
  checkHole ea
  checkAlign ea 64
  awaitEngines
  let w ← ahead ea 64
  let l := (← get).cctx.live
  if l.imageBad f w then trapAt cACCESS ea else modL fun l => l.putStream f (Stream.ofImage w)

/-- FCLOSE (R272): a joint stream returns its inputs to IN. -/
def fcloseOp (r : Fclose) : Op Unit := do
  let f := r.f.toNat
  accept f [fCLOSED, fIN, fOUT, fISECT, fUNION]
  drainFibre (← get).cur.x
  modL fun l =>
    let v := l.stream f
    let free := fun (l : Live) (g : Nat) => l.putStream g { l.stream g with state := fIN }
    let l := if v.joint then free (free l v.x.toNat) v.y.toNat else l
    l.putStream f Stream.closed

/-- NOP of slot F (R272). -/
def fNopOp : Op Unit := pure ()

/-! ### Meanings: each operation performed as an issue of its own -/

def execFopen (r : Fopen) (s : State) : Host.Outcome State Fault Refusal :=
  slotRun (.fopen r) (fopenOp r) s

def execFopenExt (r : Fopen) (e : FopenX) (s : State) : Host.Outcome State Fault Refusal :=
  slotRun (.fopenExt r e) (fopenExtOp r e) s

def execFnext (r : Fnext) (s : State) : Host.Outcome State Fault Refusal :=
  slotRun (.fnext r) (fnextOp r) s

def execFskip (r : Fskip) (s : State) : Host.Outcome State Fault Refusal :=
  slotRun (.fskip r) (fskipOp r) s

def execFisect (r : Fjoin) (s : State) : Host.Outcome State Fault Refusal :=
  slotRun (.fisect r) (fisectOp r) s

def execFunion (r : Fjoin) (s : State) : Host.Outcome State Fault Refusal :=
  slotRun (.funion r) (funionOp r) s

def execFldv (r : Fldv) (s : State) : Host.Outcome State Fault Refusal :=
  slotRun (.fldv r) (fldvOp r) s

def execFcrd (r : Fcrd) (s : State) : Host.Outcome State Fault Refusal :=
  slotRun (.fcrd r) (fcrdOp r) s

def execFemit (r : Femit) (s : State) : Host.Outcome State Fault Refusal :=
  slotRun (.femit r) (femitOp r) s

def execFmerge (r : Fmerge) (s : State) : Host.Outcome State Fault Refusal :=
  slotRun (.fmerge r) (fmergeOp r) s

def execFstat (r : Fstat) (s : State) : Host.Outcome State Fault Refusal :=
  slotRun (.fstat r) (fstatOp r) s

def execFsave (r : Fimg) (s : State) : Host.Outcome State Fault Refusal :=
  slotRun (.fsave r) (fsaveOp r) s

def execFrest (r : Fimg) (s : State) : Host.Outcome State Fault Refusal :=
  slotRun (.frest r) (frestOp r) s

def execFclose (r : Fclose) (s : State) : Host.Outcome State Fault Refusal :=
  slotRun (.fclose r) (fcloseOp r) s

def execFNop (s : State) : Host.Outcome State Fault Refusal :=
  slotRun .fNop fNopOp s

end Sys2Proof.Machine
end

