-- ==== Sys2Proof/Machine/Matrix.lean ====
section
/-! DEFINITION. Machine/Matrix.lean: the M-slot instructions at their issue (R182 to R199): rights, formats, depths and rings are
checked and changed against the state that all earlier issued operations leave (R184), and a command is handed to the engine at
the mark that ends the issue. -/

namespace Sys2Proof.Machine

/-! ### Rights (R183, R189, R195) -/

/-- The index of the issuing context on its core. -/
def myIndex : Op Nat := do
  let s ← get
  pure (s.cur.x % 4)

/-- A bank on which the issuing context may act: as its owner or, to read it, with a grant (R183). An operation of the scale port on
an unallocated bank raises UNALLOC, as R183's table has it, where R203, R204 and R206 speak of ACCESS (log 29). -/
def bankFor (b : Nat) (read : Bool) : Op Bank := do
  let s ← get
  let v := s.ccore.bank b
  let i := s.cur.x % 4
  if !v.owned then trapAt cUNALLOC (n64 b)
  else if v.owner == i || (read && bitAt v.grants.toNat i) then pure v
  else trapAt cACCESS (n64 b)

/-- A bank owned by the issuing context, of one format (R183). -/
def bankOf (b fmt : Nat) : Op Unit := do
  let v ← bankFor b false
  if v.fmt != fmt then trapAt cACCESS (n64 b) else pure ()

/-- A counter set as tinfo names it. -/
def setInfo (n : Nat) : Word64 := n64 (n + 2 ^ 8)

/-- A counter set of the issuing context (R195). -/
def csetFor (n : Nat) : Op CSet := do
  let s ← get
  let v := s.ccore.cset n
  if !v.owned then trapAt cUNALLOC (setInfo n)
  else if v.owner != s.cur.x % 4 then trapAt cACCESS (setInfo n)
  else pure v

/-- A ring as tinfo names it. -/
def ringInfo (g : Nat) : Word64 := n64 (g + 2 * 2 ^ 8)

/-- The generation of a ring of the issuing context that holds tiles of t bytes (R189). -/
def ringFor (g t : Nat) : Op Nat := do
  let s ← get
  match fget? s.ccore.ringOf g with
  | none => trapAt cUNALLOC (ringInfo g)
  | some n =>
    let r := s.ccore.ringGen n
    if r.owner != s.cur.x % 4 || t > r.size then trapAt cACCESS (ringInfo g) else pure n

/-- The rings of an MMA or MCNT; one ring that serves as both holds the two tiles (R189). -/
def ringsFor (ga gb ta tb : Nat) : Op (Nat × Nat) := do
  if ga == gb then do
    let n ← ringFor ga (ta + tb)
    pure (n, n)
  else do
    let a ← ringFor ga ta
    let b ← ringFor gb tb
    pure (a, b)

/-! ### Commands -/

/-- The engine queue holds 8 commands; where it is full the bundle blocks (R37, R194). -/
def matrixRoom : Op Unit := do
  let s ← get
  let n := ((s.ccore.mq ++ s.cctx.heldX).filter (·.slot == 6)).length
  if n ≥ 8 then throw (.block (.queue 0)) else pure ()

/-- Hold a command for the engine until the next mark (R184, R202). -/
def pushEngine (op : MOp) (port : Option PortEntry) : Op Unit := do
  let s ← get
  let m : MCmd := { seq := s.ccore.seq, x := s.cur.x, pc := s.cur.pc, slot := s.cur.slot, op := op, port := port }
  modK fun c => { c with seq := c.seq + 1 }
  modC fun c => { c with heldX := c.heldX ++ [m] }

/-- Change a bank as issued. -/
def modBank (b : Nat) (f : Bank → Bank) : Op Unit := modK fun c => c.setBank b (f (c.bank b))

/-- Change a counter set as issued. -/
def modSet (n : Nat) (f : CSet → CSet) : Op Unit := modK fun c => c.setCset n (f (c.cset n))

/-! ### Banks (R186, R187) -/

/-- The banks that the driver reserved for the region on each core (R28). -/
def State.bankBudget (s : State) (x : Nat) : Nat :=
  match s.region? (s.ctx x).region with
  | some r => r.banks
  | none => 32

/-- ACALLOC (R186). -/
def acallocOp (r : Acalloc) : Op Unit := do
  matrixRoom
  let s ← get
  let b := r.b.toNat
  let i ← myIndex
  let held := (s.ccore.banks.filter fun (_, v) => v.owned).length
  if (s.ccore.bank b).owned || held ≥ s.bankBudget s.cur.x then trapAt cACCESS (n64 b)
  else do
    modBank b fun v => { v with owned := true, owner := i, grants := 0, fmt := r.fmt.toNat }
    pushEngine (.clear b r.fmt.toNat) none

/-- ACFREE (R186). -/
def acfreeOp (r : Acfree) : Op Unit := do
  matrixRoom
  let _ ← bankFor r.b.toNat false
  modBank r.b.toNat fun v => { v with owned := false, grants := 0 }

/-- ACGRANT (R186). -/
def acgrantOp (r : Acgrant) : Op Unit := do
  matrixRoom
  let _ ← bankFor r.b.toNat false
  let i ← myIndex
  let bit : BitVec 4 := 1 <<< r.ctx.toNat
  if r.ctx.toNat == i then pure ()
  else modBank r.b.toNat fun v => { v with grants := if r.r then v.grants &&& ~~~bit else v.grants ||| bit }

/-- ACZERO (R187). -/
def aczeroOp (r : Aczero) : Op Unit := do
  matrixRoom
  let v ← bankFor r.b.toNat false
  pushEngine (.clear r.b.toNat v.fmt) none

/-- The half-row index at an issue index (R185). -/
def halfRow (row : BitVec 5) (h : Bool) (stride : BitVec 15) (k : Nat) : Nat :=
  (2 * row.toNat + b2n h + k * stride.toNat) % 64

/-- ACRD (R187). -/
def acrdOp (r : Acrd) : Op Unit := do
  matrixRoom
  let _ ← bankFor r.b.toNat true
  let k := (← get).cur.k
  let tok ← markEmpty true r.vd.toNat
  pushEngine (.read r.b.toNat (halfRow r.row r.h r.stride k) tok r.vd.toNat) none

/-- Everything issued before on the core's banks performs first (R184): the issue stalls on the engine's queue, and the X
operations that the context holds perform in place, since this issue ends with the mark that hands them over. What they read
follows the context's earlier stores and engine commands (R99, R205). -/
def settleEngine : Op Unit := do
  let s ← get
  let held := s.cctx.heldX
  if !s.ccore.mq.isEmpty || s.ccore.mrun.isSome then throw (.stall .matrix)
  else if held.isEmpty then pure ()
  else do
    commitGate
    let s ← get
    if held.any (s.mHeld (coreOf s.cur.x)) then throw (.stall (if s.treeBusy s.cur.x then .tree else .copy))
    else do
      modC fun c => { c with heldX := [] }
      modify fun s => held.foldl (fun s m => m.run s) s

/-- The status word of a bank (R187). -/
def Bank.status (v : Bank) : Word64 :=
  if v.owned then
    n64 (v.poison.toNat + v.fmt * 2 ^ 32 + v.owner * 2 ^ 34 + v.grants.toNat * 2 ^ 36 + b2n v.wv * 2 ^ 40)
  else n64 (v.poison.toNat + 3 * 2 ^ 32 + b2n v.wv * 2 ^ 40)

/-- ACRD.st (R187). -/
def acrdStOp (r : AcrdSt) : Op Unit := do
  matrixRoom
  settleEngine
  let s ← get
  writeS r.sd (s.ccore.bank r.b.toNat).status

/-- ACWR (R187). -/
def acwrOp (r : Acwr) : Op Unit := do
  matrixRoom
  need [srcV r.vs r.wv]
  let _ ← bankFor r.b.toNat false
  let k := (← get).cur.k
  let v ← getV r.vs
  pushEngine (.write r.b.toNat (halfRow r.row r.h r.stride k) v) none

/-! ### Products (R190, R191, R201) -/

/-- K of a form. -/
def kOfForm (km : BitVec 12) : Nat := 16 * (km.toNat + 1)

/-- The formats of bank that a product format suits (R190). -/
def mmaSuits (fmt bfmt k : Nat) : Bool :=
  if bfmt == bLPX then fmt ≤ 1 && k == 16
  else if fmt == 4 then bfmt == bINT32
  else bfmt == bFP32

/-- Push an entry onto the port of the context's mode; an eighth overwrites the oldest (R201). -/
def pushPort (e : PortEntry) : Op Unit := modC fun c =>
  let put := fun (l : List PortEntry) => (l ++ [e]).drop (l.length + 1 - 7)
  if c.handler then { c with portsH := put c.portsH } else { c with ports := put c.ports }

/-- MMA at its issue. -/
def mmaOp (fmt : Nat) (r : Mma) : Op Unit := do
  matrixRoom
  let b := r.b.toNat
  let k := kOfForm r.km
  let v ← bankFor b false
  if !mmaSuits fmt v.fmt k then trapAt cACCESS (n64 b) else pure ()
  let t := mmaBytes fmt v.fmt k
  let g ← ringsFor r.ga.toNat r.gb.toNat t.1 t.2
  let s ← get
  let id := s.nextId
  if fmt ≥ 5 || v.fmt == bLPX then do
    set { s with nextId := id + 1 }
    pushPort { tag := s.cctx.live.issueNo s.cctx.handler, id := id, bank := b, lpx := v.fmt == bLPX, wit := r.wit,
               data := none }
  else pure ()
  pushEngine (.mma fmt b v.fmt g.1 g.2 r.ka r.kb r.wit k id) none

def mmaBf16Op (r : Mma) : Op Unit := mmaOp 0 r
def mmaFp16Op (r : Mma) : Op Unit := mmaOp 1 r
def mmaE4m3Op (r : Mma) : Op Unit := mmaOp 2 r
def mmaE5m2Op (r : Mma) : Op Unit := mmaOp 3 r
def mmaInt8Op (r : Mma) : Op Unit := mmaOp 4 r
def mmaSx8Op (r : Mma) : Op Unit := mmaOp 5 r
def mmaSx5Op (r : Mma) : Op Unit := mmaOp 6 r
def mmaSx3Op (r : Mma) : Op Unit := mmaOp 7 r

/-! ### Counting (R195 to R199) -/

/-- The largest depth (R73). -/
def depthMax : Nat := 524287

/-- The detail of DEPTH (R48). -/
def depthInfo (n depth : Nat) : Word64 := n64 (n + depth % 2 ^ 20 * 2 ^ 20)

/-- A format that differs from one already set raises ACCESS (R195). -/
def checkSetFmt (n : Nat) (v : CSet) (fmt : Nat) : Op Unit :=
  if v.fmt != 0 && v.fmt != fmt then trapAt cACCESS (setInfo n) else pure ()

/-- MCNT at its issue (R196): format 1 INT4, 2 E2M1. -/
def mcntOp (fmt : Nat) (r : Mcnt) : Op Unit := do
  matrixRoom
  let n := r.n.toNat
  let k := kOfForm r.km
  let v ← csetFor n
  checkSetFmt n v fmt
  let g ← ringsFor r.ga.toNat r.gb.toNat (16 * k) (32 * k)
  if v.depth + k > depthMax then trapAt cDEPTH (depthInfo n (v.depth + k)) else pure ()
  modSet n fun v => { v with fmt := fmt, depth := v.depth + k }
  pushEngine (.mcnt fmt n g.1 g.2 r.ka r.kb k) none

def mcntInt4Op (r : Mcnt) : Op Unit := mcntOp 1 r
def mcntE2m1Op (r : Mcnt) : Op Unit := mcntOp 2 r

/-- NCLR (R195). -/
def nclrOp (r : Nclr) : Op Unit := do
  matrixRoom
  let n := r.n.toNat
  let i ← myIndex
  let v := (← get).ccore.cset n
  if v.owned && v.owner != i then trapAt cACCESS (setInfo n)
  else do
    modSet n fun v => { v with owned := true, owner := i, fmt := 0, depth := 0 }
    pushEngine (.nclr n) none

/-- The address of a counter image (R197): 64-byte aligned and wholly inside the scratchpad. -/
def imageAddr (a : Word64) : Op Nat := do
  if a.toNat % 64 != 0 then trapAt cALIGN a
  else if a.toNat + imageBytes > 0x300000 then trapAt cACCESS a
  else pure a.toNat

/-- The depth and format of an image as the context reads its header (R197): its own stores and what its engines and copies write
come first (R99). -/
def imageHeader (n : Nat) (a : Word64) : Op (Nat × Nat) := do
  awaitEngines
  awaitCopies false a 8
  let b ← loadBytes 7 0 a 8
  let depth := ofBytes (b.1.take 4)
  let fmt := ofBytes ((b.1.drop 4).take 1)
  if fmt > 2 then trapAt cACCESS (setInfo n)
  else if depth > depthMax then trapAt cDEPTH (depthInfo n depth)
  else pure (depth, fmt)

/-- NMERGE (R197). -/
def nmergeOp (r : Nimg) : Op Unit := do
  matrixRoom
  need [srcS r.a r.wa]
  let n := r.n.toNat
  let v ← csetFor n
  let a ← getS r.a
  let addr ← imageAddr a
  let h ← imageHeader n a
  checkSetFmt n v h.2
  if v.depth + h.1 > depthMax then trapAt cDEPTH (depthInfo n (v.depth + h.1)) else pure ()
  modSet n fun v => { v with depth := v.depth + h.1, fmt := if v.fmt == 0 then h.2 else v.fmt }
  pushEngine (.nmerge n addr) none

/-- NDUMP (R197). -/
def ndumpOp (r : Nimg) : Op Unit := do
  matrixRoom
  need [srcS r.a r.wa]
  let n := r.n.toNat
  let _ ← csetFor n
  let addr ← imageAddr (← getS r.a)
  pushEngine (.ndump n addr) none

/-- NLOAD (R197). -/
def nloadOp (r : Nimg) : Op Unit := do
  matrixRoom
  need [srcS r.a r.wa]
  let n := r.n.toNat
  let v ← csetFor n
  let a ← getS r.a
  let addr ← imageAddr a
  let h ← imageHeader n a
  checkSetFmt n v h.2
  modSet n fun v => { v with depth := h.1, fmt := h.2 }
  pushEngine (.nload n addr) none

/-- NDRAIN (R198). -/
def ndrainOp (r : Ndrain) : Op Unit := do
  matrixRoom
  let n := r.n.toNat
  bankOf r.b.toNat bINT32
  let _ ← csetFor n
  modSet n fun v => { v with depth := if r.c then 0 else v.depth, owned := !r.r }
  pushEngine (.ndrain r.b.toNat n r.c r.r) none

/-- NCHK (R199). -/
def nchkOp (r : Nchk) : Op Unit := do
  matrixRoom
  let _ ← csetFor r.n.toNat
  let tok ← markEmpty false r.d.toNat
  pushEngine (.nchk r.n.toNat tok r.d.toNat) none

/-! ### Operand rings (R188) -/

/-- RGSET: a ring is set up as a new generation, so that what was issued before goes on with the old one. -/
def rgsetOp (r : Rgset) : Op Unit := do
  matrixRoom
  let g := r.g.toNat
  let i ← myIndex
  let c := (← get).ccore
  let other := match fget? c.ringOf g with
    | some n => (c.ringGen n).owner != i
    | none => false
  if other then trapAt cACCESS (ringInfo g)
  else if r.size = 0 then modK fun c => { c with ringOf := fdel c.ringOf g }
  else
    modK fun c =>
      let v : Ring := { g := g, owner := i, base := 64 * r.base.toNat, size := 512 * r.size.toNat, head := 0, tail := 0,
                        fill := 0 }
      { c with rings := fput c.rings c.ringNext v, ringOf := fput c.ringOf g c.ringNext, ringNext := c.ringNext + 1 }

/-- NOP of slot M. -/
def mNopOp : Op Unit := pure ()

/-! ### Meanings: each operation performed as an issue of its own -/

def execAcalloc (r : Acalloc) (s : State) : Host.Outcome State Fault Refusal :=
  slotRun (.acalloc r) (acallocOp r) s

def execAcfree (r : Acfree) (s : State) : Host.Outcome State Fault Refusal :=
  slotRun (.acfree r) (acfreeOp r) s

def execAcgrant (r : Acgrant) (s : State) : Host.Outcome State Fault Refusal :=
  slotRun (.acgrant r) (acgrantOp r) s

def execAczero (r : Aczero) (s : State) : Host.Outcome State Fault Refusal :=
  slotRun (.aczero r) (aczeroOp r) s

def execAcrd (r : Acrd) (s : State) : Host.Outcome State Fault Refusal :=
  slotRun (.acrd r) (acrdOp r) s

def execAcrdSt (r : AcrdSt) (s : State) : Host.Outcome State Fault Refusal :=
  slotRun (.acrdSt r) (acrdStOp r) s

def execAcwr (r : Acwr) (s : State) : Host.Outcome State Fault Refusal :=
  slotRun (.acwr r) (acwrOp r) s

def execMmaBf16 (r : Mma) (s : State) : Host.Outcome State Fault Refusal :=
  slotRun (.mmaBf16 r) (mmaBf16Op r) s

def execMmaFp16 (r : Mma) (s : State) : Host.Outcome State Fault Refusal :=
  slotRun (.mmaFp16 r) (mmaFp16Op r) s

def execMmaE4m3 (r : Mma) (s : State) : Host.Outcome State Fault Refusal :=
  slotRun (.mmaE4m3 r) (mmaE4m3Op r) s

def execMmaE5m2 (r : Mma) (s : State) : Host.Outcome State Fault Refusal :=
  slotRun (.mmaE5m2 r) (mmaE5m2Op r) s

def execMmaInt8 (r : Mma) (s : State) : Host.Outcome State Fault Refusal :=
  slotRun (.mmaInt8 r) (mmaInt8Op r) s

def execMmaSx8 (r : Mma) (s : State) : Host.Outcome State Fault Refusal :=
  slotRun (.mmaSx8 r) (mmaSx8Op r) s

def execMmaSx5 (r : Mma) (s : State) : Host.Outcome State Fault Refusal :=
  slotRun (.mmaSx5 r) (mmaSx5Op r) s

def execMmaSx3 (r : Mma) (s : State) : Host.Outcome State Fault Refusal :=
  slotRun (.mmaSx3 r) (mmaSx3Op r) s

def execMcntInt4 (r : Mcnt) (s : State) : Host.Outcome State Fault Refusal :=
  slotRun (.mcntInt4 r) (mcntInt4Op r) s

def execMcntE2m1 (r : Mcnt) (s : State) : Host.Outcome State Fault Refusal :=
  slotRun (.mcntE2m1 r) (mcntE2m1Op r) s

def execNclr (r : Nclr) (s : State) : Host.Outcome State Fault Refusal :=
  slotRun (.nclr r) (nclrOp r) s

def execNmerge (r : Nimg) (s : State) : Host.Outcome State Fault Refusal :=
  slotRun (.nmerge r) (nmergeOp r) s

def execNdump (r : Nimg) (s : State) : Host.Outcome State Fault Refusal :=
  slotRun (.ndump r) (ndumpOp r) s

def execNload (r : Nimg) (s : State) : Host.Outcome State Fault Refusal :=
  slotRun (.nload r) (nloadOp r) s

def execNdrain (r : Ndrain) (s : State) : Host.Outcome State Fault Refusal :=
  slotRun (.ndrain r) (ndrainOp r) s

def execNchk (r : Nchk) (s : State) : Host.Outcome State Fault Refusal :=
  slotRun (.nchk r) (nchkOp r) s

def execRgset (r : Rgset) (s : State) : Host.Outcome State Fault Refusal :=
  slotRun (.rgset r) (rgsetOp r) s

def execMNop (s : State) : Host.Outcome State Fault Refusal :=
  slotRun .mNop mNopOp s

end Sys2Proof.Machine
end

