-- ==== Sys2Proof/Machine/Scale.lean ====
section
/-! DEFINITION. Machine/Scale.lean: the X-slot instructions at their issue (R200 to R206): registers are read and the port entry is
bound; the operation is held until the context's next mark (R202). -/

namespace Sys2Proof.Machine

/-- The port entry tagged six issues before this one, in the context's mode (R201). -/
def boundEntry : Op (Option PortEntry) := do
  let c := (← get).cctx
  let u := c.live.issueNo c.handler
  pure ((if c.handler then c.portsH else c.ports).find? fun e => e.tag + 6 == u)

/-- XSCALE (R203). -/
def xscaleOp (r : Xscale) : Op Unit := do
  need [srcS r.a r.wa]
  match ← boundEntry with
  | none => pure ()
  | some e => do
    bankOf e.bank bFP32
    let v ← getS r.a
    pushEngine (.xscale e.bank v.toInt) (some e)

/-- XEXPV (R204). -/
def xexpvOp (r : Xexpv) : Op Unit := do
  need [srcV r.va r.wa]
  match ← boundEntry with
  | none => pure ()
  | some e => do
    bankOf e.bank bLPX
    let v ← getV r.va
    pushEngine (.xexpv e.bank v) (some e)

/-- XFIX (R205): the side list stands at a core-local scratchpad address. -/
def xfixOp (r : Xfix) : Op Unit := do
  need [srcS r.a r.wa]
  let b := r.b.toNat
  let k := kOfForm r.km
  bankOf b bINT32
  let g ← ringFor r.g.toNat (32 * k)
  let a ← getS r.a
  if a.toNat ≥ 0x300000 then trapAt cACCESS a else pure ()
  checkAlign a 8
  pushEngine (.xfix b g a k r.pop) none

/-- XCVT (R206): the bank changes its format. -/
def xcvtOp (r : Xcvt) : Op Unit := do
  let b := r.b.toNat
  let mode := r.mode.toNat
  bankOf b (if mode == 0 then bINT32 else bFP32)
  modBank b fun v => { v with fmt := if mode == 0 then bFP32 else bINT32 }
  pushEngine (.xcvt b mode r.e.toInt) none

/-- NOP of slot X. -/
def xNopOp : Op Unit := pure ()

/-! ### Meanings: each operation performed as an issue of its own -/

def execXscale (r : Xscale) (s : State) : Host.Outcome State Fault Refusal :=
  slotRun (.xscale r) (xscaleOp r) s

def execXexpv (r : Xexpv) (s : State) : Host.Outcome State Fault Refusal :=
  slotRun (.xexpv r) (xexpvOp r) s

def execXfix (r : Xfix) (s : State) : Host.Outcome State Fault Refusal :=
  slotRun (.xfix r) (xfixOp r) s

def execXcvt (r : Xcvt) (s : State) : Host.Outcome State Fault Refusal :=
  slotRun (.xcvt r) (xcvtOp r) s

def execXNop (s : State) : Host.Outcome State Fault Refusal :=
  slotRun .xNop xNopOp s

end Sys2Proof.Machine
end

