-- ==== Sys2Proof/Machine/ShapeRegs.lean ====
section
/-! DEFINITION. Machine/ShapeRegs.lean: the H-slot instructions: shape registers and the record cache (R211 to R214). -/

namespace Sys2Proof.Machine

/-- The address of HLD and HST (R211): S[a] + 64 x (disp + k x stride). -/
def recordAddr (a : BitVec 6) (disp : BitVec 16) (stride : BitVec 15) : Op Word64 := do
  let k := (← get).cur.k
  let ea := effAddr (← getS a) (disp.signExtend 64 <<< 6) (stride.signExtend 64 <<< 6) k
  checkHole ea
  checkAlign ea 64
  pure ea

/-- Hold a record in the core's cache; a full one of 64 entries replaces one of the core's choosing (R214; log 8). -/
def cacheRecord (ea : Word64) (r : HReg) : Op Unit := do
  let c := (← get).ccore
  if c.rcache.length < 64 || fhas c.rcache ea.toNat then modK fun c => { c with rcache := fput c.rcache ea.toNat r }
  else do
    let n ← nextFree
    modK fun c => { c with rcache := fput (c.rcache.eraseIdx (Config.victim n % 64)) ea.toNat r }

/-- The record at an address through the record cache (R214): a miss reads it as a class-0 read; uncorrectable data raises POISON
as a deferred trap (log 14). -/
def loadRecord (ea : Word64) : Op HReg := do
  let s ← get
  match fget? s.ccore.rcache ea.toNat with
  | some r => pure r
  | none => do
    awaitEngines
    let b ← loadBytes 3 0 ea 64
    let r : HReg := BitVec.ofNat 512 (ofBytes b.1)
    cacheRecord ea r
    if b.2 then modify fun s => s.deferTrap s.cur.x { cause := cPOISON, info := s.cur.pc, slot := 5, tok := 0 } else pure ()
    pure r

/-- Schedule a write of a shape register (R213): it takes effect at the start of the third issue from this one. -/
def scheduleH (h : Nat) (whole : Bool) (field : Nat) (val : HReg) : Op Unit := do
  let c := (← get).cctx
  let w : HWrite := { h := h, whole := whole, field := field, val := val, due := c.live.issueNo c.handler + 3,
                      handler := c.handler }
  modL fun l => { l with hPend := l.hPend ++ [w] }

/-- HLD with its displacement and stride (R212). -/
def loadShape (r : Hmem) (disp : BitVec 16) (stride : BitVec 15) : Op Unit := do
  need [srcS r.a r.wa]
  let ea ← recordAddr r.a disp stride
  let v ← loadRecord ea
  scheduleH r.h.toNat true 0 v

/-- HST with its displacement and stride (R212). -/
def storeShape (r : Hmem) (disp : BitVec 16) (stride : BitVec 15) : Op Unit := do
  need [srcS r.a r.wa]
  let ea ← recordAddr r.a disp stride
  awaitEngines
  let s ← get
  let v := s.cur.h r.h
  let e : GateEnt := { id := s.nextId, src := 3, cls := 0, writes := [(ea, toBytes 64 v.toNat)], poison := [],
                       hst := some (ea, v), ready := true, time := s.time }
  set { s with nextId := s.nextId + 1 }
  modC fun c => { c with gate := c.gate ++ [e] }

def hldOp (r : Hmem) : Op Unit := loadShape r 0 0
def hldExtOp (r : Hmem) (e : HmemX) : Op Unit := loadShape r e.disp e.stride
def hstOp (r : Hmem) : Op Unit := storeShape r 0 0
def hstExtOp (r : Hmem) (e : HmemX) : Op Unit := storeShape r e.disp e.stride

/-- HSET (R212): an extent field takes the low 32 bits. -/
def hsetOp (r : Hset) : Op Unit := do
  need [srcS r.a r.wa]
  let v ← getS r.a
  scheduleH r.h.toNat false r.field.toNat (v.zeroExtend 512)

/-- HFENCE (R212): the whole record cache, or the entry of one address. -/
def hfenceOp (r : Hfence) : Op Unit := do
  if r.one then do
    need [srcS r.a r.wa]
    let ea ← getS r.a
    checkAlign ea 64
    modK fun c => { c with rcache := fdel c.rcache ea.toNat }
  else modK fun c => { c with rcache := [] }

/-- NOP of slot H. -/
def hNopOp : Op Unit := pure ()

/-! ### Meanings: each operation performed as an issue of its own -/

def execHld (r : Hmem) (s : State) : Host.Outcome State Fault Refusal :=
  slotRun (.hld r) (hldOp r) s

def execHldExt (r : Hmem) (e : HmemX) (s : State) : Host.Outcome State Fault Refusal :=
  slotRun (.hldExt r e) (hldExtOp r e) s

def execHst (r : Hmem) (s : State) : Host.Outcome State Fault Refusal :=
  slotRun (.hst r) (hstOp r) s

def execHstExt (r : Hmem) (e : HmemX) (s : State) : Host.Outcome State Fault Refusal :=
  slotRun (.hstExt r e) (hstExtOp r e) s

def execHset (r : Hset) (s : State) : Host.Outcome State Fault Refusal :=
  slotRun (.hset r) (hsetOp r) s

def execHfence (r : Hfence) (s : State) : Host.Outcome State Fault Refusal :=
  slotRun (.hfence r) (hfenceOp r) s

def execHNop (s : State) : Host.Outcome State Fault Refusal :=
  slotRun .hNop hNopOp s

end Sys2Proof.Machine
end

