-- ==== Sys2Proof/Machine/Copy.lean ====
section
/-! DEFINITION. Machine/Copy.lean: the C-slot instructions at their issue (R210, R215 to R226): room, the checks of the records, the
completion slot, and the command handed to the block-transfer engine. -/

namespace Sys2Proof.Machine

/-! ### Room and records -/

/-- The bundle blocks while the core has 32 active commands or the slot is held by an active command (R37, R216). -/
def copyRoom (cid : Nat) : Op Unit := do
  let s ← get
  let l := s.ccore.copies
  if l.length ≥ 32 then throw (.block (.queue 3))
  else if l.any fun p => p.x == s.cur.x && !p.lost && p.cid == cid then throw (.block (.cid cid))
  else pure ()

/-- The record of an h register as an operation uses it: BASE stepped by k x stride in units of 64 bytes (R122, R215). -/
def recordOf (h : BitVec 3) (stride : BitVec 15) : Op HReg := do
  let s ← get
  let v := s.cur.h h
  let base : Word64 := v.truncate 64 + n64 s.cur.k * (stride.signExtend 64 <<< 6)
  pure (hputField v 0 base.toNat)

/-- Raise SHAPE for an h register and a check (R48, R210). -/
def shapeTrap {α : Type} (h : BitVec 3) (check : Nat) : Op α := trapAt cSHAPE (n64 (h.toNat + check * 2 ^ 4))

/-- Checks 1 to 7 of a record (R210). -/
def checkRecord (h : BitVec 3) (v : HReg) : Op Unit :=
  match (shapeOf v).check with
  | some c => shapeTrap h c
  | none => pure ()

/-- A condition that must hold, with the check that fails otherwise. -/
def require (ok : Bool) (h : BitVec 3) (check : Nat) : Op Unit := if ok then pure () else shapeTrap h check

/-- A dimension of a record is a broadcast dimension. -/
def Shape.broadcasts (s : Shape) : Bool := s.dims.any fun d => d != 0 && s.broadcast d

/-- Two records agree (R219). -/
def Shape.agrees (d s : Shape) : Bool := d.fmt == s.fmt && d.rank == s.rank && d.ext == s.ext

/-- The FMT of a bank's cells (R210). -/
def cellFmt (bank : Nat) : Nat := if bank == bFP32 then 0x01 else if bank == bINT32 then 0x07 else 0x0D

/-- An accumulator record as a source: the rights of R183, and then the bank's current format (R210, R218). -/
def checkBank (h : BitVec 3) (s : Shape) : Op Unit :=
  if s.space != 2 then pure ()
  else do
    let v ← bankFor s.base true
    require (cellFmt v.fmt == s.fmt) h 6

/-- A barrier that takes a copy's arrivals (R134, R221). -/
def barrierOf (ba : Bool) (a : BitVec 6) : Op (Option Word64) := do
  if !ba then pure none
  else do
    let ea ← getS a
    checkHole ea
    checkAlign ea 32
    pure (some ea)

/-! ### Starting a command -/

/-- A command becomes active, or, where a record holds no element, completes at once (R210, R216, R217). A drain copy reads its
bank through the engine's queue (R184, R218). -/
def startCopy (cid : Nat) (kind : CopyKind) (dst src : HReg) (size : Nat) (empty : Bool) (bar : Option Word64)
    (waits : Bool) : Op Unit := do
  let s ← get
  let id := s.ccore.seq
  let x := s.cur.x
  let drain := (shapeOf src).space == 2
  let p : CopyCmd :=
    { id := id, x := x, cid := cid, seq := id, kind := kind, dst := dst, src := src, chunks := chunkCount size, done := []
      bad := [], bar := bar, pc := s.cur.pc, waits := waits, parked := false, image := none, needImage := drain, told := []
      served := [], upd := 0, consts := [], asid := s.asidOf x, lost := false }
  if empty then modC fun c => { c with bitmaps := fset (BitVec.allOnes 64) c.bitmaps cid (BitVec.allOnes 64) }
  else do
    modK fun c => { c with copies := c.copies ++ [p], seq := id + 1 }
    modify fun s => s.copyBits p
    if drain then pushEngine (.drain id (shapeOf src).base) none else pure ()

/-- A form with two records: `more` makes its checks 8 to 10. -/
def twoRecords (hd hs : BitVec 3) (ds : Bool) (stride : BitVec 15) (more : Shape → Shape → Op Unit) :
    Op (HReg × HReg) := do
  let d ← recordOf hd (if ds then stride else 0)
  let s ← recordOf hs stride
  checkRecord hd d
  checkRecord hs s
  let sd := shapeOf d
  let ss := shapeOf s
  more sd ss
  checkBank hs ss
  pure (d, s)

/-- Start a form with two records. -/
def startPair (cid : BitVec 5) (kind : CopyKind) (r : HReg × HReg) (bar : Option Word64) : Op Unit :=
  let d := shapeOf r.1
  let s := shapeOf r.2
  startCopy cid.toNat kind r.1 r.2 d.size (d.size == 0 || s.size == 0) bar false

/-- A destination is no accumulator bank (R218). -/
def notBank (hd : BitVec 3) (d : Shape) : Op Unit := require (d.space != 2) hd 9

/-! ### COPY, COPYT (R219, R224) -/

/-- A record that a dirty copy allows (R224). -/
def Shape.dirtyOk (s : Shape) : Bool := s.space == 0 && s.rank == 1 && s.base % 65536 == 0 && s.span % 65536 == 0

def copyForm (r : Copy) (e : CopyX) : Op Unit := do
  copyRoom r.cid.toNat
  need (if e.ba then [srcS e.a e.wa] else [])
  let p ← twoRecords r.hd r.hs r.ds e.stride fun d s => do
    require (d.agrees s && !d.broadcasts) r.hd 8
    notBank r.hd d
    if r.dt then do
      require d.dirtyOk r.hd 10
      require s.dirtyOk r.hs 10
    else pure ()
  let bar ← barrierOf e.ba e.a
  startPair r.cid (.copy r.dt) p bar

/-- The extension word's values where there is none. -/
def noCopyX : CopyX := { stride := 0, a := 0, wa := false, ba := false }

def copyOp (r : Copy) : Op Unit := copyForm r noCopyX
def copyExtOp (r : Copy) (e : CopyX) : Op Unit := copyForm r e

/-- The extents that COPYT asks for (R219). -/
def Shape.transposes (d s : Shape) : Bool :=
  d.rank ≥ 2 && d.rank == s.rank && d.fmt == s.fmt && d.extent 0 == s.extent 1 && d.extent 1 == s.extent 0 &&
    d.extent 2 == s.extent 2 && d.extent 3 == s.extent 3 &&
    (d.bits > 32 || d.bits == 0 || (d.extent 0 % (256 / d.bits) == 0 && d.extent 1 % (256 / d.bits) == 0))

def copytForm (r : Copyt) (e : CopyX) : Op Unit := do
  copyRoom r.cid.toNat
  need (if e.ba then [srcS e.a e.wa] else [])
  let p ← twoRecords r.hd r.hs r.ds e.stride fun d s => do
    require (d.transposes s && !d.broadcasts) r.hd 8
    require (d.bits ≤ 32) r.hd 9
    notBank r.hd d
  let bar ← barrierOf e.ba e.a
  startPair r.cid .copyt p bar

def copytOp (r : Copyt) : Op Unit := copytForm r noCopyX
def copytExtOp (r : Copyt) (e : CopyX) : Op Unit := copytForm r e

/-! ### CGATH, CSCAT (R219) -/

/-- The records of CGATH and CSCAT. -/
def rowsAgree (d s : Shape) : Bool := d.rank ≤ 2 && s.rank ≤ 2 && d.fmt == s.fmt && d.extent 0 == s.extent 0

def indexedForm (r : Cidx) (kind : Word64 → CopyKind) : Op Unit := do
  copyRoom r.cid.toNat
  need ((if r.ba then [srcS r.a r.wa] else []) ++ [srcS r.x r.wx])
  let p ← twoRecords r.hd r.hs false r.stride fun d s => do
    require (rowsAgree d s && !d.broadcasts) r.hd 8
    notBank r.hd d
  let bar ← barrierOf r.ba r.a
  let idx ← getS r.x
  checkHole idx
  checkAlign idx 4
  startPair r.cid (kind idx) p bar

def cgathOp (r : Cidx) : Op Unit := indexedForm r .gather
def cscatOp (r : Cidx) : Op Unit := indexedForm r .scatter

/-! ### CRED (R98, R219) -/

def credForm (r : Cred) (e : CopyX) : Op Unit := do
  copyRoom r.cid.toNat
  need (if e.ba then [srcS e.a e.wa] else [])
  let p ← twoRecords r.hd r.hs r.ds e.stride fun d s => do
    require (d.agrees s && !d.broadcasts) r.hd 8
    require (d.space == 0 && (d.fmt == 0x01 || d.fmt == 0x03 || d.fmt == 0x02 || d.fmt == 0x07)) r.hd 9
  let bar ← barrierOf e.ba e.a
  startPair r.cid (.reduce r.sr) p bar

def credOp (r : Cred) : Op Unit := credForm r noCopyX
def credExtOp (r : Cred) (e : CopyX) : Op Unit := credForm r e

/-! ### CRING (R220) -/

def cringForm (r : Cring) (e : CopyX) : Op Unit := do
  copyRoom r.cid.toNat
  need (if e.ba then [srcS e.a e.wa] else [])
  let h ← recordOf r.hs e.stride
  checkRecord r.hs h
  let sh := shapeOf h
  checkBank r.hs sh
  let t := sh.size
  let gen ← ringFor r.g.toNat t
  let bar ← barrierOf e.ba e.a
  let off := ((← get).ccore.ringGen gen).tail
  startCopy r.cid.toNat (.ring gen off) 0 h t (t == 0) bar true
  if t == 0 then pure ()
  else modK fun c =>
    let v := c.ringGen gen
    { c with rings := fput c.rings gen { v with tail := (v.tail + t) % v.size } }

def cringOp (r : Cring) : Op Unit := cringForm r noCopyX
def cringExtOp (r : Cring) (e : CopyX) : Op Unit := cringForm r e

/-! ### CWAIT, CTEST (R223) -/

def cwaitOp (r : Cwait) : Op Unit := do
  need (if r.a = 0 then [] else [srcS r.a r.wa])
  let m ← (if r.a = 0 then pure (BitVec.allOnes 64) else getS r.a)
  let s ← get
  let b := fget (BitVec.allOnes 64) s.cctx.bitmaps r.cid.toNat
  if b &&& m == m then pure () else throw (.block (.chunks r.cid.toNat m))

def ctestOp (r : Ctest) : Op Unit := do
  let s ← get
  writeS r.d (fget (BitVec.allOnes 64) s.cctx.bitmaps r.cid.toNat)

/-! ### PUBLISH (R225) -/

/-- Every byte of a record lies within one logical die. -/
def Shape.oneDie (s : Shape) : Bool :=
  s.size == 0 || (s.extentOf.1 ≥ 0 && s.extentOf.1 / 2 ^ 49 == (s.extentOf.2 - 1) / 2 ^ 49 && s.extentOf.2 ≤ 2 ^ 64)

def publishOp (r : Publish) : Op Unit := do
  copyRoom r.cid.toNat
  let h ← recordOf r.h 0
  checkRecord r.h h
  let sh := shapeOf h
  require (sh.sh && sh.space == 0 && sh.oneDie) r.h 9
  startCopy r.cid.toNat .publish h 0 sh.size (sh.size == 0) none true

/-! ### UPD (R226) -/

def updOp (r : Upd) : Op Unit := do
  copyRoom r.cid.toNat
  need ([srcS r.a r.wa] ++ (if r.g = 0 then [] else [srcS r.g r.wg]))
  let h ← recordOf r.h 0
  checkRecord r.h h
  let sh := shapeOf h
  require (sh.space == 0) r.h 9
  let a ← getS r.a
  checkHole a
  checkAlign a 128
  let g ← getS r.g
  if r.g = 0 then pure () else do
    checkHole g
    checkAlign g 32
  if sh.size == 0 then pure () else do
    awaitEngines
    awaitCopies false a 128
  let id := (← get).ccore.seq
  startCopy r.cid.toNat (.upd a [] (if r.g = 0 then none else some g)) h 0 sh.size (sh.size == 0) none true
  if sh.size == 0 then pure ()
  else do
    let k := coreOf (← get).cur.x
    match (← get).copyCmd k id with
    | none => pure ()
    | some p => do
      let b ← tryOp (loadBytes 7 0 a 64)
      let b' ← tryOp (loadBytes 7 0 (a + 64) 64)
      match b, b' with
      | .ok u, .ok v =>
        modify fun s => s.modCopy k id fun q => { q with kind := .upd a (u.1 ++ v.1) (if r.g = 0 then none else some g) }
      | .error ref, _ => parkCopy k p.id { ref with cid := r.cid.toNat }
      | _, .error ref => parkCopy k p.id { ref with cid := r.cid.toNat }

/-- NOP of slot C. -/
def cNopOp : Op Unit := pure ()

/-! ### Meanings: each operation performed as an issue of its own -/

def execCopy (r : Copy) (s : State) : Host.Outcome State Fault Refusal :=
  slotRun (.copy r) (copyOp r) s

def execCopyExt (r : Copy) (e : CopyX) (s : State) : Host.Outcome State Fault Refusal :=
  slotRun (.copyExt r e) (copyExtOp r e) s

def execCopyt (r : Copyt) (s : State) : Host.Outcome State Fault Refusal :=
  slotRun (.copyt r) (copytOp r) s

def execCopytExt (r : Copyt) (e : CopyX) (s : State) : Host.Outcome State Fault Refusal :=
  slotRun (.copytExt r e) (copytExtOp r e) s

def execCgath (r : Cidx) (s : State) : Host.Outcome State Fault Refusal :=
  slotRun (.cgath r) (cgathOp r) s

def execCscat (r : Cidx) (s : State) : Host.Outcome State Fault Refusal :=
  slotRun (.cscat r) (cscatOp r) s

def execCred (r : Cred) (s : State) : Host.Outcome State Fault Refusal :=
  slotRun (.cred r) (credOp r) s

def execCredExt (r : Cred) (e : CopyX) (s : State) : Host.Outcome State Fault Refusal :=
  slotRun (.credExt r e) (credExtOp r e) s

def execCring (r : Cring) (s : State) : Host.Outcome State Fault Refusal :=
  slotRun (.cring r) (cringOp r) s

def execCringExt (r : Cring) (e : CopyX) (s : State) : Host.Outcome State Fault Refusal :=
  slotRun (.cringExt r e) (cringExtOp r e) s

def execCwait (r : Cwait) (s : State) : Host.Outcome State Fault Refusal :=
  slotRun (.cwait r) (cwaitOp r) s

def execCtest (r : Ctest) (s : State) : Host.Outcome State Fault Refusal :=
  slotRun (.ctest r) (ctestOp r) s

def execPublish (r : Publish) (s : State) : Host.Outcome State Fault Refusal :=
  slotRun (.publish r) (publishOp r) s

def execUpd (r : Upd) (s : State) : Host.Outcome State Fault Refusal :=
  slotRun (.upd r) (updOp r) s

def execCNop (s : State) : Host.Outcome State Fault Refusal :=
  slotRun .cNop cNopOp s

end Sys2Proof.Machine
end

