-- ==== Sys2Proof/Machine/ScalarSystem.lean ====
section
/-! DEFINITION. Machine/ScalarSystem.lean: fences and waits (R95, R151, R152), barriers (R153), tasks (R154), traps and their
return (R155, R156), control registers (R46, R47, R157), HBEAT, YIELD and NOP (R158). -/

namespace Sys2Proof.Machine

/-! ### Fences and waits -/

/-- FENCE (R151): the mark before its issue has committed the gate; a release kind also waits for the context's
tree operations and counter images (R99, R232). Every earlier access has been performed, since each is performed in program order (log 5). -/
def fenceOp (r : Fence) : Op Unit := if r.kind == 0 then pure () else awaitEngines

/-- WAITM (R152). -/
def waitmOp (r : Waitm) : Op Unit := do
  need [srcS r.a r.wa, srcS r.b r.wb]
  let ea := (← getS r.a) + r.disp.signExtend 64
  checkHole ea
  checkAlign ea 8
  awaitEngines
  let b ← loadBytes 0 r.cls.toNat ea 8
  let v := n64 (ofBytes b.1)
  let want ← getS r.b
  if v != want then throw (.block (.word ea want)) else deliverS r.d r.cls.toNat ea v b.2

/-! ### Barriers -/

/-- The barrier's address is checked for an access of a kind (R134, R153): ACCESS in the hole, ALIGN unless it is 32-byte aligned,
and ACCESS where its owner resolves it to HBM. A refusal of an arrival for a gated core is left to the operation (R56). -/
def barrierAddr (acc : Nat) (a : BitVec 6) (disp : Word64) : Op Word64 := do
  let ea := (← getS a) + disp
  checkHole ea
  checkAlign ea 32
  let s ← get
  let p ← tryOp (locate (s.reqOf s.cur.x 0 0) acc (coreOf s.cur.x) ea)
  match p with
  | .ok (.here pa) => if inHbm (offOf pa) then trapAt cACCESS ea else pure ea
  | .ok (.away _ _) => pure ea
  | .error r => if r.reason == 7 then pure ea else throw (.refuse r)

/-- BARRIVE (R153). The context's queued fibre and tree operations and counter images come first (R99, R232); the other accesses of
its matrix engine, to operand tiles and side lists, do not (DESIGN CHOICE, log 30). -/
def arriveAt (r : Barrive) (disp : Word64) : Op Unit := do
  need [srcS r.a r.wa, srcS r.b r.wb]
  let ea ← barrierAddr accAtomic r.a disp
  awaitEngines
  let b ← getS r.b
  let n := if r.b = 0 then 1 else b
  modCur fun k => { k with atEnd := some (.barrier ea (.arrive n r.e)) }

/-- BEXPECT (R153). -/
def expectAt (r : Bexpect) (disp : Word64) : Op Unit := do
  need [srcS r.a r.wa, srcS r.b r.wb]
  let ea ← barrierAddr accAtomic r.a disp
  awaitEngines
  let n ← getS r.b
  modCur fun k => { k with atEnd := some (.barrier ea (.expect n)) }

/-- The barrier as BWAIT and BTEST read it: its status word, its phase, and whether it holds uncorrectable data. -/
def readBarrier (ea : Word64) : Op (Word64 × Nat × Bool) := do
  let s ← get
  let r ← readEa (s.reqOf s.cur.x 0 0) (coreOf s.cur.x) (ea + 16) 8
  let w := ofBytes r.1
  pure (n64 (fld w 39 32 + fld w 31 0 * 2 ^ 8), fld w 31 0, r.2)

/-- BWAIT (R153): the status word reaches S[d] as a load's value does (R301). -/
def waitAt (r : Bwait) (disp : Word64) : Op Unit := do
  need [srcS r.a r.wa, srcS r.b r.wb]
  let ea ← barrierAddr accRead r.a disp
  awaitEngines
  let w ← readBarrier ea
  let phase := (← getS r.b).toNat % 2 ^ 32
  if phaseDone w.2.1 phase then deliverS r.d 0 ea w.1 w.2.2 else throw (.block (.barrier ea phase))

/-- BTEST (R153): bit 63 tells whether the phase has completed. -/
def testAt (r : Bwait) (disp : Word64) : Op Unit := do
  need [srcS r.a r.wa, srcS r.b r.wb]
  let ea ← barrierAddr accRead r.a disp
  awaitEngines
  let w ← readBarrier ea
  let phase := (← getS r.b).toNat % 2 ^ 32
  deliverS r.d 0 ea (w.1 ||| n64 (b2n (phaseDone w.2.1 phase) * 2 ^ 63)) w.2.2

def barriveOp (r : Barrive) : Op Unit := arriveAt r 0
def barriveExtOp (r : Barrive) (e : BarX) : Op Unit := arriveAt r (e.disp.signExtend 64)
def bexpectOp (r : Bexpect) : Op Unit := expectAt r 0
def bexpectExtOp (r : Bexpect) (e : BarX) : Op Unit := expectAt r (e.disp.signExtend 64)
def bwaitOp (r : Bwait) : Op Unit := waitAt r 0
def bwaitExtOp (r : Bwait) (e : BarX) : Op Unit := waitAt r (e.disp.signExtend 64)
def btestOp (r : Bwait) : Op Unit := testAt r 0
def btestExtOp (r : Bwait) (e : BarX) : Op Unit := testAt r (e.disp.signExtend 64)

/-! ### Tasks -/

/-- TKGET (R154): a data task that has been dispatched to the context is received; otherwise it blocks. -/
def tkgetOp (r : Tkget) : Op Unit := do
  match (← get).cctx.given with
  | some va => do
    modC fun c => { c with given := none, ctl := { c.ctl with tkrec := va } }
    writeS r.d va
  | none => throw (.block .task)

/-- The message queue of a die's task scheduler is full: its size is the implementation's (R154; log 31). -/
def State.schedFull (s : State) (d : Nat) : Bool := Config.schedRoom d < (s.msgs.filter fun m => !m.held && m.die == d).length

/-- TKPOST (R154): while the queue of the record's die is full it blocks; a release, it waits for the context's tree operations and
counter images (R99, R232). -/
def tkpostOp (r : Tkpost) : Op Unit := do
  need [srcS r.a r.wa]
  let va ← getS r.a
  checkAlign va 64
  let s ← get
  if !s.ownedAway va && s.schedFull (s.ownerDie va) then throw (.block (.post (s.ownerDie va))) else pure ()
  awaitEngines
  modCur fun k => { k with atEnd := some (.post va) }

/-- TKDONE (R154): a b field of 0 gives OK. A release, it waits as TKPOST does (R99, R232). -/
def tkdoneOp (r : Tkdone) : Op Unit := do
  need [srcS r.a r.wa, srcS r.b r.wb]
  awaitEngines
  let va ← getS r.a
  let st ← getS r.b
  modCur fun k => { k with atEnd := some (.done va (st.toNat % 2 ^ 16)) }

/-! ### Traps -/

/-- TRAP without an extension word: tinfo is 0 (R155). -/
def trapOp : Op Unit := trapAt cSWTRAP 0

/-- TRAP imm (R155). -/
def trapExtOp (r : TrapX) : Op Unit := trapAt cSWTRAP (r.imm.zeroExtend 64)

/-- TRET (R51, R156). -/
def tretOp : Op Unit := returnFromTrap (slotWord .tret)

/-! ### Control registers -/

/-- The logical die that a physical die of this module backs, as the lead die's table maps it (R24, R336). -/
def State.logicalDie (s : State) (d : Nat) : Nat :=
  let base := physOf s.lead (s.regN rLDTBASE)
  let backs := fun (e : Nat) => bitAt e 0 && fld e 12 1 == s.moduleNo && fld e 16 13 == d
  let cand := (fwindow s.mem base (2 ^ 18)).map fun (k, _) => k / 8
  match s.ldtCache.find? fun (_, e) => backs e.toNat with
  | some (l, _) => l
  | none => (cand.find? fun l => backs (s.memN (base + 8 * l) 8)).getD (Config.unmappedDie d).toNat

/-- The seif size code of FLAGS (R30). -/
def seifCode (n : Nat) : Nat := if n == 2 then 1 else if n == 4 then 2 else 0

/-- ident (R46). -/
def State.ident (s : State) (x : Nat) : Word64 :=
  let f := s.seifOf x
  let member := match f with | some f => coreOf x - f.core0 | none => 0
  let size := match f with | some f => seifCode f.size | none => 0
  n64 (x % 4 + coreOf x % 24 * 2 ^ 2 + member * 2 ^ 7 + size * 2 ^ 9 + s.logicalDie (dieOf x) * 2 ^ 49)

/-- The value of a control register of the issuing context (R46); none for a number not listed. -/
def State.creg (s : State) (cr : Nat) : Option Word64 :=
  let c := s.cctx
  match cr with
  | 0 => some c.live.sw
  | 1 => some c.ctl.tv
  | 2 => some c.ctl.tpc
  | 3 => some c.ctl.tsw
  | 4 => some c.ctl.tcause
  | 5 => some c.ctl.tinfo
  | 6 => some c.ctl.tkeep0
  | 7 => some c.ctl.tkeep1
  | 8 => some c.live.rseed
  | 9 => some s.ccore.hbp
  | 10 => some (s.ident s.cur.x)
  | 11 => some (n64 (s.time - s.ccore.cycBase))
  | 12 => some c.ctl.tkrec
  | _ => if 16 ≤ cr && cr ≤ 23 then some (c.live.qv (BitVec.ofNat 3 (cr - 16))) else none

/-- A register marked *handler* (R46). -/
def cregHandler (cr : Nat) : Bool := (1 ≤ cr && cr ≤ 7) || cr == 9

/-- CRD (R157). -/
def crdOp (r : Crd) : Op Unit := do
  let s ← get
  match s.creg r.cr.toNat with
  | none => trapAt cILLEGAL (slotWord (.crd r))
  | some v =>
    if (r.cr == 6 || r.cr == 7) && !s.cctx.handler then trapAt cPRIV (n64 r.cr.toNat) else writeS r.d v

/-- The bits of sw that a CWR writes: all but H, SLOTRES, REPLEFT and the reserved ones (R47). -/
def swWritable : Word64 := 0xE01FFB

/-- Write a control register of the issuing context; ident, cyc and tkrec ignore the write (R46, R47, R157). -/
def cregWrite (cr : Nat) (v : Word64) : Op Unit :=
  let ctl (f : Control → Control) : Op Unit := modC fun c => { c with ctl := f c.ctl }
  match cr with
  | 0 => modL fun l => { l with sw := (l.sw &&& ~~~swWritable) ||| (v &&& swWritable) }
  | 1 => ctl fun c => { c with tv := v }
  | 2 => ctl fun c => { c with tpc := v }
  | 3 => ctl fun c => { c with tsw := v }
  | 4 => ctl fun c => { c with tcause := v &&& 0x1FFF }
  | 5 => ctl fun c => { c with tinfo := v }
  | 6 => ctl fun c => { c with tkeep0 := v }
  | 7 => ctl fun c => { c with tkeep1 := v }
  | 8 => modL fun l => { l with rseed := v, ctr := 0 }
  | 9 => modK fun c => { c with hbp := v, hbTimer := 0 }
  | _ => if 16 ≤ cr then modL fun l => l.putQ (cr - 16) v else pure ()

/-- CWR (R157). -/
def cwrOp (r : Cwr) : Op Unit := do
  need [srcS r.a r.wa]
  let s ← get
  if (s.creg r.cr.toNat).isNone then trapAt cILLEGAL (slotWord (.cwr r))
  else if cregHandler r.cr.toNat && !s.cctx.handler then trapAt cPRIV (n64 r.cr.toNat)
  else cregWrite r.cr.toNat (← getS r.a)

/-! ### HBEAT, YIELD -/

/-- HBEAT (R45, R158). -/
def hbeatOp : Op Unit := modK fun c => { c with hbTimer := 0, hbMiss := 0 }

/-- Another context of the core is READY (R37). -/
def State.otherReady (s : State) (x : Nat) : Bool :=
  (upTo 4).any fun i => x / 4 * 4 + i != x && (s.ctx (x / 4 * 4 + i)).canIssue

/-- The yield condition (R37): it holds until another context of the core has issued a bundle, unless none is READY. -/
def State.mustYield (s : State) (x : Nat) : Bool := !(s.ctx x).yielded && s.otherReady x

/-- YIELD (R158). -/
def yieldOp : Op Unit := do
  let s ← get
  if s.mustYield s.cur.x then throw (.block .yield) else pure ()

/-- A hint has no effect but to name its slot (R132). -/
def hintOp (_ : BitVec 27) : Op Unit := pure ()
def hintExtOp (_ : BitVec 27) (_ : BitVec 31) : Op Unit := pure ()

/-! ### Meanings: each operation performed as an issue of its own -/

def execFence (r : Fence) (s : State) : Host.Outcome State Fault Refusal :=
  slotRun (.fence r) (fenceOp r) s

def execWaitm (r : Waitm) (s : State) : Host.Outcome State Fault Refusal :=
  slotRun (.waitm r) (waitmOp r) s

def execBarrive (r : Barrive) (s : State) : Host.Outcome State Fault Refusal :=
  slotRun (.barrive r) (barriveOp r) s

def execBarriveExt (r : Barrive) (e : BarX) (s : State) : Host.Outcome State Fault Refusal :=
  slotRun (.barriveExt r e) (barriveExtOp r e) s

def execBexpect (r : Bexpect) (s : State) : Host.Outcome State Fault Refusal :=
  slotRun (.bexpect r) (bexpectOp r) s

def execBexpectExt (r : Bexpect) (e : BarX) (s : State) : Host.Outcome State Fault Refusal :=
  slotRun (.bexpectExt r e) (bexpectExtOp r e) s

def execBwait (r : Bwait) (s : State) : Host.Outcome State Fault Refusal :=
  slotRun (.bwait r) (bwaitOp r) s

def execBwaitExt (r : Bwait) (e : BarX) (s : State) : Host.Outcome State Fault Refusal :=
  slotRun (.bwaitExt r e) (bwaitExtOp r e) s

def execBtest (r : Bwait) (s : State) : Host.Outcome State Fault Refusal :=
  slotRun (.btest r) (btestOp r) s

def execBtestExt (r : Bwait) (e : BarX) (s : State) : Host.Outcome State Fault Refusal :=
  slotRun (.btestExt r e) (btestExtOp r e) s

def execTkget (r : Tkget) (s : State) : Host.Outcome State Fault Refusal :=
  slotRun (.tkget r) (tkgetOp r) s

def execTkpost (r : Tkpost) (s : State) : Host.Outcome State Fault Refusal :=
  slotRun (.tkpost r) (tkpostOp r) s

def execTkdone (r : Tkdone) (s : State) : Host.Outcome State Fault Refusal :=
  slotRun (.tkdone r) (tkdoneOp r) s

def execTrap (s : State) : Host.Outcome State Fault Refusal :=
  slotRun .trap trapOp s

def execTrapExt (r : TrapX) (s : State) : Host.Outcome State Fault Refusal :=
  slotRun (.trapExt r) (trapExtOp r) s

def execTret (s : State) : Host.Outcome State Fault Refusal :=
  slotRun .tret tretOp s

def execCrd (r : Crd) (s : State) : Host.Outcome State Fault Refusal :=
  slotRun (.crd r) (crdOp r) s

def execCwr (r : Cwr) (s : State) : Host.Outcome State Fault Refusal :=
  slotRun (.cwr r) (cwrOp r) s

def execHbeat (s : State) : Host.Outcome State Fault Refusal :=
  slotRun .hbeat hbeatOp s

def execYield (s : State) : Host.Outcome State Fault Refusal :=
  slotRun .yield yieldOp s

def execHint (i : BitVec 27) (s : State) : Host.Outcome State Fault Refusal :=
  slotRun (.hint i) (hintOp i) s

def execHintExt (i : BitVec 27) (x : BitVec 31) (s : State) : Host.Outcome State Fault Refusal :=
  slotRun (.hintExt i x) (hintExtOp i x) s

end Sys2Proof.Machine
end

