-- ==== Sys2Proof/Machine/TreeEngine.lean ====
section
/-! DEFINITION. Machine/TreeEngine.lean: what the operations of the tree engine do when they perform, one at a time in the core's
issue order (R230 to R250). -/

namespace Sys2Proof.Machine

/-! ### One operation at work (R231 to R233) -/

/-- What an operation has met: its command, the first failing address, the lowest node whose result left the range, and whether
uncorrectable data has been read, by the operation and since it was last asked. -/
structure TRun where
  cmd : TCmd
  acc : Option Word64
  range : Option Nat
  poison : Bool
  marked : Bool

/-- A computation of the engine: it may end by a failing address or by LPRANGE, both recorded in the run. -/
abbrev TM (α : Type) := ExceptT Unit (StateT TRun Op) α

/-- An operation of the machine within the engine. -/
def TM.op {α : Type} (o : Op α) : TM α := ExceptT.lift (StateT.lift o)

/-- The run so far. -/
def TM.now : TM TRun := ExceptT.lift get

/-- Change the run. -/
def TM.mod (f : TRun → TRun) : TM Unit := ExceptT.lift (modify f)

/-- A failing address: the first one is kept (R233). -/
def tFail {α : Type} (a : Word64) : TM α := do
  TM.mod fun r => { r with acc := r.acc.orElse fun _ => some a }
  throw ()

/-- LPRANGE of node x: the lowest is kept (R233). -/
def tRange {α : Type} (x : Nat) : TM α := do
  TM.mod fun r => { r with range := some (match r.range with
    | none => x
    | some y => min x y) }
  throw ()

/-- The value of an LP operation for node x. -/
def tLp {α : Type} (x : Nat) (v : Option α) : TM α :=
  match v with
  | some a => pure a
  | none => tRange x

/-- Try a computation: none where it ended. -/
def tTry {α : Type} (m : TM α) : TM (Option α) := ExceptT.lift (do
  let r ← ExceptT.run m
  pure (match r with
    | .ok a => some a
    | .error _ => none))

/-- Begin to collect the poison marks of the inputs of one result, with those of the record itself. -/
def tMark (b : Bool) : TM Unit := TM.mod fun r => { r with marked := b }

/-- An address lies on the context's own logical die: the table maps its logical die to the core's die (R24, R231). -/
def State.ownDie (s : State) (x : Nat) (ea : Word64) : Bool :=
  let e := s.routeOf ea
  bitAt e 0 && fld e 12 1 == s.moduleNo && fld e 16 13 == dieOf x

/-- An address that a T operation may form (R231). -/
def State.treeAddr (s : State) (x : Nat) (ea : Word64) : Bool :=
  match classify ea with
  | .scratch _ => true
  | .hole => false
  | .virt => inVault (ea.toNat % 2 ^ 49) && s.ownDie x ea

/-- The operation waits for what its context issued before it and shares these bytes with (R99). -/
def treeWaits (m : TCmd) (ea : Word64) (n : Nat) (write : Bool) : Op Unit := do
  let s ← get
  let c := s.core (coreOf m.x)
  let r := scratchRange ea n
  let reads := if write then [] else r
  let writes := if write then r else []
  if c.copies.any fun p => p.x == m.x && !p.lost && p.seq < m.seq && p.conflicts c reads writes then throw (.stall .copy)
  else if (c.mq ++ c.mrun.toList).any fun q => q.x == m.x && q.seq < m.seq &&
      (let w := q.ranges s
       w.2.any (fun a => r.any (overlap a)) || w.1.any fun a => writes.any (overlap a)) then throw (.stall .matrix)
  else pure ()

/-- Locate bytes for an access (R231): the first address that breaks the rule or is refused fails, a refused one with its
record. -/
def tPieces (ea : Word64) (n acc : Nat) : TM (List Piece) := do
  let m := (← TM.now).cmd
  let s ← TM.op get
  TM.op (treeWaits m ea n (acc != accRead))
  let bad := if s.treeAddr m.x ea && s.treeAddr m.x (ea + n64 (n - 1)) then none
    else (upTo n).find? fun i => !s.treeAddr m.x (ea + n64 i)
  let rq := s.reqOf m.x 5 0
  let r ← TM.op (tryOp (planePieces rq acc (coreOf m.x) ea (bad.getD n)))
  match r, bad with
  | .ok ps, none => pure ps
  | .ok _, some i => tFail (ea + n64 i)
  | .error ref, _ => do
    TM.op (faultPost (refusalRec ref false))
    tFail ref.va

/-- Read n bytes; uncorrectable data is noted. -/
def tRead (ea : Word64) (n : Nat) : TM Nat := do
  if n == 0 then pure 0
  else do
    let m := (← TM.now).cmd
    let ps ← tPieces ea n accRead
    let s ← TM.op get
    let ls ← TM.op (mapEach ps fun (p, va, k) => readCarried (s.reqOf m.x 5 0) va p k)
    let v := carriedN ls.flatten
    TM.mod fun r => { r with poison := r.poison || v.2, marked := r.marked || v.2 }
    pure v.1

/-- Write n bytes, with poison marks where an input was uncorrectable (R233). -/
def tWrite (ea : Word64) (n v : Nat) (acc : Nat) : TM Unit := do
  let r ← TM.now
  let ps ← tPieces ea n acc
  let s ← TM.op get
  TM.op (planeWrite (s.reqOf r.cmd.x 5 0) ps (carry n (v, r.marked)))

/-- n little-endian 32-bit words. -/
def tWords (ea : Word64) (n : Nat) : TM (List Nat) := do
  let v ← tRead ea (4 * n)
  pure ((upTo n).map fun i => v / 2 ^ (32 * i) % 2 ^ 32)

/-- The tree-engine state of the context. -/
def tTree : TM Tree := do
  let m := (← TM.now).cmd
  let s ← TM.op get
  pure (s.ctx m.x).tree

/-- Change it. -/
def tSet (f : Tree → Tree) : TM Unit := do
  let m := (← TM.now).cmd
  TM.op (modify fun s => s.modCtx m.x fun c => { c with tree := f c.tree })

/-- A result has been written: LP_N sets NRES (R250). -/
def tNote (val : Nat) : TM Unit := tSet fun t => { t with nres := t.nres || val == lpN }

/-! ### Records (R234, R235) -/

/-- A NODE entry: node index, fan-in or table size, variable, and where its list or table begins. -/
structure TNode where
  x : Nat
  f : Nat
  var : Nat
  first : Nat

/-- A node-block record. -/
structure TBlock where
  ea : Word64
  kind : Nat
  n : Nat
  seg : Bool
  total : Nat
  next : Nat
  off : Nat
  nodes : List TNode

/-- Where the child list, the weights and the tables begin. -/
def TBlock.list (b : TBlock) : Word64 := b.ea + 0x90
def TBlock.weights (b : TBlock) : Word64 := b.ea + n64 (0x90 + 4 * b.total)

/-- The nodes of a record in order, with the running count of their entries. -/
def nodesOf (leaf : Bool) : Nat → List Nat → List TNode
  | _, [] => []
  | at_, w :: ws =>
    let f := if leaf then (if fld w 63 56 == 0 then 256 else fld w 63 56) else fld w 47 32
    { x := fld w 31 0, f := f, var := fld w 55 32, first := at_ } :: nodesOf leaf (at_ + f) ws

/-- No segment follows. -/
def noNext : Nat := 0xFFFFFFFF

/-- The record at an address; a malformed one fails with its address. -/
def tBlock (ea : Word64) : TM TBlock := do
  let h ← tRead ea 0x90
  let kind := fld h 7 0
  let n := fld h 15 8
  let seg := fld h 23 16
  let total := fld h 63 32
  let next := fld h 95 64
  let off := fld h 127 96
  let words := (upTo 16).map fun j => fld h (128 + 64 * j + 63) (128 + 64 * j)
  let leaf := kind == 3
  let nodes := nodesOf leaf 0 (words.take n)
  let bad := kind == 0 || kind > 3 || n == 0 || n > 16 || seg > 1 || (seg == 1 && (n != 1 || leaf)) ||
    nodes.any (·.f == 0) || total != (nodes.map (·.f)).sum || total > 32768 || fld h 31 24 != 0 ||
    (seg == 0 && (next != 0 || off != 0)) || (words.drop n).any (· != 0) ||
    (!leaf && (words.take n).any fun w => fld w 63 48 != 0)
  if bad then tFail ea
  else pure { ea := ea, kind := kind, n := n, seg := seg == 1, total := total, next := next, off := off, nodes := nodes }

/-- The record index of an address (R243): one below RB or of more than 28 bits fails. -/
def tIndex (ea : Word64) : TM Nat := do
  let rb := (← tTree).rb
  let i := (ea.toNat - rb.toNat) / 64
  if ea.toNat < rb.toNat || i ≥ 2 ^ 28 then tFail ea else pure i

/-! ### Value slots and evidence (R236, R237) -/

/-- The address of a field of node x's slot. -/
def Tree.slot (t : Tree) (x off : Nat) : Word64 := t.vb + n64 (32 * x + off)

/-- VAL of a node. -/
def tVal (x : Nat) : TM Nat := do
  let t ← tTree
  tRead (t.slot x 0) 8

/-- The evidence entry of a variable (R237, R240). -/
def tEvidence (var : Nat) : TM Nat := do
  let t ← tTree
  let a := t.evb + n64 (2 * var)
  if var ≥ t.evn.toNat then tFail a else tRead a 2

/-- The LP64 values of n LP32 words. -/
def tTable (ea : Word64) (n : Nat) : TM (List Nat) := do
  let l ← tWords ea n
  pure (l.map lp32To)

/-- The child indices of a node, and its weights where the block is a sum. -/
def tChildren (b : TBlock) (d : TNode) : TM (List Nat) := tWords (b.list + n64 (4 * d.first)) d.f
def tWeights (b : TBlock) (d : TNode) : TM (List Nat) := tTable (b.weights + n64 (4 * d.first)) d.f

/-- The terms of a sum (R243): weight times value, child by child. -/
def tTerms (x : Nat) (kids weights : List Nat) : TM (List Nat) := (kids.zip weights).mapM fun (c, w) => do
  let v ← tVal c
  tLp x (lpMul w v)

/-! ### Forward pass (R242, R243) -/

/-- What a node is given: VAL, AUX and TAG. -/
abbrev Given := Nat × Nat × Nat

/-- The node that failed or left the range (R233). -/
def givenN : Given := (lpN, lpN, 0)

/-- The largest entry, ties to the lowest index (R242). -/
def bestOf : Nat → Nat × Nat → List Nat → Nat × Nat
  | _, b, [] => b
  | i, b, v :: vs => bestOf (i + 1) (if lpCmp v b.1 > 0 then (v, i) else b) vs

/-- A leaf (R242). -/
def tLeaf (b : TBlock) (d : TNode) : TM Given := do
  let e ← tEvidence d.var
  let mode := (← tTree).mode
  let tab := b.list + n64 (4 * d.first)
  if !bitAt e 15 then do
    let v := fld e 7 0
    if v < d.f then do
      let l ← tTable (tab + n64 (4 * v)) 1
      pure (l.headD 0, lpZero, v)
    else pure (lpN, lpZero, v)
  else if mode != 3 then do
    tSet fun t => { t with masked := if mode == 0 then t.masked + 1 else t.masked }
    pure (lpOne, lpZero, 0xFFFFFFFF)
  else do
    let l ← tTable tab d.f
    match l.findIdx? lpIsN with
    | some i => pure (lpN, lpZero, i)
    | none =>
      let r := bestOf 1 (l.headD 0, 0) (l.drop 1)
      pure (r.1, lpZero, r.2)

/-- The MPE choice among terms in order (R243): once a result is N it stays N. -/
def mpeOf : Nat → Nat × Nat → List Nat → Nat × Nat
  | _, b, [] => b
  | i, b, t :: ts =>
    mpeOf (i + 1) (if lpIsN b.1 then b else if lpIsN t then (lpN, b.2) else if lpCmp t b.1 > 0 then (t, i) else b) ts

/-- A node of a record (R243). -/
def tNode (b : TBlock) (d : TNode) : TM Given := do
  if b.kind == 3 then tLeaf b d
  else do
    let kids ← tChildren b d
    if b.kind == 2 then do
      let vs ← kids.mapM tVal
      let r ← tLp d.x (lpProd vs)
      pure (r.1, r.2.2, r.2.1)
    else do
      let ws ← tWeights b d
      let ts ← tTerms d.x kids ws
      if (← tTree).mode == 3 then
        let r := mpeOf 1 (ts.headD 0, 0) (ts.drop 1)
        pure (r.1, lpZero, r.2)
      else do
        let v ← tLp d.x (lpSum ts)
        pure (v, lpZero, 0)

/-- Write a node's slot, DER untouched (R236, R243). -/
def tPut (x : Nat) (g : Given) (pos : Nat) : TM Unit := do
  let t ← tTree
  tWrite (t.slot x 0) 8 g.1 accWrite
  tWrite (t.slot x 0x10) 16 (g.2.1 + g.2.2 % 2 ^ 32 * 2 ^ 64 + pos * 2 ^ 96) accWrite
  tSet fun t => { t with nodes := t.nodes + 1 }
  tNote g.1

/-- TFWD of whole nodes (R243, R244). -/
def tForward (ea : Word64) : TM Unit := do
  let b ← tBlock ea
  if b.seg then tFail ea
  else do
    let idx ← tIndex ea
    let h := (← TM.now).marked
    let _ ← (b.nodes.zip (upTo b.n)).mapM fun (d, j) => do
      tMark h
      let g ← tTry (tNode b d)
      tTry (tPut d.x (g.getD givenN) (j * 2 ^ 28 + idx))
    pure ()

/-! ### Segments (R244) -/

/-- A term is scanned. -/
def Win.scan (w : Win) (t : Nat) : Win :=
  if lpIsN t then { w with isN := true }
  else if lpZ t then w
  else { w with emax := if w.hasMax then max w.emax (lpE t) else lpE t, hasMax := true }

/-- A term of a sum outside MPE is added. -/
def Win.addTerm (w : Win) (t : Nat) : Win :=
  if lpIsN t then { w with isN := true }
  else if lpZ t then w
  else if !w.hasMax || lpE t > w.emax then { w with bad := true }
  else
    let p := lpPlace w.emax t
    { w with acc := w.acc + p.1, sticky := w.sticky || p.2 }

/-- A term of a sum in MPE is compared. -/
def Win.mpeTerm (w : Win) (pos t : Nat) : Win :=
  let w' := { w with isN := w.isN || lpIsN t }
  if !w.hasBest then { w' with best := n64 t, bestPos := pos, hasBest := true }
  else if lpIsN w.best.toNat then w'
  else if lpIsN t then { w' with best := n64 lpN }
  else if lpCmp t w.best.toNat > 0 then { w' with best := n64 t, bestPos := pos }
  else w'

/-- Children of a product are multiplied in; none for LPRANGE. -/
def Win.mulTerms (w : Win) (vs : List Nat) : Option Win :=
  if w.isN || vs.any lpIsN then some { w with isN := true }
  else (lpGroups (vs.length / 16 + 1) w.pnz.toNat (lpOnes vs)).map fun p =>
    { w with pnz := n64 p, zc := w.zc + (vs.filter lpZ).length }

/-- Apply a function to terms with their positions. -/
def Win.fold (w : Win) (f : Win → Nat → Nat → Win) : Nat → List Nat → Win
  | _, [] => w
  | i, t :: ts => Win.fold (if w.bad then w else f w i t) f (i + 1) ts

/-- Add a segment's terms to a window. -/
def tAdd (b : TBlock) (d : TNode) (w : Win) : TM Win := do
  let w := { w with st := 2, count := w.count + d.f }
  let w := { w with bad := w.bad || w.count > 65536 || (b.kind == 2 && b.next != noNext && d.f % 16 != 0) }
  if w.bad then pure w
  else do
    let kids ← tChildren b d
    if b.kind == 2 then do
      let vs ← kids.mapM tVal
      tLp d.x (w.mulTerms vs)
    else do
      let ws ← tWeights b d
      let ts ← tTerms d.x kids ws
      pure (if w.mode == 3 then w.fold (fun w i t => w.mpeTerm (b.off + i) t) 0 ts
            else w.fold (fun w _ t => w.addTerm t) 0 ts)

/-- What a window's close delivers (R244). -/
def tClose (b : TBlock) (w : Win) : TM Given := do
  if w.bad then do
    TM.mod fun r => { r with acc := r.acc.orElse fun _ => some b.ea }
    pure givenN
  else if w.range then pure givenN
  else if w.kind == 2 then
    pure (if w.isN then (lpN, lpN, 0) else (if w.zc > 0 then lpZero else w.pnz.toNat, w.pnz.toNat, w.zc))
  else if w.mode == 3 then pure (if w.isN then lpN else w.best.toNat, lpZero, w.bestPos)
  else if w.isN then pure (lpN, lpZero, 0)
  else do
    let v ← tLp w.node (if w.hasMax then lpFinish w.acc w.emax w.sticky else some lpZero)
    pure (v, lpZero, 0)

/-- Bind an EMPTY window to a segment's node, or mark one bound to another node BAD. -/
def Win.bind (w : Win) (b : TBlock) (d : TNode) (mode idx : Nat) : Win :=
  if w.st == 0 then { Win.empty with node := d.x, kind := b.kind, mode := mode, pnz := n64 lpOne, first := idx }
  else { w with bad := w.bad || w.node != d.x || w.kind != b.kind || w.mode != mode }

/-- A segment's part in its window: a failing address or LPRANGE leaves the window to deliver N (R233). -/
def tPart (b : TBlock) (d : TNode) (ph : Nat) (w : Win) : TM Win := do
  let r ← tTry (if w.bad then pure { w with st := if ph == 1 then 1 else 2 }
    else if ph == 1 then do
      let kids ← tChildren b d
      let ws ← tWeights b d
      let ts ← tTerms d.x kids ws
      pure { ts.foldl Win.scan w with st := 1 }
    else tAdd b d w)
  let marked := (← TM.now).marked
  let w' := r.getD { w with st := if ph == 1 then 1 else 2, range := true }
  pure { w' with pois := w'.pois || marked }

/-- TFWD of a segment (R244). -/
def tSegment (ea : Word64) (ph wn : Nat) : TM Unit := do
  let b ← tBlock ea
  if !b.seg then tFail ea
  else do
    let idx ← tIndex ea
    let t ← tTree
    match b.nodes with
    | [] => pure ()
    | d :: _ => do
      let w := (fget Win.empty t.wins wn).bind b d t.mode idx
      let w ← tPart b d ph w
      if ph != 3 then tSet fun t => { t with wins := fset Win.empty t.wins wn w }
      else do
        tSet fun t => { t with wins := fdel t.wins wn }
        tMark w.pois
        let g ← tTry (tClose b w)
        let _ ← tTry (tPut w.node (g.getD givenN) w.first)
        pure ()

/-! ### Reverse pass (R246) -/

/-- The contribution of a node with DER d, VAL, AUX and TAG to its child c at position p. -/
def tContribution (b : TBlock) (d val aux tag : Nat) (c p : Nat) (w : Nat) : TM Nat := do
  if b.kind == 1 then do
    if (← tTree).mode == 3 && p != tag then pure lpZero else tLp c (lpMul d w)
  else if tag == 0 then do
    let v ← tVal c
    let q ← tLp c (lpDiv val v)
    tLp c (lpMul d q)
  else if tag == 1 then do
    let v ← tVal c
    if v == lpZero then tLp c (lpMul d aux) else pure lpZero
  else pure lpZero

/-- Add a contribution to DER of a child; one that left the range writes LP_N there. -/
def tDerive (c : Nat) (g : Option Nat) (ranged : Bool) : TM Unit := do
  let t ← tTree
  let a := t.slot c 8
  match g with
  | none =>
    if ranged then do
      tWrite a 8 lpN accAtomic
      tNote lpN
    else pure ()
  | some g =>
    if g == lpZero then pure ()
    else do
      let old ← tRead a 8
      match lpSum [old, g] with
      | some v => do
        tWrite a 8 v accAtomic
        tNote v
      | none => do
        let _ ← tTry (tRange (α := Unit) c)
        tWrite a 8 lpN accAtomic
        tNote lpN

/-- Try a contribution, telling a failing address from LPRANGE. -/
def tTryRange {α : Type} (m : TM α) : TM (Option α × Bool) := do
  let r0 := (← TM.now).range
  TM.mod fun r => { r with range := none }
  let v ← tTry m
  let r1 := (← TM.now).range
  TM.mod fun r => { r with range := match r0, r1 with
    | some a, some b => some (min a b)
    | some a, none => some a
    | none, b => b }
  pure (v, v.isNone && r1.isSome)

/-- TREV (R246). -/
def tReverse (ea : Word64) : TM Unit := do
  let b ← tBlock ea
  let h := (← TM.now).marked
  let _ ← b.nodes.mapM fun nd => do
    tMark h
    tTry (do
      let t ← tTree
      let d ← tRead (t.slot nd.x 8) 8
      if b.kind == 3 then pure ()
      else do
        let s ← tRead (t.slot nd.x 0) 28
        let kids ← tChildren b nd
        let ws ← (if b.kind == 1 then tWeights b nd else pure (kids.map fun _ => 0))
        let own := (← TM.now).marked
        let _ ← ((kids.zip ws).zip (upTo nd.f)).mapM fun ((c, w), i) => do
          tMark own
          let p := if b.seg then b.off + i else i
          let g ← tTryRange (tContribution b d (fld s 63 0) (fld s 191 128) (fld s 223 192) c p w)
          tTry (tDerive c g.1 g.2)
        pure ())
  pure ()

/-! ### TRATIO (R247) -/

def tRatio (c a b : Word64) : TM Unit := do
  let m := (← TM.now).cmd
  let num ← tRead a 8
  let den ← tRead b 8
  if den == lpZero then TM.op (modify fun s => s.stickySw m.x swLPZ) else pure ()
  let r ← tTry (tLp 0 (lpDiv num den))
  let v := r.getD lpN
  tWrite c 8 v accWrite
  tNote v

/-! ### Walks (R248, R249) -/

/-- Where a walk stands: entries on the stack, draws, visits, the cycles used by this operation, and STATE. -/
structure Descent where
  depth : Nat
  draws : Word64
  visits : Word64
  used : Nat
  st : Nat

/-- What locates a node (R248): its block, its entry, the whole child list and the weights. -/
structure Found where
  block : TBlock
  node : TNode
  kids : List Nat
  weights : List Nat

/-- Follow a chain of segments and collect its lists; a record that is no segment of the same kind fails, and so does a chain
that passes 65,536 children. -/
def tChain (kind : Nat) : Nat → Nat → List Nat × List Nat → TM (List Nat × List Nat)
  | 0, _, acc => pure acc
  | n + 1, next, acc => do
    if next == noNext then pure acc
    else do
      let ea := (← tTree).rb + n64 (64 * next)
      let b ← tBlock ea
      match b.nodes with
      | d :: _ =>
        if !b.seg || b.kind != kind || acc.1.length + d.f > 65536 then tFail ea
        else do
          let kids ← tChildren b d
          let ws ← (if kind == 1 then tWeights b d else pure [])
          tChain kind n b.next (acc.1 ++ kids, acc.2 ++ ws)
      | [] => tFail ea

/-- Locate node x from POS of its slot. -/
def tLocate (x : Nat) : TM Found := do
  let t ← tTree
  let pos ← tRead (t.slot x 0x1C) 4
  let ea := t.rb + n64 (64 * fld pos 27 0)
  let b ← tBlock ea
  match b.nodes[fld pos 31 28]? with
  | none => tFail ea
  | some d => do
    if b.kind == 3 then pure { block := b, node := d, kids := [], weights := [] }
    else do
      let kids ← tChildren b d
      let ws ← (if b.kind == 1 then tWeights b d else pure [])
      let r ← (if b.seg then tChain b.kind 65537 b.next (kids, ws) else pure (kids, ws))
      pure { block := b, node := d, kids := r.1, weights := r.2 }

/-- The cycles a node takes: its terms at 16 a cycle. -/
def Found.cost (f : Found) : Nat :=
  max 1 (((if f.block.kind == 3 then f.node.f else f.kids.length) + 15) / 16)

/-- The draw u of R249 as an LP64 value. -/
def drawOf (key draws : Word64) : Nat :=
  let z := (mix64 (key + (draws + 1) * 0x9E3779B97F4A7C15)).toNat
  (lpOfMag false (fld z 63 40) (-24)).getD lpZero

/-- The first term at which the running sum passes the target; none where none does. -/
def firstAbove (target : Nat) : Nat → Nat → List Nat → Option (Option Nat)
  | _, _, [] => some none
  | i, s, t :: ts =>
    match lpSum [s, t] with
    | none => none
    | some s' => if lpCmp target s' < 0 then some (some i) else firstAbove target (i + 1) s' ts

/-- The last term that is not exact zero. -/
def lastLive (ts : List Nat) : Option Nat := ((upTo ts.length).reverse).find? fun i => !lpZ (ts.getD i lpZero)

/-- choose of R248: the term chosen, if any, and whether a draw was taken. -/
def tChoose (x : Nat) (key draws : Word64) (total : Nat) (ts : List Nat) : TM (Option Nat × Bool) := do
  if lpIsN total || ts.any lpIsN then pure (none, false)
  else do
    let target ← tLp x (lpMul (drawOf key draws) total)
    let r ← tLp x (firstAbove target 0 lpZero ts)
    pure (r.orElse fun _ => lastLive ts, true)

/-- Push entries, none beyond CAP or beyond the scratchpad. -/
def tPush (stack : Word64) (cap depth : Nat) (l : List Nat) : TM Unit := do
  let s ← TM.op get
  let m := (← TM.now).cmd
  match (upTo l.length).find? fun i => depth + i ≥ cap || !(classify (stack + n64 (0x43 + 4 * (depth + i))) != .virt &&
      s.treeAddr m.x (stack + n64 (0x43 + 4 * (depth + i)))) with
  | some i => tFail (stack + n64 (0x40 + 4 * (depth + i)))
  | none => do
    let _ ← (l.zip (upTo l.length)).mapM fun (v, i) => tWrite (stack + n64 (0x40 + 4 * (depth + i))) 4 v accWrite
    pure ()

/-- What a visit comes to: the walk goes on, stops before the node for want of cycles, or ends without a sample. -/
inductive Visit where
  | on (w : Descent)
  | full
  | none (w : Descent)

/-- Visit the node on top of the stack. Nothing is written before everything has been read. -/
def tVisit (samp : Bool) (stack key out : Word64) (cap : Nat) (w : Descent) : TM Visit := do
  let x ← tRead (stack + n64 (0x40 + 4 * (w.depth - 1))) 4
  let f ← tLocate x
  if w.used != 0 && w.used + f.cost > 4096 then pure .full
  else do
    let w' := { w with depth := w.depth - 1, visits := w.visits + 1, used := w.used + f.cost }
    if f.block.kind == 1 then do
      let c ← (if samp then do
          let ts ← tTerms x f.kids f.weights
          let total ← tVal x
          tChoose x key w.draws total ts
        else do
          let tag ← tRead ((← tTree).slot x 0x18) 4
          pure (if tag < f.kids.length then some tag else none, false))
      let w' := { w' with draws := if c.2 then w.draws + 1 else w.draws }
      match c.1 with
      | none => pure (.none w')
      | some i => do
        tPush stack cap w'.depth [f.kids.getD i 0]
        pure (.on { w' with depth := w'.depth + 1 })
    else if f.block.kind == 2 then do
      tPush stack cap w'.depth f.kids.reverse
      pure (.on { w' with depth := w'.depth + f.kids.length })
    else do
      let e ← tEvidence f.node.var
      let c ← (if !bitAt e 15 then pure (some (fld e 7 0), false)
        else if !samp then do
          let tag ← tRead ((← tTree).slot x 0x18) 4
          pure (some (tag % 256), false)
        else do
          let ts ← tTable (f.block.list + n64 (4 * f.node.first)) f.node.f
          let total ← tLp x (lpSum ts)
          tChoose x key w.draws total ts)
      let w' := { w' with draws := if c.2 then w.draws + 1 else w.draws }
      match c.1 with
      | none => pure (.none w')
      | some v => do
        tWrite (out + n64 (2 * f.node.var)) 2 (v % 256) accWrite
        pure (.on w')

/-- Descent until the stack is empty, the cycles are used up, or a visit stops. A visit that meets uncorrectable data leaves no
trace (R248). -/
def tWalk (samp : Bool) (stack key out : Word64) (cap : Nat) : Nat → Descent → TM Descent
  | 0, w => pure w
  | n + 1, w => do
    if w.depth == 0 then pure { w with st := 2 }
    else do
      tMark false
      let s ← TM.op get
      let v ← tTry (tVisit samp stack key out cap w)
      let marked := (← TM.now).marked
      match v with
      | none => pure w
      | some v =>
        if marked then do
          TM.op (modify fun s' => { s' with mem := s.mem, poison := s.poison })
          pure w
        else
          match v with
          | .full => pure w
          | .none w' => pure { w' with st := 3 }
          | .on w' => tWalk samp stack key out cap n w'

/-- TSAMP and TARGM (R248). -/
def tDescend (samp : Bool) (stack : Word64) (key : Option Word64) : TM Unit := do
  let h ← tRead stack 0x30
  if (← TM.now).marked then pure ()
  else do
    let st := fld h 39 32
    let cap := fld h 95 64
    let out := n64 (fld h 319 256)
    if st > 1 then tSet fun t => { t with cont := false }
    else do
      let key' := match (if samp && st == 0 then key else none) with
        | some k => k
        | none => n64 (fld h 191 128)
      if st == 0 then tWrite (stack + 0x40) 4 (fld h 31 0) accWrite else pure ()
      let w0 : Descent := if st == 0 then { depth := 1, draws := 0, visits := 0, used := 0, st := 1 }
        else { depth := fld h 127 96, draws := n64 (fld h 255 192), visits := n64 (fld h 383 320), used := 0, st := 1 }
      let w ← tWalk samp stack key' out cap 4097 w0
      tMark false
      tWrite (stack + 4) 1 w.st accWrite
      tWrite (stack + 0xC) 4 w.depth accWrite
      if samp then tWrite (stack + 0x10) 8 key'.toNat accWrite else pure ()
      tWrite (stack + 0x18) 8 w.draws.toNat accWrite
      tWrite (stack + 0x28) 8 w.visits.toNat accWrite
      tSet fun t => { t with cont := w.st == 1, dstop := t.dstop || w.st == 3 }

/-! ### Performing a command -/

/-- The status word (R250). -/
def Tree.status (t : Tree) : Nat :=
  b2n t.cont + 2 * b2n t.lpr + 4 * b2n t.nres + 8 * b2n t.dstop + t.mode * 2 ^ 8 + (if t.evn.toNat > 0 then 2 ^ 11 else 0)

/-- The window states (R250). -/
def Tree.windows (t : Tree) : Nat :=
  (upTo 16).foldl (fun acc w => acc + (fget Win.empty t.wins w).st.toNat * 2 ^ (2 * w)) 0

/-- TSTAT delivers (R250). -/
def tStat (tok sd sel : Nat) : TM Unit := do
  let m := (← TM.now).cmd
  let t ← tTree
  let v := if sel == 0 then t.status else if sel == 1 then t.nodes.toNat else if sel == 2 then t.masked.toNat else t.windows
  if sel == 0 then tSet fun t => { t with dstop := false, nres := false, lpr := false } else pure ()
  TM.op (modify fun s => s.modCtx m.x fun c => { c with arrivals := c.arrivals ++
    [{ tok := tok, isV := false, reg := sd, val := BitVec.ofNat 1024 v, poison := false, pc := m.pc, slot := m.slot, va := m.pc,
       src := 5, cls := 0 }] })

/-- What an operation does. -/
def TOp.perform (o : TOp) : TM Unit :=
  match o with
  | .tmode mode vb rb => tSet fun t => { t with mode := mode, vb := vb, rb := rb, nodes := 0, masked := 0 }
  | .tevid evb evn => tSet fun t => { t with evb := evb, evn := evn }
  | .tfwd rec ph w => if ph == 0 then tForward rec else tSegment rec ph w
  | .trev rec => tReverse rec
  | .walk samp stack key => tDescend samp stack key
  | .tratio c a b => tRatio c a b
  | .twclr all w => tSet fun t => { t with wins := if all then [] else fdel t.wins w }
  | .tstat tok sd sel => tStat tok sd sel

/-- The one deferred trap of an operation (R233). -/
def TRun.trap (r : TRun) : Option Deferred :=
  if r.poison then some { cause := cPOISON, info := r.cmd.pc, slot := 8, tok := 0 }
  else
    match r.acc with
    | some a => some { cause := cACCESS, info := a, slot := 8, tok := 0 }
    | none => r.range.map fun x => { cause := cLPRANGE, info := n64 (x % 2 ^ 32), slot := 8, tok := 0 }

/-- Perform a command. -/
def TCmd.run (m : TCmd) : Op Unit := do
  let r0 : TRun := { cmd := m, acc := none, range := none, poison := false, marked := false }
  let (_, r) ← StateT.run (ExceptT.run m.op.perform) r0
  match r.trap with
  | none => pure ()
  | some d => modify fun s =>
    let s := if d.cause == cLPRANGE then s.modCtx m.x fun c => { c with tree := { c.tree with lpr := true } } else s
    s.deferTrap m.x d

/-- T_COMMAND_PERFORM: the tree engine performs its next command (R43, R232); one that must wait for what its context issued
before it does not perform. -/
def execTCommandPerform (k : Nat) (s : State) : Host.Outcome State Fault Refusal :=
  let c := s.core k
  if !c.running then .next s
  else
    match c.tq with
    | [] => .next s
    | m :: rest =>
      let op : Op Unit := do
        set (s.setCore k { c with tq := rest })
        m.run
      runOp op s

end Sys2Proof.Machine
end

