-- ==== Sys2Proof/Machine/Tree.lean ====
section
/-! DEFINITION. Machine/Tree.lean: the T-slot instructions at their issue (R231, R232, R238 to R250). -/

namespace Sys2Proof.Machine

/-- The T command queue holds 8 commands; where it is full the bundle blocks (R37, R232). -/
def treeRoom : Op Unit := do
  let s ← get
  if s.ccore.tq.length ≥ 8 then throw (.block (.queue 1)) else pure ()

/-- Hand a command to the tree engine's queue. -/
def pushTree (op : TOp) : Op Unit := do
  let s ← get
  let m : TCmd := { seq := s.ccore.seq, x := s.cur.x, pc := s.cur.pc, slot := s.cur.slot, op := op }
  modK fun c => { c with tq := c.tq ++ [m], seq := c.seq + 1 }

/-- A base that breaks R231 raises ACCESS. -/
def checkTree (ea : Word64) : Op Unit := do
  let s ← get
  if s.treeAddr s.cur.x ea then pure () else trapAt cACCESS ea

/-- Registers that hold addresses of the alignment given: ALIGN for any before ACCESS for any. -/
def checkBases (l : List (Word64 × Nat)) : Op Unit := do
  forEach l fun (a, n) => checkAlign a n
  forEach l fun (a, _) => checkTree a

/-- The tree-engine state of the issuing context, once its earlier operations have performed (R232). -/
def treeNow : Op Tree := do
  awaitEngines
  let s ← get
  pure s.cctx.tree

/-- TMODE (R239). -/
def tmodeOp (r : Tmode) : Op Unit := do
  treeRoom
  need [srcS r.a r.wa, srcS r.b r.wb]
  let vb ← getS r.a
  let rb ← getS r.b
  checkBases [(vb, 32), (rb, 64)]
  let t ← treeNow
  match (upTo 16).find? fun w => (fget Win.empty t.wins w).st != 0 with
  | some w => trapAt cACCESS (n64 (w + 3 * 2 ^ 8))
  | none => pushTree (.tmode r.mode.toNat vb rb)

/-- TEVID (R240). -/
def tevidOp (r : Tevid) : Op Unit := do
  treeRoom
  need [srcS r.a r.wa, srcS r.b r.wb]
  let evb ← getS r.a
  let evn ← getS r.b
  checkBases [(evb, 2)]
  if evn.toNat > 2 ^ 24 then trapAt cACCESS evb else pushTree (.tevid evb evn)

/-- TSEED (R241): it acts at its issue. -/
def tseedOp (r : Tseed) : Op Unit := do
  treeRoom
  need [srcS r.a r.wa]
  let v ← getS r.a
  modL fun l => { l with rseed := v, ctr := 0 }

/-- The record address of TFWD and TREV (R238); one that breaks R231 or its alignment raises ACCESS. -/
def treeRecord (a : BitVec 6) (e : TrecX) : Op Word64 := do
  let k := (← get).cur.k
  let ea := effAddr (← getS a) (e.disp.signExtend 64 <<< 6) (e.stride.signExtend 64 <<< 6) k
  if ea.toNat % 64 != 0 then trapAt cACCESS ea else checkTree ea
  pure ea

/-- A phase that a window's state does not allow at issue (R244); `kind` is the record's KIND where it can be read. -/
def phaseRefused (mode st ph : Nat) (kind : Option Nat) : Bool :=
  if ph == 1 then st == 2 || kind == some 2
  else st == 0 && kind == some 1 && mode != 3

/-- The KIND of a record as its issue finds it; what the context's copies write there comes first (R99). -/
def recordKind (ea : Word64) : Op (Option Nat) := do
  awaitCopies false ea 1
  let r ← tryOp (loadBytes 5 0 ea 1)
  pure (match r with
    | .ok b => some (ofBytes b.1)
    | .error _ => none)

def tfwdForm (r : Tfwd) (e : TrecX) : Op Unit := do
  treeRoom
  need [srcS r.a r.wa]
  let ea ← treeRecord r.a e
  if r.ph = 0 then pushTree (.tfwd ea 0 0)
  else do
    let t ← treeNow
    let kind ← recordKind ea
    if phaseRefused t.mode (fget Win.empty t.wins r.w.toNat).st.toNat r.ph.toNat kind then
      trapAt cACCESS (n64 (r.w.toNat + 3 * 2 ^ 8))
    else pushTree (.tfwd ea r.ph.toNat r.w.toNat)

/-- The extension word's values where there is none. -/
def noTrecX : TrecX := { stride := 0, disp := 0 }

def tfwdOp (r : Tfwd) : Op Unit := tfwdForm r noTrecX
def tfwdExtOp (r : Tfwd) (e : TrecX) : Op Unit := tfwdForm r e

def trevForm (r : Trev) (e : TrecX) : Op Unit := do
  treeRoom
  need [srcS r.a r.wa]
  let ea ← treeRecord r.a e
  pushTree (.trev ea)

def trevOp (r : Trev) : Op Unit := trevForm r noTrecX
def trevExtOp (r : Trev) (e : TrecX) : Op Unit := trevForm r e

/-- The descent stack of a walk lies in scratchpad (R231, R248). -/
def stackOf (a : BitVec 6) : Op Word64 := do
  let ea ← getS a
  checkAlign ea 64
  match classify ea with
  | .scratch _ => pure ea
  | _ => trapAt cACCESS ea

/-- TSAMP (R248, R249): where STATE is 0, it takes the generator's counter value. -/
def tsampOp (r : Trev) : Op Unit := do
  treeRoom
  need [srcS r.a r.wa]
  let ea ← stackOf r.a
  awaitEngines
  awaitCopies false (ea + 4) 1
  let st ← loadBytes 5 0 (ea + 4) 1
  let l := (← get).cctx.live
  if ofBytes st.1 == 0 then do
    modL fun l => { l with ctr := l.ctr + 1 }
    pushTree (.walk true ea (some (randWord l.rseed l.ctr 0)))
  else pushTree (.walk true ea none)

/-- TARGM (R248). -/
def targmOp (r : Trev) : Op Unit := do
  treeRoom
  need [srcS r.a r.wa]
  let ea ← stackOf r.a
  pushTree (.walk false ea none)

/-- TRATIO (R247). -/
def tratioOp (r : Tratio) : Op Unit := do
  treeRoom
  need [srcS r.a r.wa, srcS r.b r.wb, srcS r.c r.wc]
  let a ← getS r.a
  let b ← getS r.b
  let c ← getS r.c
  checkBases [(c, 8), (a, 8), (b, 8)]
  pushTree (.tratio c a b)

/-- TWCLR (R245). -/
def twclrOp (r : Twclr) : Op Unit := do
  treeRoom
  pushTree (.twclr r.all r.w.toNat)

/-- TSTAT (R250). -/
def tstatOp (r : Tstat) : Op Unit := do
  treeRoom
  let tok ← markEmpty false r.d.toNat
  pushTree (.tstat tok r.d.toNat r.sel.toNat)

/-- NOP of slot T. -/
def tNopOp : Op Unit := pure ()

/-! ### Meanings: each operation performed as an issue of its own -/

def execTmode (r : Tmode) (s : State) : Host.Outcome State Fault Refusal :=
  slotRun (.tmode r) (tmodeOp r) s

def execTevid (r : Tevid) (s : State) : Host.Outcome State Fault Refusal :=
  slotRun (.tevid r) (tevidOp r) s

def execTseed (r : Tseed) (s : State) : Host.Outcome State Fault Refusal :=
  slotRun (.tseed r) (tseedOp r) s

def execTfwd (r : Tfwd) (s : State) : Host.Outcome State Fault Refusal :=
  slotRun (.tfwd r) (tfwdOp r) s

def execTfwdExt (r : Tfwd) (e : TrecX) (s : State) : Host.Outcome State Fault Refusal :=
  slotRun (.tfwdExt r e) (tfwdExtOp r e) s

def execTrev (r : Trev) (s : State) : Host.Outcome State Fault Refusal :=
  slotRun (.trev r) (trevOp r) s

def execTrevExt (r : Trev) (e : TrecX) (s : State) : Host.Outcome State Fault Refusal :=
  slotRun (.trevExt r e) (trevExtOp r e) s

def execTsamp (r : Trev) (s : State) : Host.Outcome State Fault Refusal :=
  slotRun (.tsamp r) (tsampOp r) s

def execTargm (r : Trev) (s : State) : Host.Outcome State Fault Refusal :=
  slotRun (.targm r) (targmOp r) s

def execTratio (r : Tratio) (s : State) : Host.Outcome State Fault Refusal :=
  slotRun (.tratio r) (tratioOp r) s

def execTwclr (r : Twclr) (s : State) : Host.Outcome State Fault Refusal :=
  slotRun (.twclr r) (twclrOp r) s

def execTstat (r : Tstat) (s : State) : Host.Outcome State Fault Refusal :=
  slotRun (.tstat r) (tstatOp r) s

def execTNop (s : State) : Host.Outcome State Fault Refusal :=
  slotRun .tNop tNopOp s

end Sys2Proof.Machine
end

