-- ==== Sys2Proof/Machine/Perform.lean ====
section
/-! DEFINITION. Machine/Perform.lean: what each slot instruction does when it performs in an issue. -/

namespace Sys2Proof.Machine

/-- Perform a slot instruction at the cursor's slot and issue index. The events of the opcode table stand in no slot. -/
def performSlot (i : Instr) : Op Unit :=
  match i with
  | .sNop => sNopOp
  | .add r => addOp r
  | .sub r => subOp r
  | .mul r => mulOp r
  | .mulh r => mulhOp r
  | .mulhu r => mulhuOp r
  | .div r => divOp r
  | .divu r => divuOp r
  | .rem r => remOp r
  | .remu r => remuOp r
  | .and r => andOp r
  | .or r => orOp r
  | .xor r => xorOp r
  | .andn r => andnOp r
  | .shl r => shlOp r
  | .shr r => shrOp r
  | .sra r => sraOp r
  | .min r => minOp r
  | .max r => maxOp r
  | .minu r => minuOp r
  | .maxu r => maxuOp r
  | .clz r => clzOp r
  | .ctz r => ctzOp r
  | .popc r => popcOp r
  | .mov r => movOp r
  | .bfx r => bfxOp r
  | .bfi r => bfiOp r
  | .cmp cc r => cmpOp cc r
  | .csel r => cselOp r
  | .addImmediate r => addImmediateOp r
  | .subImmediate r => subImmediateOp r
  | .mulImmediate r => mulImmediateOp r
  | .andImmediate r => andImmediateOp r
  | .orImmediate r => orImmediateOp r
  | .xorImmediate r => xorImmediateOp r
  | .andnImmediate r => andnImmediateOp r
  | .shlImmediate r => shlImmediateOp r
  | .shrImmediate r => shrImmediateOp r
  | .sraImmediate r => sraImmediateOp r
  | .minImmediate r => minImmediateOp r
  | .maxImmediate r => maxImmediateOp r
  | .minuImmediate r => minuImmediateOp r
  | .maxuImmediate r => maxuImmediateOp r
  | .cmpImmediate cc r => cmpImmediateOp cc r
  | .li r => liOp r
  | .lih r => lihOp r
  | .la r => laOp r
  | .br r => brOp r
  | .call r => callOp r
  | .bc cc r => bcOp cc r
  | .jr r => jrOp r
  | .callr r => callrOp r
  | .ret r => retOp r
  | .ldB r => ldBOp r
  | .ldBu r => ldBuOp r
  | .ldH r => ldHOp r
  | .ldHu r => ldHuOp r
  | .ldW r => ldWOp r
  | .ldWu r => ldWuOp r
  | .ldD r => ldDOp r
  | .stB r => stBOp r
  | .stH r => stHOp r
  | .stW r => stWOp r
  | .stD r => stDOp r
  | .atopAdd r => atopAddOp r
  | .atopAnd r => atopAndOp r
  | .atopOr r => atopOrOp r
  | .atopXor r => atopXorOp r
  | .atopMin r => atopMinOp r
  | .atopMax r => atopMaxOp r
  | .atopSub r => atopSubOp r
  | .atswp r => atswpOp r
  | .atcas r => atcasOp r
  | .atfadd r => atfaddOp r
  | .atadds r => ataddsOp r
  | .fence r => fenceOp r
  | .waitm r => waitmOp r
  | .barrive r => barriveOp r
  | .barriveExt r e => barriveExtOp r e
  | .bexpect r => bexpectOp r
  | .bexpectExt r e => bexpectExtOp r e
  | .bwait r => bwaitOp r
  | .bwaitExt r e => bwaitExtOp r e
  | .btest r => btestOp r
  | .btestExt r e => btestExtOp r e
  | .tkget r => tkgetOp r
  | .tkpost r => tkpostOp r
  | .tkdone r => tkdoneOp r
  | .trap => trapOp
  | .trapExt r => trapExtOp r
  | .tret => tretOp
  | .crd r => crdOp r
  | .cwr r => cwrOp r
  | .hbeat => hbeatOp
  | .yield => yieldOp
  | .vadd r => vaddOp r
  | .vsub r => vsubOp r
  | .vmul r => vmulOp r
  | .vmulh r => vmulhOp r
  | .vmin r => vminOp r
  | .vmax r => vmaxOp r
  | .vabs r => vabsOp r
  | .vand r => vandOp r
  | .vor r => vorOp r
  | .vxor r => vxorOp r
  | .vandn r => vandnOp r
  | .vshl r => vshlOp r
  | .vshr r => vshrOp r
  | .vsra r => vsraOp r
  | .vfadd r => vfaddOp r
  | .vfsub r => vfsubOp r
  | .vfmul r => vfmulOp r
  | .vfma r => vfmaOp r
  | .vfms r => vfmsOp r
  | .vfmin r => vfminOp r
  | .vfmax r => vfmaxOp r
  | .vrcp r => vrcpOp r
  | .vrsq r => vrsqOp r
  | .vexp2 r => vexp2Op r
  | .vlog2 r => vlog2Op r
  | .vcmp cc r => vcmpOp cc r
  | .vfcmp cc r => vfcmpOp cc r
  | .vNop => vNopOp
  | .pand r => pandOp r
  | .por r => porOp r
  | .pxor r => pxorOp r
  | .pnot r => pnotOp r
  | .ppop r => ppopOp r
  | .pfirst r => pfirstOp r
  | .vcvt r => vcvtOp r
  | .vsxpack r => vsxpackOp r
  | .vsxunpack r => vsxunpackOp r
  | .vperm r => vpermOp r
  | .vshuf r => vshufOp r
  | .vbcast r => vbcastOp r
  | .vmovs r => vmovsOp r
  | .vsel r => vselOp r
  | .vcompress r => vcompressOp r
  | .vexpand r => vexpandOp r
  | .vred r => vredOp r
  | .vscan r => vscanOp r
  | .vtopk r => vtopkOp r
  | .vlpmul r => vlpmulOp r
  | .vlpadd r => vlpaddOp r
  | .vlpmax r => vlpmaxOp r
  | .vlpdiv r => vlpdivOp r
  | .vlpcvt r => vlpcvtOp r
  | .vlpsplit r => vlpsplitOp r
  | .vlpjoin r => vlpjoinOp r
  | .vrand r => vrandOp r
  | .vld r => vldOp r
  | .vst r => vstOp r
  | .vlds r => vldsOp r
  | .vsts r => vstsOp r
  | .vgath r => vgathOp r
  | .vscat r => vscatOp r
  | .vldb r => vldbOp r
  | .fNop => fNopOp
  | .fopen r => fopenOp r
  | .fopenExt r e => fopenExtOp r e
  | .fnext r => fnextOp r
  | .fskip r => fskipOp r
  | .fisect r => fisectOp r
  | .funion r => funionOp r
  | .fmerge r => fmergeOp r
  | .fldv r => fldvOp r
  | .fcrd r => fcrdOp r
  | .femit r => femitOp r
  | .fstat r => fstatOp r
  | .fsave r => fsaveOp r
  | .frest r => frestOp r
  | .fclose r => fcloseOp r
  | .xNop => xNopOp
  | .xscale r => xscaleOp r
  | .xexpv r => xexpvOp r
  | .xfix r => xfixOp r
  | .xcvt r => xcvtOp r
  | .hNop => hNopOp
  | .hld r => hldOp r
  | .hldExt r e => hldExtOp r e
  | .hst r => hstOp r
  | .hstExt r e => hstExtOp r e
  | .hset r => hsetOp r
  | .hfence r => hfenceOp r
  | .mNop => mNopOp
  | .acalloc r => acallocOp r
  | .acfree r => acfreeOp r
  | .acgrant r => acgrantOp r
  | .aczero r => aczeroOp r
  | .acrd r => acrdOp r
  | .acrdSt r => acrdStOp r
  | .acwr r => acwrOp r
  | .mmaBf16 r => mmaBf16Op r
  | .mmaFp16 r => mmaFp16Op r
  | .mmaE4m3 r => mmaE4m3Op r
  | .mmaE5m2 r => mmaE5m2Op r
  | .mmaInt8 r => mmaInt8Op r
  | .mmaSx8 r => mmaSx8Op r
  | .mmaSx5 r => mmaSx5Op r
  | .mmaSx3 r => mmaSx3Op r
  | .mcntInt4 r => mcntInt4Op r
  | .mcntE2m1 r => mcntE2m1Op r
  | .nclr r => nclrOp r
  | .nmerge r => nmergeOp r
  | .ndump r => ndumpOp r
  | .nload r => nloadOp r
  | .ndrain r => ndrainOp r
  | .nchk r => nchkOp r
  | .rgset r => rgsetOp r
  | .cNop => cNopOp
  | .copy r => copyOp r
  | .copyExt r e => copyExtOp r e
  | .copyt r => copytOp r
  | .copytExt r e => copytExtOp r e
  | .cgath r => cgathOp r
  | .cscat r => cscatOp r
  | .cred r => credOp r
  | .credExt r e => credExtOp r e
  | .cring r => cringOp r
  | .cringExt r e => cringExtOp r e
  | .cwait r => cwaitOp r
  | .ctest r => ctestOp r
  | .publish r => publishOp r
  | .upd r => updOp r
  | .tNop => tNopOp
  | .tmode r => tmodeOp r
  | .tevid r => tevidOp r
  | .tseed r => tseedOp r
  | .tfwd r => tfwdOp r
  | .tfwdExt r e => tfwdExtOp r e
  | .trev r => trevOp r
  | .trevExt r e => trevExtOp r e
  | .tsamp r => tsampOp r
  | .targm r => targmOp r
  | .tratio r => tratioOp r
  | .twclr r => twclrOp r
  | .tstat r => tstatOp r
  | .hint i => hintOp i
  | .hintExt i x => hintExtOp i x
  | _ => pure ()

end Sys2Proof.Machine
end

