-- ==== Sys2Proof/Machine/Bundle.lean ====
section
/-! DEFINITION. Machine/Bundle.lean: the issue of a bundle (R37, R111 to R113, R122, R124), deferred traps at a bundle boundary
(R49), and fused, decoupled and rejoining seifs (R40). -/

namespace Sys2Proof.Machine

/-- The operations that an issue performs: the slots written in the bundle and the armed ones, from the context's resume slot
on (R122, R125). An illegal slot word traps at its slot (R128). -/
def slotOps (b : Bundle) (c : Ctx) : List SlotOp :=
  ((upTo 9).filter (c.slot ≤ ·)).filterMap fun i =>
    match b.slots.find? (·.slot == i) with
    | some w =>
      some (match w.instr with
        | some n => { slot := i, k := c.j, written := true, instr := n, perform := performSlot n }
        | none => { slot := i, k := c.j, written := false, instr := .sNop, perform := trapAt cILLEGAL (n64 w.w) })
    | none =>
      (fget? c.live.armed i).map fun a =>
        { slot := i, k := a.next, written := false, instr := a.op, perform := performSlot a.op }

/-- The cursor at the start of an issue of a bundle. -/
def Cursor.atBundle (k : Cursor) (x : Nat) (b : Bundle) (c : Ctx) : Cursor :=
  { k with x := x, slot := ((slotOps b c).head?.map (·.slot)).getD c.slot, k := c.j, pc := b.pc, next := b.next, rep := b.rep, isEnd := b.e, j := c.j }

/-- Give the issue in progress to a context; what an issue that stopped had left for its end is gone. -/
def State.select (s : State) (x : Nat) : State := { s with cur := { s.cur with x := x, atEnd := none } }

/-- A deferred trap is due at this boundary (R49): the context is in task mode, and stands before an issue, or before the rest of
a resumed issue that has blocked. -/
def Ctx.trapDue (c : Ctx) : Option Deferred :=
  if c.handler || !(c.slot == 0 || c.blocked) then none else c.deferred.head?

/-- The deferred trap as it is taken (R49). -/
def Ctx.deferredInfo (c : Ctx) (d : Deferred) (rep : Nat) : TrapInfo :=
  { cause := d.cause, info := d.info, slotField := d.slot, deferred := true, tpc := c.pc, slotRes := c.slot,
    repLeft := rep - c.j }

/-- Take the first deferred trap in place of the issue due. -/
def deferredAt (d : Deferred) (rep : Nat) : Op Unit := do
  let c := (← get).cctx
  modC fun c => { c with deferred := c.deferred.drop 1 }
  takeTrap (c.deferredInfo d rep)

/-- What a context is to do next: the outcome is settled before the issue, or an issue is ready. -/
inductive Ready where
  | settled (o : Host.Outcome State Fault Refusal)
  | issue (s : State) (b : Bundle)

/-- Fetch a context's bundle, and take a trap that comes before its issue (R49). -/
def prepare (x : Nat) (s : State) : Ready :=
  let s := s.select x
  let c := s.cctx
  if c.ended then .settled (.next (s.leave x .draining .none))
  else
    match fetchBundle x c.pc c.jumped s, c.trapDue with
    | .ok b s', some d => .settled (settle s (deferredAt d b.rep s'))
    | .ok b s', none => .issue { s' with cur := s'.cur.atBundle x b c } b
    | .error (.trap _) _, some d => .settled (settle s (deferredAt d 0 s))
    | .error e s', _ => .settled (settle s (.error e s'))

/-- Decouple acts after the last issue of its bundle (R40). -/
def afterIssue (b : Bundle) (s : State) : State :=
  if b.group == 1 && (s.cur.j == s.cur.rep || s.cur.target.isSome) then s.decouple (s.ctx s.cur.x).seif else s

/-- Run an outcome on. -/
def onNext (o : Host.Outcome State Fault Refusal) (f : State → Host.Outcome State Fault Refusal) :
    Host.Outcome State Fault Refusal :=
  match o with
  | .next s => f s
  | .fault e => .fault e
  | .refused r => .refused r

/-- Issue a prepared bundle of one context: with SLOTRES 9 nothing of the issue remains and it is only ended (R51). -/
def issueOne (s : State) (b : Bundle) : Host.Outcome State Fault Refusal :=
  let c := s.cctx
  if c.slot == 9 then
    let op : Op Unit := do
      beginIssue
      endIssue
    settle s (op s)
  else onNext (runIssue (b.k && c.j == 0 && c.slot == 0) (slotOps b c) s) fun s' => .next (afterIssue b s')

/-- The Y bit holds the bundle back, where the issue starts at slot 0 (R37). -/
def State.yieldsAt (s : State) (b : Bundle) : Bool := b.y && s.cctx.slot == 0 && s.mustYield s.cur.x

/-- What blocks a prepared bundle: the yield condition of its Y bit, tested where the issue starts at slot 0, or an operation
(R37). -/
def bundleBlocks (s : State) (b : Bundle) : Option BlockWhy :=
  let c := s.cctx
  if c.slot == 9 then none
  else if s.yieldsAt b then some .yield
  else s.issueBlocks (slotOps b c)

/-- The seif that a context issues fused with. -/
def State.fusedOf (s : State) (x : Nat) : Option Seif := (s.seifOf x).filter (·.fused)

/-! ### Rejoin (R40) -/

/-- A member stands blocked at a rejoin. -/
def State.atRejoin (s : State) (x : Nat) : Bool := (s.ctx x).state == .blocked && (s.ctx x).why == .rejoin

/-- The header of the bundle a context stands at, for ILLEGAL's tinfo. -/
def rejoinIllegal (x : Nat) (s : State) : Host.Outcome State Fault Refusal :=
  let s := s.select x
  let c := s.cctx
  match fetchBundle x c.pc c.jumped s with
  | .ok b s' =>
    let t : TrapInfo := { cause := cILLEGAL, info := n64 b.hdr, slotField := 0xF, deferred := false, tpc := c.pc, slotRes := 0,
                          repLeft := b.rep }
    let op : Op Unit := do
      takeTrap t
      let c' := (← get).cctx
      if c'.state == .blocked then modify fun s => s.makeReady x else pure ()
    settle s (op s')
  | .error e s' => settle s (.error e s')

/-- A decoupled member reaches a rejoin header: it blocks until every other member stands at one; then the seif is fused where
all stand at the same address, and otherwise every member takes ILLEGAL. -/
def rejoinAt (f : Seif) (x : Nat) (s : State) : Host.Outcome State Fault Refusal :=
  let others := f.members.filter (· != x)
  if !others.all s.atRejoin then settle s (blockIssue .rejoin s)
  else if others.all fun y => (s.ctx y).pc == (s.ctx x).pc then
    let s := { s with seifs := s.seifs.map fun g => if g.id == f.id then { g with fused := true } else g }
    .next (others.foldl (fun s y => s.makeReady y) s)
  else f.members.foldl (fun o y => onNext o (rejoinIllegal y)) (.next s)

/-- The bundle is a rejoin that a decoupled member has not yet passed. -/
def State.rejoining (s : State) (b : Bundle) : Option Seif :=
  let c := s.cctx
  if b.group == 2 && c.j == 0 && c.slot == 0 then (s.seifOf s.cur.x).filter (!·.fused) else none

/-! ### STOPMARK (R332) -/

/-- What STOPMARK asks of a context at a mark: task mode, no slot armed, no pending H-slot write, an empty port, every window
EMPTY, and no M, C or T operation or copy outstanding. -/
def State.stopClear (s : State) (x : Nat) (l : Live) : Bool :=
  let c := s.ctx x
  let k := s.core (coreOf x)
  !bitAt l.sw.toNat 2 && l.armed.isEmpty && l.hPend.isEmpty && c.ports.isEmpty && c.tree.wins.all (fun w => w.2.st == 0) &&
    c.heldX.isEmpty && !(k.mq ++ k.mrun.toList).any (·.x == x) && !k.tq.any (·.x == x) &&
    !k.copies.any fun p => p.x == x && !p.lost

/-- STOPMARK is under way for a context's region. -/
def State.stopping (s : State) (x : Nat) : Bool :=
  match s.region? (s.ctx x).region with
  | some r => r.stopping
  | none => false

/-- STOPMARK stops the issuing context at the start of the bundle that it stands at. -/
def State.stopsAt (s : State) (b : Bundle) : Bool :=
  let x := s.cur.x
  let c := s.cctx
  b.k && c.j == 0 && c.slot == 0 && s.stopping x && s.stopClear x c.live

/-- Where STOPMARK stops a context, the stop comes in place of its issue. -/
def orStop (s : State) (b : Bundle) (o : Host.Outcome State Fault Refusal) : Host.Outcome State Fault Refusal :=
  if s.stopsAt b then .next { s with agenda := .stopmarkContextStop s.cur.x :: s.agenda } else o

/-! ### Issue -/

/-- A context can issue now: it is RUNNING on its core, which is not halting. -/
def State.issues (s : State) (x : Nat) : Bool :=
  let k := s.core (coreOf x)
  (s.ctx x).state == .running && k.issuing == x % 4 && !k.halting && !(s.ctx x).stopped

/-- Issue the bundle of one context that is in no fused seif. -/
def issueAlone (x : Nat) (s : State) : Host.Outcome State Fault Refusal :=
  match prepare x s with
  | .settled o => o
  | .issue s b =>
    match s.rejoining b with
    | some f => rejoinAt f x s
    | none => orStop s b (if s.yieldsAt b then settle s (blockIssue .yield s) else issueOne s b)

/-- A member of a fused seif blocks. -/
def memberBlocks (s : State) (x : Nat) : Option BlockWhy :=
  match prepare x s with
  | .settled _ => none
  | .issue s b => bundleBlocks s b

/-- Block a member of a fused seif. -/
def blockMember (why : BlockWhy) (x : Nat) (s : State) : Host.Outcome State Fault Refusal :=
  match prepare x s with
  | .settled o => o
  | .issue s _ => settle s (blockIssue why s)

/-- Issue one member's share of a fused bundle. -/
def issueMember (x : Nat) (s : State) : Host.Outcome State Fault Refusal :=
  match prepare x s with
  | .settled o => o
  | .issue s b => orStop s b (issueOne s b)

/-- Issue a bundle of a fused seif (R40): it blocks on every member where it blocks on any; otherwise each member performs it
against its own state. -/
def issueFused (f : Seif) (s : State) : Host.Outcome State Fault Refusal :=
  match f.members.find? fun y => (memberBlocks s y).isSome with
  | some b =>
    f.members.foldl (fun o y => onNext o (blockMember (((memberBlocks s y)).getD (.member b)) y)) (.next s)
  | none => f.members.foldl (fun o y => onNext o (issueMember y)) (.next s)

/-- BUNDLE_ISSUE: the context issues its next bundle issue. Where it cannot, nothing happens. -/
def execBundleIssue (x : Nat) (s : State) : Host.Outcome State Fault Refusal :=
  match s.fusedOf x with
  | some f => if f.members.all s.issues then issueFused f s else .next s
  | none => if s.issues x then issueAlone x s else .next s

end Sys2Proof.Machine
end

