-- ==== Sys2Proof/Machine/ContextEvents.lean ====
section
/-! DEFINITION. Machine/ContextEvents.lean: what happens to a context beside its own issues: its release from a block (R37), the
timeout of its store gate (R87), the arrival or refusal of its accesses (R127, R135), deferred traps (R49), the heartbeat (R45),
retirement (R41), the task scheduler's events (R32, R33), barrier arrivals (R55) and the fibre queue (R260). An event that
cannot take place changes nothing (log 3). -/

namespace Sys2Proof.Machine

/-! ### BLOCK_RELEASE -/

/-- An operation delivers a value of which `f` holds; one that is refused counts as holding, so that the issue is made again and
meets the refusal itself. Its effects are discarded. -/
def holdsNow {α : Type} (op : Op α) (f : α → Bool) (s : State) : Bool :=
  match op s with
  | .ok a _ => f a
  | .error _ _ => true

/-- Another context of the core is READY, or is issuing (R37, R38). -/
def State.otherGoes (s : State) (x : Nat) : Bool :=
  s.otherReady x || (upTo 4).any fun i => x / 4 * 4 + i != x && (s.ctx (x / 4 * 4 + i)).state == .running

/-- The condition that a BLOCKED context waits for holds (R37, R40). -/
def State.released (s : State) (x : Nat) : Bool :=
  let c := s.ctx x
  let k := s.core (coreOf x)
  match c.why with
  | .none => true
  | .queue 0 => ((k.mq ++ c.heldX).filter (·.slot == 6)).length < 8
  | .queue 1 => k.tq.length < 8
  | .queue 2 => k.fq.length < 4
  | .queue _ => k.copies.length < 32
  | .cid n => !k.copies.any fun p => p.x == x && !p.lost && p.cid == n
  | .chunks cid mask => fget (BitVec.allOnes 64) c.bitmaps cid &&& mask == mask
  | .barrier ea phase => holdsNow (readBarrier ea) (fun w => phaseDone w.2.1 phase) (s.select x)
  | .word ea value => holdsNow (readEa (s.reqOf x 0 0) (coreOf x) ea 8) (fun r => n64 (ofBytes r.1) == value) s
  | .task => c.given.isSome
  | .empty isV reg => !c.live.isEmpty (isV, reg, false)
  | .yield => c.yielded || !s.otherGoes x
  | .ahead => true
  | .rejoin => false
  | .post d => !s.schedFull d
  | .member y => (s.ctx y).state != .blocked

/-- BLOCK_RELEASE: a blocked context's condition holds, and it becomes READY (R37, R39). -/
def execBlockRelease (x : Nat) (s : State) : Host.Outcome State Fault Refusal :=
  if (s.ctx x).state == .blocked && s.released x then
    .next ((s.modCtx x fun c => { c with arrived := c.arrived || c.why == .ahead }).makeReady x)
  else .next s

/-! ### GATE_TIMEOUT_MARK -/

/-- The oldest gated store of a context entered 1,024 cycles ago or more (R87). -/
def State.gateDue (s : State) (x : Nat) : Bool :=
  let c := s.ctx x
  (c.state == .running || c.state == .ready) &&
    match c.gate with
    | [] => false
    | g :: _ => g.time + 1024 ≤ s.time

/-- Take a mark where a context stands. -/
def markHere (x : Nat) : Op Unit := do
  modify fun s => s.select x
  takeMark (← get).cctx.point

/-- Take a mark where a context stands; a refusal parks it (R126). -/
def State.markedAt (s : State) (x : Nat) : Host.Outcome State Fault Refusal := settle (s.select x) (markHere x s)

/-- GATE_TIMEOUT_MARK: the core inserts an implicit mark (R87, R125). -/
def execGateTimeoutMark (x : Nat) (s : State) : Host.Outcome State Fault Refusal :=
  if s.gateDue x then s.markedAt x else .next s

/-! ### LOAD_ARRIVAL and ACCESS_REFUSAL -/

/-- A value reaches its register (R135), in the mark's state as well where it was on its way at the mark; uncorrectable data
raises POISON as a deferred trap (R176). -/
def State.deliver (s : State) (x : Nat) (a : Arrival) : State :=
  let s := s.modCtx x fun c =>
    { c with live := c.live.arrive a, mark := { c.mark with live := c.mark.live.arrive a }
             arrivals := c.arrivals.filter (·.tok != a.tok) }
  if a.poison then s.deferTrap x { cause := cPOISON, info := a.pc, slot := a.slot, tok := a.tok } else s

/-- LOAD_ARRIVAL: the value of a long-latency producer arrives and its register becomes full (R135). -/
def execLoadArrival (x tok : Nat) (s : State) : Host.Outcome State Fault Refusal :=
  match (s.ctx x).arrivals.find? (·.tok == tok) with
  | some a => .next (s.deliver x a)
  | none => .next s

/-- ACCESS_REFUSAL: the owner refuses a read that is on its way: the context rolls back and is PARKED, with a record in the fault
ring (R52, R127, R329). Reasons are 1 to 8; a read that a mark has accepted is not refused any more (R126). -/
def execAccessRefusal (x tok reason : Nat) (s : State) : Host.Outcome State Fault Refusal :=
  match (s.ctx x).arrivals.find? fun a => a.tok == tok && (s.ctx x).mark.tok ≤ a.tok with
  | some a =>
    if 1 ≤ reason && reason ≤ 8 then
      let q := s.reqOf x a.src a.cls
      .next (s.park x { va := a.va, reason := reason, acc := accRead, src := a.src, cls := a.cls, asid := q.asid,
                        pdie := q.pdie, core := q.core, ctx := q.ctx, cid := q.cid })
    else .next s
  | none => .next s

/-! ### DEFERRED_TRAP -/

/-- A deferred trap of a DRAINING context is taken at its end bundle (R49). -/
def drainingTrap (x : Nat) (d : Deferred) : Op Unit := do
  modify fun s => s.select x
  deferredAt d (← get).cctx.j

/-- DEFERRED_TRAP: a condition that an engine has detected is taken at the next bundle boundary (R49). -/
def execDeferredTrap (x : Nat) (s : State) : Host.Outcome State Fault Refusal :=
  let c := s.ctx x
  if c.state == .draining && !c.handler then
    match c.deferred with
    | d :: _ => settle (s.select x) (drainingTrap x d s)
    | [] => .next s
  else if s.issues x && c.trapDue.isSome then
    match prepare x s with
    | .settled o => o
    | .issue _ _ => .next s
  else .next s

/-! ### HEARTBEAT_EXPIRY -/

/-- The HBLOSS entry of a core (R351): hbp, the miss count, and its region's RCB. -/
def State.hbEntry (s : State) (k misses : Nat) : State :=
  let rcb := match s.region? (s.core k).region with
    | some r => r.rcb
    | none => 0
  s.strataAdd (k / 24) 3 false (k % 24) 0xFF (toBytes 8 (s.core k).hbp.toNat ++ toBytes 8 misses ++ toBytes 8 rcb.toNat)

/-- Heartbeat loss (R45): the strata record takes the loss and the state that each context that is not IDLE is found in (R351,
R353), every context that is neither IDLE nor HALTED is halted, and every task running on the core completes FAULTED. A seif that
loses a member goes on decoupled (DESIGN CHOICE, log 25). -/
def heartbeatLoss (k : Nat) : Op Unit := do
  let s ← get
  let xs := (upTo 4).map (4 * k + ·)
  let live := xs.filter fun x => (s.ctx x).state != .idle && (s.ctx x).state != .halted
  modify fun s =>
    let s := (s.count (k / 24) telHBLOSS).hbEntry k 2
    let s := (xs.filter fun x => (s.ctx x).state != .idle).foldl State.ctxStateEntry s
    let s := live.foldl (fun s x => (s.halt x).decouple (s.ctx x).seif) s
    s.modCore k fun c => { c with hbTimer := 0, hbMiss := 0 }
  failTasks live

/-- The heartbeat timer of a core has reached hbp (R45). -/
def Core.hbDue (c : Core) : Bool := c.hbp != 0 && c.hbp.toNat ≤ c.hbTimer

/-- HEARTBEAT_EXPIRY: the timer has reached hbp: the miss count increases and the timer restarts; at 2 the core's contexts are
halted (R45). -/
def execHeartbeatExpiry (c : Nat) (s : State) : Host.Outcome State Fault Refusal :=
  let k := s.core c
  if !k.hbDue then .next s
  else if k.hbMiss + 1 < 2 then .next (s.setCore c { k with hbTimer := 0, hbMiss := k.hbMiss + 1 })
  else runOp (heartbeatLoss c) s

/-! ### CONTEXT_RETIRE -/

/-- Every engine queue of a DRAINING context is empty, none of its copies is active, and no deferred trap is due (R39, R41). -/
def State.retirable (s : State) (x : Nat) : Bool :=
  let c := s.ctx x
  let k := s.core (coreOf x)
  c.state == .draining && c.arrivals.isEmpty && c.heldX.isEmpty && !(k.mq ++ k.mrun.toList).any (·.x == x) && !k.tq.any (·.x == x) &&
    !k.fq.any (·.x == x) && !k.copies.any (fun p => p.x == x && !p.lost) && (c.handler || c.deferred.isEmpty)

/-- Another member of a seif has not retired. -/
def State.seifLives (s : State) (f : Seif) (x : Nat) : Bool :=
  f.members.any fun y => y != x && (s.ctx y).seif == f.id && (s.ctx y).state != .idle

/-- The context's entry task completes OK at retirement (R34), with the last member of a seif (log 25). -/
def retireTask (x : Nat) : Op Unit := do
  let s ← get
  let c := s.ctx x
  let entry := (s.tasksOf x).filter (!·.data)
  modify fun s => s.retire x
  match (s.seifOf x).filter fun f => s.seifLives f x with
  | some _ => pure ()
  | none => do
    modify fun s => { s with seifs := s.seifs.filter fun g => g.id != c.seif }
    forEach entry fun t => complete t stOK

/-- CONTEXT_RETIRE: a DRAINING context with empty queues and no active copy retires (R41). -/
def execContextRetire (x : Nat) (s : State) : Host.Outcome State Fault Refusal :=
  if s.retirable x then runOp (retireTask x) s else .next s

/-! ### The task scheduler -/

/-- TASK_DISPATCH: the task scheduler of a die dispatches its first eligible READY record (R33, R36). -/
def execTaskDispatch (d : Nat) (s : State) : Host.Outcome State Fault Refusal := runOp (dispatchOne d) s

/-- A dependence decrement, and a cancellation, from the scheduler of any die. -/
def SchedOp.isDecrement (o : SchedOp) : Bool :=
  match o with
  | .decrement _ => true
  | _ => false

def SchedOp.isCancel (o : SchedOp) : Bool :=
  match o with
  | .cancel _ => true
  | _ => false

/-- A message of a kind on its way to a scheduler reaches its record. -/
def messageArrives (n : Nat) (kind : SchedOp → Bool) (s : State) : Host.Outcome State Fault Refusal :=
  match s.msgs.find? fun m => m.id == n && !m.held && kind m.op with
  | some m => runOp (runFor m.die m.asid m.record [m.op]) { s with msgs := s.msgs.filter (·.id != n) }
  | none => .next s

/-- TASK_DECREMENT: a dependence decrement reaches a task record (R32). -/
def execTaskDecrement (n : Nat) (s : State) : Host.Outcome State Fault Refusal := messageArrives n SchedOp.isDecrement s

/-- TASK_CANCELLATION: a cancellation reaches a task record (R32). -/
def execTaskCancellation (n : Nat) (s : State) : Host.Outcome State Fault Refusal := messageArrives n SchedOp.isCancel s

/-! ### BARRIER_ARRIVAL -/

/-- The request of an arrival from another module, for which the sender is not known here (log 9). -/
def foreignReq : Req :=
  { asid := 0, src := 9, cls := 0, pdie := 0, core := 0xFF, ctx := 0, cid := 0xFF, shadow := false }

/-- BARRIER_ARRIVAL: an arrival or BEXPECT from another module reaches the barrier at a physical address (R54, R55); one for the
scratchpad of a core that is gated or held in reset is dropped with an UNDELIVERABLE record (R56), and so is one for a die that serves
nothing (log 23). -/
def execBarrierArrival (pa : Nat) (act : BarrierAct) (s : State) : Host.Outcome State Fault Refusal :=
  if pa % 32 != 0 || pdieOf pa > 8 || !(inVault (offOf pa) || inWindow (offOf pa)) then .next s
  else
    match s.hardServes 0 pa with
    | some ha => .next (s.barAct ha act true)
    | none =>
      if windowRefuses s pa || (s.dieRefuses (pdieOf pa) (offOf pa)).isSome then runOp (faultPost (undeliverable foreignReq (n64 pa))) s else .next (s.barAct pa act true)

/-! ### FIBRE_QUEUE_PERFORM -/

/-- FIBRE_QUEUE_PERFORM: the oldest queued fibre operation of a core performs (R260). -/
def execFibreQueuePerform (c : Nat) (s : State) : Host.Outcome State Fault Refusal :=
  match (s.core c).fq with
  | [] => .next s
  | f :: _ => settle (s.select f.x) (performFibres f.x [f] (s.select f.x))

end Sys2Proof.Machine
end

