-- ==== Sys2Proof/Machine/Slot.lean ====
section
/-! DEFINITION. Machine/Slot.lean: what a core's hardpan slot and its port spill area hold (R333), and how a context's registers
stand in a record (R334). Where R333 and R334 name contents without a layout, the layout is the model's (log 15, log 21). -/

namespace Sys2Proof.Machine

/-! ### Parts -/

/-- Bytes at offsets; what no part covers is zero. -/
abbrev Parts := List (Nat × List Byte)

/-- The first n bytes that parts give. -/
def Parts.bytes (l : Parts) (n : Nat) : List Byte :=
  let m := l.foldl (fun m (o, bs) => (bs.zip (upTo bs.length)).foldl (fun m (b, i) => fset 0 m (o + i) b) m) ([] : FMap Byte)
  (upTo n).map (fget 0 m)

/-! ### Banks, counter sets, rings (R333) -/

/-- A bank's state in 256 bytes: ownership, grant mask, format, poison bits, WV, and the witness column. -/
def Bank.stateBytes (b : Bank) : List Byte :=
  toBytes 1 (b2n b.owned + 2 * b.owner) ++ toBytes 1 b.grants.toNat ++ toBytes 2 b.fmt ++ toBytes 4 b.poison.toNat ++
    toBytes 1 (b2n b.wv) ++ List.replicate 119 0 ++ b.witness.flatMap (toBytes 4)

/-- Bank `b` of a core: its cells, and its state. -/
def Bank.parts (b : Nat) (v : Bank) : Parts :=
  v.cells.map (fun (i, w) => (0x300000 + 8192 * b + 4 * i, toBytes 4 w.toNat)) ++ [(0x340000 + 256 * b, v.stateBytes)]

/-- Counter set `n` as its image (R197) followed by its owner; with the owner stand the poison bits, format and depth as issued. -/
def CSet.parts (n : Nat) (v : CSet) : Parts :=
  let base := 0x342000 + 0x42000 * n
  (base, toBytes 4 v.pdepth ++ toBytes 1 v.pfmt) :: v.cells.map (fun (i, c) => (base + 64 + 128 * i, c.bytes)) ++
    [(base + imageBytes, toBytes 1 (b2n v.owned + 2 * v.owner) ++ toBytes 4 v.poison.toNat ++ toBytes 1 v.fmt ++ toBytes 4 v.depth)]

/-- A ring in 64 bytes. -/
def Core.ringBytes (c : Core) (g : Nat) : List Byte :=
  match fget? c.ringOf g with
  | some n =>
    let r := c.ringGen n
    toBytes 8 (1 + 2 * r.owner) ++ toBytes 8 r.base ++ toBytes 8 r.size ++ toBytes 8 r.head ++ toBytes 8 r.tail ++
      toBytes 8 r.fill ++ List.replicate 16 0
  | none => List.replicate 64 0

/-- The rings area of a slot: the eight rings, then hbp, the heartbeat timer and the miss count. -/
def Core.tailParts (c : Core) : Parts :=
  [(0x3F8000, (upTo 8).flatMap c.ringBytes ++ toBytes 8 c.hbp.toNat ++ toBytes 8 c.hbTimer ++ toBytes 8 c.hbMiss)]

/-! ### Contexts -/

/-- Full/empty bits of registers 0 to n - 1, 1 for full. -/
def fullBits (n : Nat) (waiting : FMap Nat) : Nat :=
  (upTo n).foldl (fun acc i => if fhas waiting i then acc else acc + 2 ^ i) 0

/-- The registers of a context from an offset on (R334): s0 to s55 and s63, v, p, the full/empty bits, q, the f images, the h
records, then sw, rseed, the generator counter, tkrec and the tree-engine binding. -/
def Ctx.parts (c : Ctx) (o : Nat) : Parts :=
  let l := c.live
  let t := c.tree
  (l.s.filter fun (i, _) => i < 56 || i == 63).map (fun (i, w) => (o + 8 * min i 56, toBytes 8 w.toNat)) ++
    (l.v.filter (·.1 < 288)).map (fun (i, w) => (o + 456 + 128 * i, toBytes 128 w.toNat)) ++
    (l.p.filter (·.1 < 14)).map (fun (i, w) => (o + 37320 + 16 * i, toBytes 16 w.toNat)) ++
    [(o + 37544, toBytes 8 (fullBits 64 l.sWait) ++ toBytes 40 (fullBits 320 l.vWait) ++
       (upTo 8).flatMap fun i => toBytes 8 (fget (BitVec.allOnes 64) l.q i).toNat)] ++
    l.f.map (fun (i, f) => (o + 37656 + 64 * i, f.image)) ++ l.h.map (fun (i, h) => (o + 38680 + 64 * i, toBytes 64 h.toNat)) ++
    [(o + 39192, toBytes 8 l.sw.toNat ++ toBytes 8 l.rseed.toNat ++ toBytes 8 l.ctr.toNat ++ toBytes 8 c.ctl.tkrec.toNat ++
       toBytes 8 t.mode ++ toBytes 8 t.vb.toNat ++ toBytes 8 t.rb.toNat ++ toBytes 8 t.evb.toNat ++ toBytes 8 t.evn.toNat)]

/-- The area of context `i` in a slot: its registers, its control registers, and its completion slots; an IDLE one holds nothing. -/
def Ctx.slotParts (i : Nat) (c : Ctx) : Parts :=
  let o := 0x3C8000 + 0xC000 * i
  let t := c.ctl
  if c.state == .idle then []
  else c.parts o ++
    [(o + 39264, toBytes 8 t.tv.toNat ++ toBytes 8 t.tpc.toNat ++ toBytes 8 t.tsw.toNat ++ toBytes 8 t.tcause.toNat ++
       toBytes 8 t.tinfo.toNat ++ toBytes 8 t.tkeep0.toNat ++ toBytes 8 t.tkeep1.toNat ++
       (upTo 32).flatMap fun n => toBytes 8 (fget (BitVec.allOnes 64) c.bitmaps n).toNat)]

/-! ### A slot -/

/-- The slot of a pre-empted core, its scratchpad apart. -/
def HardSlot.parts (h : HardSlot) : Parts :=
  h.core.banks.flatMap (fun (b, v) => v.parts b) ++ h.core.csets.flatMap (fun (n, v) => v.parts n) ++
    h.ctxs.flatMap (fun (i, c) => c.slotParts i) ++ h.core.tailParts

/-- Write parts into a core's slot; no part crosses from one vault's share to the next. -/
def State.putParts (s : State) (k : Nat) (l : Parts) : State := l.foldl (fun s (o, bs) => s.write (hardPhys k o) bs) s

/-- The port entries of a pre-empted core go to the spill area of its die (R333), where that lies in memory. -/
def State.spillPorts (s : State) (k : Nat) (h : HardSlot) : State :=
  let base := physOf (k / 24) (s.regN (rSPILL (k / 24))) + 0x80000 * (k % 24)
  h.ctxs.foldl (fun s (i, c) =>
    let l := c.ports ++ c.portsH
    (upTo l.length).foldl (fun (s : State) j =>
      let a := base + 0x20000 * i + 9216 * j
      if populated a && populated (a + 9215) then
        { s.write a ((upTo 9216).map (Config.spillByte s.fresh)) with fresh := s.fresh + 1 }
      else s) s) s

/-- A byte of a core's slot by physical address, its offset in the slot. -/
def slotOffset (k pa : Nat) : Option Nat :=
  if pdieOf pa == k / 24 && inHard (offOf pa) && hardByte (offOf pa) / 0x400000 == k % 24 then some (hardByte (offOf pa) % 0x400000)
  else none

end Sys2Proof.Machine
end

