-- ==== Sys2Proof/Machine/Regions.lean ====
section
/-! DEFINITION. Machine/Regions.lean: the region scheduler: RCBs (R28, R325), admission and pre-emption (R35), and the
movement of partitions to hardpan and back (R43, R44, R333). -/

namespace Sys2Proof.Machine

/-! ### Region control blocks -/

/-- The active dies. -/
def State.activeDies (s : State) : Nat := ((upTo 9).filter s.dieActive).length

/-- A field of an RCB, or the value that it inherits. -/
def inherit (bs : List Byte) (off n code dflt : Nat) : Nat :=
  let v := recFld bs off n
  if v == code then dflt else v

/-- The region that an RCB in address space `asid` describes (R28, R325): none where it is refused: a root that inherits its
ASID, a parent that no region bears, or a value outside its field's range (log 31). Nonzero reserved bytes have no effect
(DESIGN CHOICE, log 22). -/
def State.regionOf (s : State) (asid : Nat) (rcb : Word64) (queue : Nat) (hold : Bool) (bs : List Byte) : Option Region :=
  let pa := recFld bs 0 8
  let p := s.regions.find? fun r => r.rcb.toNat == pa && r.rcbAsid == asid && r.state != .released
  let all := 2 ^ 64 - 1
  let d := s.activeDies
  let r : Region :=
    { id := s.nextId
      asid := match p with
        | some p => inherit bs 0x08 2 0xFFFF p.asid
        | none => recFld bs 0x08 2
      rcb := rcb, rcbAsid := asid, parent := p.map (·.id)
      pri := match p with
        | some p => max p.pri (inherit bs 0x0A 1 0xFF p.pri)
        | none => inherit bs 0x0A 1 0xFF 4
      fault := inherit bs 0x0B 1 0xFF (match p with | some p => p.fault | none => 1)
      cores := inherit bs 0x10 4 0xFFFFFFFF (match p with | some p => p.cores | none => 24 * d)
      contexts := inherit bs 0x14 4 0xFFFFFFFF (match p with | some p => p.contexts | none => 96 * d)
      banks := inherit bs 0x18 4 0xFFFFFFFF (match p with | some p => p.banks | none => 32)
      vault := inherit bs 0x20 8 all (match p with | some p => p.vault | none => 0x12000000 * d)
      hbm := inherit bs 0x28 8 all (match p with | some p => p.hbm | none => 2 ^ 36 * d)
      tv := n64 (inherit bs 0x30 8 all (match p with | some p => p.tv.toNat | none => 0))
      state := .waiting, order := s.nextId, admitOrder := 0, place := [], queue := some queue, holdFlag := hold
      used := false, stopping := false, halting := false }
  let live := s.regions.any fun g => g.rcb == rcb && g.rcbAsid == asid && g.state != .released
  if live || (pa != 0 && p.isNone) || r.asid ≥ 4096 || r.pri > 7 || r.fault > 2 || r.banks > 32 then none else some r

/-- The number of a STATE in an RCB (R325). -/
def RegState.code (s : RegState) : Nat :=
  match s with
  | .waiting => 1
  | .admitted => 2
  | .swapped => 3
  | .held => 4
  | .released => 5

/-- Give a region a state, and write it into its RCB. -/
def enterState (r : Region) (st : RegState) : Op Unit := do
  modify fun s => s.setRegion { r with state := st }
  rcbState r st.code

/-! ### Budgets (R28, R35) -/

/-- A core's hardpan slot holds a partition of a region. -/
def State.hardOf (s : State) (r k : Nat) : Bool :=
  match fget? s.hard k with
  | some h => h.core.region == r
  | none => false

/-- The cores of a region that it has not been made to give up: it, or a descendant that it has lent the core to, is resident. -/
def State.keeps (s : State) (r : Region) : List Nat :=
  r.place.filter fun k => s.descends s.regions.length (s.core k).region r.id

/-- What a region's siblings hold of a budget field; what a pre-empted region has given up is not counted. -/
def State.taken (s : State) (r : Region) (l : List Region) (f : Region → Nat) (kept : Bool) : Nat :=
  ((l.filter fun g => g.id != r.id && g.admitted && (kept || !(s.keeps g).isEmpty)).map f).sum

/-- The regions with the same parent as a region. -/
def State.siblings (s : State) (r : Region) : List Region := s.regions.filter (·.parent == r.parent)

/-- A region's budget fits beside the admitted regions of a list with the same parent: within the parent's values, or within
the module's resources for a root, whose cores and banks are those of free cores. The memory that a region keeps while it is
pre-empted is counted for every sibling. -/
def State.budgetFits (s : State) (r : Region) (l : List Region) : Bool :=
  let all := s.siblings r
  let fits := fun (l : List Region) (f : Region → Nat) (kept : Bool) (limit : Nat) => s.taken r l f kept + f r ≤ limit
  match r.parent.bind s.region? with
  | some p =>
    p.admitted && ((l.filter fun g => g.id != r.id && g.admitted).map fun g => (s.keeps g).length).sum + r.cores ≤ p.cores &&
      fits l (·.contexts) false p.contexts && fits l (·.banks) false p.banks && fits all (·.vault) true p.vault &&
      fits all (·.hbm) true p.hbm
  | none =>
    let d := s.activeDies
    fits l (·.contexts) false (96 * d) && fits all (·.vault) true (0x12000000 * d) && fits all (·.hbm) true (2 ^ 36 * d)

/-- Nothing runs on a core. -/
def State.coreEmpty (s : State) (k : Nat) : Bool :=
  let c := s.core k
  (upTo 4).all (fun i => (s.ctx (4 * k + i)).state == .idle) && c.mq.isEmpty && c.mrun.isNone && c.tq.isEmpty && c.copies.isEmpty

/-- A core on which nothing runs, and which is not about to be given up. -/
def State.coreIdle (s : State) (k : Nat) : Bool := s.coreEmpty k && !(s.core k).halting

/-- A core can be given up: its hardpan slot is free, or holds the partition of a descendant of the resident region while nothing
runs on the core, so that nothing has to be saved (log 13). -/
def State.slotFree (s : State) (k : Nat) : Bool :=
  match fget? s.hard k with
  | none => true
  | some h => s.coreEmpty k && s.descends s.regions.length h.core.region (s.core k).region

/-- The region scheduler may assign a core (R353). -/
def State.allowed (s : State) (k : Nat) : Bool := s.dieActive (k / 24) && bitAt (s.regN (rCOREMASK (k / 24))) (k % 24)

/-- The cores that a waiting region can be given now: free ones for a root, idle ones of its parent for a child (log 13). -/
def State.candidates (s : State) (r : Region) : List Nat :=
  (upTo 216).filter fun k => s.allowed k &&
    match r.parent with
    | none => (s.core k).region == 0
    | some p => (s.core k).region == p && s.coreIdle k

/-- Region `g` and those that have lent it the core, up to the place where region `r` takes its cores from, all give way to `r`:
their priority values are numerically higher (R35). `n` bounds the walk. -/
def State.giveWay (s : State) (r : Region) : Nat → Region → Bool
  | 0, _ => false
  | n + 1, g => g.pri > r.pri && g.state != .held &&
    (g.parent == r.parent ||
      match g.parent.bind s.region? with
      | some p => s.giveWay r n p
      | none => false)

/-- A partition's core can be taken for a waiting region by pre-emption (R35). -/
def State.takable (s : State) (r : Region) (k : Nat) : Bool :=
  s.allowed k && s.slotFree k &&
    match s.region? (s.core k).region with
    | some g => s.giveWay r s.regions.length g
    | none => false

/-- A region can be admitted now. -/
def State.fits (s : State) (r : Region) : Bool := s.budgetFits r (s.siblings r) && r.cores ≤ (s.candidates r).length

/-- A region could be admitted by pre-emption (R35). -/
def State.couldFit (s : State) (r : Region) : Bool :=
  let c := s.candidates r
  s.budgetFits r ((s.siblings r).filter fun g => g.pri ≤ r.pri || g.state == .held) &&
    r.cores ≤ ((upTo 216).filter fun k => c.contains k || s.takable r k).length

/-- The partitions that pre-emption for a region takes first (R35): lowest priority first, then the most recently admitted
region, then the lowest die. -/
def State.victims (s : State) (r : Region) : List (Region × Nat) :=
  let l := s.regions.flatMap fun g => ((upTo 9).filter fun d =>
    (upTo 24).any fun c => (s.core (24 * d + c)).region == g.id && s.takable r (24 * d + c)).map fun d => (g, d)
  l.foldl (fun acc v =>
    let before := fun (u : Region × Nat) => u.1.pri > v.1.pri || (u.1.pri == v.1.pri && u.1.admitOrder ≥ v.1.admitOrder)
    acc.takeWhile before ++ v :: acc.dropWhile before) []

/-- The waiting region that is admitted next (R35): lowest priority value, then first posted. -/
def State.nextWaiting (s : State) : Option Region :=
  (s.regions.filter (·.state == .waiting)).foldl (fun best r =>
    match best with
    | none => some r
    | some b => if r.pri < b.pri || (r.pri == b.pri && r.order < b.order) then some r else some b) none

/-! ### Admission -/

/-- A core as it is first given to a region: its record cache is invalidated (R214), and a gated core has power again. -/
def Core.given (c : Core) (r : Nat) : Core :=
  { c with region := r, gated := false, halting := false, rcache := [], hbTimer := 0, hbMiss := 0 }

/-- The records of a queue entry (R322). -/
def QEntry.addrs (q : QEntry) : List Word64 := (upTo q.ntask).map fun i => q.task + n64 (64 * i)

/-- Post the records of an entry into a region (R323). -/
def postEntry (q : QEntry) (region : Nat) : Op Unit := do
  modify fun s => { s with queue := s.queue.map fun e =>
    if e.id == q.id then { e with posted := true, recs := q.addrs } else e }
  forEach q.addrs fun va => do
    let s ← get
    postRecord (s.ownerDie va) q.asid va region

/-- Admit a region on the cores given, and post the records of its LAUNCH (R35, R323). -/
def grantCores (r : Region) (cores : List Nat) : Op Unit := do
  let s ← get
  let r := { r with place := cores, admitOrder := s.nextId }
  set { cores.foldl (fun s k => s.modCore k fun c => c.given r.id) s with nextId := s.nextId + 1 }
  enterState r (if r.holdFlag then .held else .admitted)
  match s.queue.find? fun q => q.region == some r.id && q.op == 1 && !q.posted with
  | some q => postEntry q r.id
  | none => pure ()

/-! ### Pre-emption (R43) -/

/-- The cores of a region's partition on a die. -/
def State.partition (s : State) (r d : Nat) : List Nat :=
  ((upTo 24).map (24 * d + ·)).filter fun k => (s.core k).region == r

/-- The mark that a context takes at its halt point (R43, R125). -/
def haltMark (x : Nat) : Op Unit := do
  let s ← get
  match (s.ctx x).state with
  | .running | .ready | .blocked | .draining => do
    let r ← tryOp (markHere x)
    match r with
    | .ok _ => pure ()
    | .error f => modify fun s => s.park x f
  | _ => pure ()

/-- Halt the cores of a partition: each context that is not PARKED takes a mark, and no command starts. -/
def preemptPartition (r d : Nat) : Op Unit := do
  let s ← get
  forEach (s.partition r d) fun k => do
    modify fun s => s.modCore k fun c => { c with halting := true }
    forEach (upTo 4) fun i => haltMark (4 * k + i)

/-- The region scheduler pre-empts a partition now: a SUSPEND holds its region, or the next waiting region needs it (R35, R332). -/
def State.mayPreempt (s : State) (r : Region) (d : Nat) : Bool :=
  r.halting ||
    match s.nextWaiting with
    | some w => !s.fits w && s.couldFit w && ((s.victims w).head?.map fun v => (v.1.id, v.2)) == some (r.id, d)
    | none => false

/-- PARTITION_PREEMPT: a partition's cores halt at their bundle boundaries and its copies suspend (R43). -/
def execPartitionPreempt (r d : Nat) (s : State) : Host.Outcome State Fault Refusal :=
  match s.region? r with
  | some g => if s.mayPreempt g d then runOp (preemptPartition r d) s else .next s
  | none => .next s

/-- REGION_ADMIT: the next waiting region is admitted where its whole budget can be reserved; where only pre-emption can make
it fit, the first partition in the order of R35 is pre-empted. -/
def execRegionAdmit (r : Nat) (s : State) : Host.Outcome State Fault Refusal :=
  match s.nextWaiting with
  | some w =>
    if w.id != r then .next s
    else if s.fits w then
      let op : Op Unit := do
        let n ← nextFree
        let l := s.candidates w
        let i := Config.placement n % max 1 l.length
        grantCores w ((l.drop i ++ l.take i).take w.cores)
      runOp op s
    else if s.couldFit w then
      match s.victims w with
      | (g, d) :: _ => runOp (preemptPartition g.id d) s
      | [] => .next s
    else .next s
  | none => .next s

/-! ### Hardpan (R43, R333) -/

/-- Move bytes of memory, with the marks and the soft errors of their words: `to_` gives the new address of each byte moved, and what stood at the
addresses of `lost` is lost. -/
def State.moveBytes (s : State) (to_ : Nat → Option Nat) (lost : Nat → Bool) : State :=
  let keep := s.mem.filter fun (a, _) => (to_ a).isNone && !lost a
  let moved := s.mem.filterMap fun (a, b) => (to_ a).map fun a' => (a', b)
  let marks := fun (l : FMap Bool) =>
    (l.filterMap fun (w, b) => (to_ (8 * w)).map fun a' => (a' / 8, b)).foldl (fun m (w, b) => fset false m w b)
      (l.filter fun (w, _) => (to_ (8 * w)).isNone && !lost (8 * w))
  { s with mem := moved.foldl (fun m (a, b) => fset unwritten m a b) keep, poison := marks s.poison, soft := marks s.soft }

/-- The byte of a core's scratchpad at a physical address. -/
def scratchOf (k pa : Nat) : Option Nat :=
  if scratchBase k ≤ pa && pa < scratchBase k + 0x300000 then some (pa - scratchBase k) else none

/-- The byte of a core's scratchpad copy in hardpan at a physical address. -/
def hardOffset (k pa : Nat) : Option Nat := (slotOffset k pa).filter (· < 0x300000)

/-- Where a core goes that a region gives up: to the waiting region's own source of cores where it is taken for that (R35), and
otherwise where the region had it from. -/
def State.goesTo (s : State) (r : Region) (k : Nat) : Nat :=
  match s.nextWaiting.filter fun w => !r.halting && !s.fits w && s.couldFit w && s.takable w k with
  | some w => w.parent.getD 0
  | none => s.freedTo r k

/-- A core's state goes to its hardpan slot, its ports to the spill area, and the core goes to region `to_` without it. A slot that
a descendant's partition holds stays as it is: nothing runs on the core then. -/
def State.coreOut (s : State) (to_ k : Nat) : State :=
  let s := if s.arrayErr.isEmpty then s else (upTo 34).foldl (fun s a => s.arrayRead k a) s
  let c := s.core k
  let slot : HardSlot := { core := c, ctxs := (upTo 4).map fun i => (i, s.ctx (4 * k + i)) }
  let s := if fhas s.hard k then s
    else
      let s := s.moveBytes (fun a => (scratchOf k a).map (hardPhys k)) fun a => (slotOffset k a).isSome
      ({ s with hard := fput s.hard k slot }.putParts k slot.parts).spillPorts k slot
  let s := s.setCore k { Core.init with region := to_, istore := c.istore, hbp := c.hbp, cycBase := c.cycBase }
  (upTo 4).foldl (fun s i => s.setCtx (4 * k + i) { Ctx.init with tokNext := (s.ctx (4 * k + i)).tokNext }) s

/-- A core's state comes back from its hardpan slot; its record cache is invalidated (R214). -/
def State.coreIn (s : State) (k : Nat) : State :=
  match fget? s.hard k with
  | none => s
  | some h =>
    let c := s.core k
    let s := s.moveBytes (fun a => (hardOffset k a).map (scratchBase k + ·)) fun a => (scratchOf k a).isSome
    let s := { s with hard := fdel s.hard k }
    let s := s.setCore k { h.core with halting := false, istore := c.istore, rcache := [], gated := false }
    let s := h.ctxs.foldl (fun s (i, v) => s.setCtx (4 * k + i) { v with stopped := false }) s
    s.handIssue k

/-- A context's queued fibre operations and the deliveries of FLDV and FCRD have come in (R273). -/
def State.fibreRests (s : State) (x : Nat) : Bool :=
  !(s.core (coreOf x)).fq.any (·.x == x) && !(s.ctx x).arrivals.any (·.src == 2)

/-- A partition has halted and can go to hardpan: every core of it is halting, no operation is in its matrix engine, its fibre
deliveries have arrived, and its slots are free. -/
def State.swappable (s : State) (r d : Nat) : Bool :=
  let l := s.partition r d
  !l.isEmpty && l.all fun k => (s.core k).halting && (s.core k).mrun.isNone && s.slotFree k &&
    (upTo 4).all fun i => s.fibreRests (4 * k + i)

/-- A region command ends where no region has still to be held (R332): BUSY clears, and an IRQ follows where REGARG asks for it. -/
def State.endCommand (s : State) (result : Nat) : State :=
  let s := (s.setRegF rREGCMD 8 8 0).setRegF rREGCMD 15 12 result
  if bitAt (s.regN rREGARG) 22 then s.irq (s.regF rREGARG 21 16) else s

/-- End a SUSPEND or STOPMARK that has nothing more to wait for. -/
def State.settleCommand (s : State) : State :=
  if bitAt (s.regN rREGCMD) 8 && !s.regions.any (fun r => r.halting || r.stopping) then s.endCommand 0 else s

/-- What follows when a region has given up cores: HELD where SUSPEND holds it and none is left, and SWAPPED otherwise, with every
region that had lent it one of them (R332; log 13). -/
def afterOut (r : Nat) : Op Unit := do
  let s ← get
  match (s.region? r).filter fun g => g.halting && (s.keeps g).isEmpty with
  | some g => do
    enterState { g with halting := false } .held
    modify State.settleCommand
  | none => pure ()
  let s ← get
  forEach (s.regions.filter fun g => g.state == .admitted && (s.keeps g).length != g.place.length) fun g => enterState g .swapped

/-- Move a partition to hardpan. -/
def swapOut (r d : Nat) : Op Unit := do
  let s ← get
  match s.region? r with
  | none => pure ()
  | some g => do
    set ((s.partition r d).foldl (fun t k => t.coreOut (s.goesTo g k) k) s)
    afterOut r

/-! ### The end of a STOPMARK (R332) -/

/-- A PARKED context whose last mark is an explicit one at which STOPMARK would have stopped it counts as stopped. -/
def State.parkedStopped (s : State) (x : Nat) : Bool :=
  let c := s.ctx x
  let m := c.mark
  c.state == .parked && m.j == 0 && m.slot == 0 && !m.ended && s.stopClear x m.live &&
    match fetchBundle x m.pc m.jumped (s.select x) with
    | .ok b _ => b.k
    | .error _ _ => false

/-- A context has stopped, or has nothing to stop. -/
def State.atRest (s : State) (x : Nat) : Bool :=
  let c := s.ctx x
  c.state == .idle || c.stopped || s.parkedStopped x

/-- When every context of a stopping region has stopped or is IDLE, its partitions go to hardpan and it becomes HELD. -/
def finishStop (r : Nat) : Op Unit := do
  let s ← get
  match s.region? r with
  | none => pure ()
  | some g =>
    let cores := g.place.filter fun k => (s.core k).region == r
    let ok := g.stopping && !(s.hard.any fun (_, h) => h.core.region == r) &&
      cores.all fun k => s.slotFree k && (upTo 4).all fun i => s.atRest (4 * k + i)
    if !ok then pure ()
    else do
      modify fun s => cores.foldl (fun s k => (upTo 4).foldl (fun s i =>
        s.modCtx (4 * k + i) fun c => { c with stopped := c.state != .idle }) s) s
      forEach (upTo 9) fun d => do
        let s ← get
        if (s.partition r d).isEmpty then pure () else swapOut r d
      let s ← get
      match s.region? r with
      | some g =>
        if g.stopping then do
          enterState { g with stopping := false } .held
          modify State.settleCommand
        else pure ()
      | none => pure ()

/-! ### Swapping out and in -/

/-- PARTITION_SWAP_OUT: after its last core has halted, or its last context has stopped for STOPMARK, the state of a partition
goes to hardpan (R43, R332). -/
def execPartitionSwapOut (r d : Nat) (s : State) : Host.Outcome State Fault Refusal :=
  if s.swappable r d then runOp (swapOut r d) s else runOp (finishStop r) s

/-- The cores of a die that a region has been made to give up. -/
def State.lostCores (s : State) (r : Region) (d : Nat) : List Nat :=
  (r.place.filter fun k => k / 24 == d && !(s.keeps r).contains k)

/-- A pre-empted partition can resume on its own cores (R43): they are free, or idle with a region that had lent them, and its
budget fits. -/
def State.resumable (s : State) (r : Region) (d : Nat) : Bool :=
  let l := s.lostCores r d
  r.state == .swapped && !l.isEmpty && s.dieActive d && s.budgetFits { r with cores := 0 } (s.siblings r) &&
    l.all fun k => ((s.core k).region == 0 || s.descends s.regions.length r.id (s.core k).region) && s.coreIdle k

/-- A core comes back to its region: with its state where its slot holds that, else as the region had left it. -/
def State.takeBack (s : State) (r : Region) (k : Nat) : State :=
  if s.hardOf r.id k then s.coreIn k else s.modCore k fun c => c.given r.id

/-- Bring a partition back. -/
def swapIn (r : Region) (d : Nat) : Op Unit := do
  let s ← get
  set ((s.lostCores r d).foldl (fun s k => s.takeBack r k) s)
  let s ← get
  if (s.keeps r).length == r.place.length then enterState r .admitted else pure ()

/-- PARTITION_SWAP_IN: a swapped partition's state is restored from hardpan and it resumes (R43). -/
def execPartitionSwapIn (r d : Nat) (s : State) : Host.Outcome State Fault Refusal :=
  match s.region? r with
  | some g => if s.resumable g d then runOp (swapIn g d) s else .next s
  | none => .next s

end Sys2Proof.Machine
end

