-- ==== Sys2Proof/Machine/Queues.lean ====
section
/-! DEFINITION. Machine/Queues.lean: host queues (R321 to R326): doorbells, the entries that a queue reads, completion records, and
teardown. -/

namespace Sys2Proof.Machine

/-! ### A queue's registers (R320, R321) -/

/-- The entry count of a queue. -/
def State.qCount (s : State) (q : Nat) : Nat := 2 ^ s.regF (rQCTL q) 7 2

/-- QCTL.SIZE is one that R321 allows. -/
def State.qSizeOk (s : State) (q : Nat) : Bool := 4 ≤ s.regF (rQCTL q) 7 2 && s.regF (rQCTL q) 7 2 ≤ 16

/-- EN is set and no teardown or reset is under way (R323). -/
def State.qOpen (s : State) (q : Nat) : Bool :=
  q < 64 && s.bootState == 4 && bitAt (s.regN (rQCTL q)) 0 && !bitAt (s.regN (rQSTAT q)) 0

/-- The queue reads entries now (R321, R323). -/
def State.qReads (s : State) (q : Nat) : Bool :=
  s.qOpen q && s.qSizeOk q && !bitAt (s.regN (rQSTAT q)) 2 &&
    s.regN (rQHEAD q) % s.qCount q != s.regN (rQTAIL q) % s.qCount q

/-- CFULL says whether the completion ring has no room (R320, R323). -/
def State.setCfull (s : State) (q : Nat) : State :=
  s.setRegF (rQSTAT q) 2 2 (b2n (!ringRoom (s.regF (rQCTL q) 7 2) (s.regN (rCTAIL q)) (s.regN (rCHEAD q))))

/-- A doorbell: where the queue is open, entries up to QTAIL become eligible; in any other state the write is ignored (R323). -/
def State.ringDoorbell (s : State) (q : Nat) (tail : Word64) : State := if s.qOpen q then s.setReg (rQTAIL q) tail else s

/-- QTAIL_WRITE: the doorbell of a queue, as a register write (R323). -/
def execQtailWrite (q : Nat) (val : BitVec 64) (s : State) : Host.Outcome State Fault Refusal := .next (s.ringDoorbell q val)

/-- DBELL: the doorbell of a queue, as a message that carries the new tail (R319, R323; log 22). -/
def execDbell (q : Nat) (tail : BitVec 64) (s : State) : Host.Outcome State Fault Refusal :=
  if q < 64 then .next (s.ringDoorbell q tail) else .next s

/-- CHEAD_WRITE: the host frees completion-ring room, and a queue held with CFULL reads entries again (R323). -/
def execCheadWrite (q : Nat) (val : BitVec 64) (s : State) : Host.Outcome State Fault Refusal :=
  if q < 64 && s.bootState == 4 then .next ((s.setReg (rCHEAD q) val).setCfull q) else .next s

/-! ### Reading entries (R322, R323) -/

/-- The entry at an index of a queue. Nonzero reserved bytes have no effect (DESIGN CHOICE, log 22). -/
def entryAt (q i : Nat) : Op QEntry := do
  let s ← get
  let bs ← devRead (s.regN (rQBASE q) + 64 * i) 64
  pure { id := s.nextId, q := q, index := i, op := recFld bs 0 1, flags := recFld bs 1 1, user := n64 (recFld bs 0x18 8),
         asid := recFld bs 2 2, rcb := n64 (recFld bs 8 8), task := n64 (recFld bs 0x10 8), ntask := recFld bs 4 4 % 65536,
         posted := false, region := none, nfault := 0, status := 0, done := false, held := false, recs := [] }

/-- Put an entry on the list of those that have been read. -/
def addEntry (e : QEntry) : Op Unit := modify fun s => { s with queue := s.queue ++ [e], nextId := s.nextId + 1 }

/-- Change an entry. -/
def State.modEntry (s : State) (id : Nat) (f : QEntry → QEntry) : State :=
  { s with queue := s.queue.map fun e => if e.id == id then f e else e }

/-- Read the next entry of a queue where its OP is among those of an event, and do with it what the event says. -/
def readEntry (q : Nat) (ops : Nat → Bool) (act : QEntry → Op Unit) (s : State) : Host.Outcome State Fault Refusal :=
  if !s.qReads q then .next s
  else
    let op : Op Unit := do
      let s ← get
      let i := s.regN (rQHEAD q) % s.qCount q
      let e ← entryAt q i
      if ops e.op then do
        modify fun s => s.setReg (rQHEAD q) (n64 ((i + 1) % s.qCount q))
        addEntry e
        act e
      else pure ()
    runOp op s

/-- An entry completes FAULTED with no record of its own. -/
def faultEntry (e : QEntry) : Op Unit := modify fun s => s.modEntry e.id fun e => { e with done := true, status := stFAULTED }

/-- Post an entry's RCB to the region scheduler (R35, R323). A refused read of the RCB is recorded and made again at RESUME
(log 13). -/
def launchEntry (e : QEntry) : Op Unit := do
  let s ← get
  let r ← tryOp (readVirt (schedReq e.asid s.lead) e.rcb 64)
  match r with
  | .error ref => do
    faultPost (refusalRec ref true)
    modify fun s => s.modEntry e.id fun e => { e with held := true }
  | .ok (bs, _) =>
    let s ← get
    match s.regionOf e.asid e.rcb e.q (bitAt e.flags 1) bs with
    | none => faultEntry e
    | some g => do
      modify fun s => { (s.modEntry e.id fun e => { e with region := some g.id, held := false }) with
                        regions := s.regions ++ [g], nextId := s.nextId + 1 }
      rcbState g 1

/-- LAUNCH: a queue entry posts a region's RCB, and its task records once the region has been admitted (R323). -/
def execLaunch (q : Nat) (s : State) : Host.Outcome State Fault Refusal :=
  readEntry q (· == 1) (fun e => if e.asid ≥ 4096 then faultEntry e else launchEntry e) s

/-- Post an entry's records into the admitted region that it names (R323). -/
def postInto (e : QEntry) : Op Unit := do
  let s ← get
  match s.regions.find? fun r => r.rcb == e.rcb && r.rcbAsid == e.asid && r.admitted with
  | some r => do
    modify fun s => s.modEntry e.id fun e => { e with region := some r.id }
    postEntry e r.id
  | none => faultEntry e

/-- POST: a queue entry posts its records into an admitted region (R323). -/
def execPost (q : Nat) (s : State) : Host.Outcome State Fault Refusal := readEntry q (· == 2) postInto s

/-- MARKER: a queue entry that completes once every earlier entry of its queue has (R323). -/
def execMarker (q : Nat) (s : State) : Host.Outcome State Fault Refusal := readEntry q (· == 3) (fun _ => pure ()) s

/-- QUEUE_ENTRY_BAD_OP: an entry with an unknown OP completes FAULTED (R322). -/
def execQueueEntryBadOp (q : Nat) (s : State) : Host.Outcome State Fault Refusal :=
  readEntry q (fun o => o == 0 || o ≥ 4) faultEntry s

/-! ### Completion (R324) -/

/-- A region has nothing left to do: every record posted into it is DONE, no context of it is other than IDLE, and its descendants
are released (log 13). -/
def State.regionFinished (s : State) (r : Region) : Bool :=
  r.state == .admitted && r.used && !s.tasks.any (fun t => (t.region == r.id || t.home == r.id) && t.state != .done) &&
    s.ctxCount r.id == 0 && !s.hard.any (fun (_, h) => h.core.region == r.id) &&
    s.regions.all fun g => g.id == r.id || !s.descends s.regions.length g.id r.id || g.state == .released

/-- A region and its descendants have been released. -/
def State.allReleased (s : State) (r : Nat) : Bool :=
  s.regions.all fun g => !s.descends s.regions.length g.id r || g.state == .released

/-- An entry is complete (R323, R324). -/
def State.entryDone (s : State) (e : QEntry) : Bool :=
  e.done || match e.op with
    | 1 =>
      match e.region.bind s.region? with
      | some r => s.allReleased r.id || (e.posted && e.recs.isEmpty && s.regionFinished r)
      | none => false
    | 2 => e.posted && e.recs.isEmpty
    | 3 => !s.queue.any fun f => f.q == e.q && f.id < e.id
    | _ => true

/-- The status of a completed entry: a LAUNCH torn down before its records were posted is CANCELLED. -/
def QEntry.finalStatus (e : QEntry) : Nat := if e.op == 1 && !e.posted && e.status == 0 then stCANCELLED else e.status

/-- The 32 bytes of a completion record (R324). -/
def QEntry.record (e : QEntry) : List Byte :=
  toBytes 8 e.user.toNat ++ toBytes 4 e.index ++ toBytes 1 e.op ++ toBytes 1 0 ++ toBytes 2 e.finalStatus ++
    toBytes 4 e.nfault ++ List.replicate 12 0

/-- The interrupt of a completion record (R321, R322): every record, every ICOAL records, or an entry with CI. -/
def State.completionIrq (s : State) (e : QEntry) : State :=
  let c := s.regN (rQCTL e.q)
  let n := fget 0 s.coal e.q + 1
  if bitAt e.flags 0 || fld c 15 8 ≤ n then
    let s := { s with coal := fset 0 s.coal e.q 0 }
    if bitAt c 1 then s.irq (fld c 21 16) else s
  else { s with coal := fset 0 s.coal e.q n }

/-- An entry that a teardown of its queue affects: any but a posted POST into a region that lives on. -/
def State.affected (s : State) (e : QEntry) : Bool :=
  !(e.op == 2 && e.posted && (e.region.bind s.region?).any (·.state != .released))

/-- A teardown or reset of a queue ends when the entries that it affects have their completion records (R326). -/
def State.settleQueue (s : State) (q : Nat) : State :=
  if bitAt (s.regN (rQSTAT q)) 0 && !s.queue.any (fun e => e.q == q && s.affected e) then
    ((s.setRegF (rQSTAT q) 0 0 0).setRegF (rQCTL q) 0 0 0).setReg (rQHEAD q) (s.reg (rQTAIL q))
  else s

/-- Write an entry's completion record. -/
def completeEntry (e : QEntry) : Op Unit := do
  let s ← get
  let n := s.qCount e.q
  let t := s.regN (rCTAIL e.q) % n
  devWrite (s.regN (rCBASE e.q) + 32 * t) e.record
  modify fun s =>
    let s := (s.setReg (rCTAIL e.q) (n64 ((t + 1) % n))).setCfull e.q
    ({ s with queue := s.queue.filter (·.id != e.id) }.completionIrq e).settleQueue e.q

/-- QUEUE_COMPLETION: an entry that is complete gets its completion record, where the ring has room, and an IRQ may follow
(R324). A launched region with nothing left to do is released first. -/
def execQueueCompletion (n : Nat) (s : State) : Host.Outcome State Fault Refusal :=
  match s.queue.find? (·.id == n) with
  | none => .next s
  | some e =>
    if !s.entryDone e || !ringRoom (s.regF (rQCTL e.q) 7 2) (s.regN (rCTAIL e.q)) (s.regN (rCHEAD e.q)) then .next s
    else
      let op : Op Unit := do
        match (if e.op == 1 then e.region.bind s.region? else none) with
        | some r => if s.allReleased r.id then pure () else releaseRegion r false
        | none => pure ()
        completeEntry e
      runOp op s

/-! ### Teardown and reset (R326) -/

/-- The entries that a queue has not read. -/
def State.unread (s : State) (q : Nat) : List Nat :=
  let n := s.qCount q
  let h := s.regN (rQHEAD q) % n
  if s.qSizeOk q then (upTo ((s.regN (rQTAIL q) % n + n - h) % n)).map fun i => (h + i) % n else []

/-- Tear a queue down: unread entries are CANCELLED, and every region launched from it goes with its descendants. -/
def queueDown (q : Nat) (reset : Bool) : Op Unit := do
  let s ← get
  set (s.setRegF (rQSTAT q) 0 0 1)
  forEach (s.unread q) fun i => do
    let e ← entryAt q i
    addEntry { e with done := true, status := stCANCELLED }
  modify fun s => s.setReg (rQHEAD q) (s.reg (rQTAIL q))
  modify fun s => { s with queue := s.queue.map fun e =>
    if e.q == q && e.held then { e with held := false, done := true, status := stCANCELLED } else e }
  let s ← get
  let roots := s.regions.filter fun r => r.queue == some q && r.state != .released
  let all := s.regions.filter fun g => g.state != .released && roots.any fun r => s.descends s.regions.length g.id r.id
  forEach all.reverse (teardown reset)
  modify fun s => s.settleQueue q

/-- A command of QCTL: ignored while BUSY is set. -/
def queueCommand (q : Nat) (reset : Bool) (s : State) : Host.Outcome State Fault Refusal :=
  if q < 64 && s.bootState == 4 && !bitAt (s.regN (rQSTAT q)) 0 then runOp (queueDown q reset) s else .next s

/-- QCTL_TEARDOWN: a queue and the regions launched from it are torn down (R326). -/
def execQctlTeardown (q : Nat) (s : State) : Host.Outcome State Fault Refusal := queueCommand q false s

/-- QCTL_RESET: the same, with the copies of the regions discarded (R57, R326). -/
def execQctlReset (q : Nat) (s : State) : Host.Outcome State Fault Refusal := queueCommand q true s

end Sys2Proof.Machine
end

