-- ==== Sys2Proof/Machine/RegionCommands.lean ====
section
/-! DEFINITION. Machine/RegionCommands.lean: the commands of REGCMD (R332): SUSPEND, UNSUSPEND, STOPMARK, and the portable images of
SAVE and RESTORE (R333 to R335; log 21). -/

namespace Sys2Proof.Machine

/-! ### A command -/

/-- The region that REGRCB and REGARG name (R332). -/
def State.commandRegion (s : State) : Option Region :=
  s.regions.find? fun r => r.rcb == s.reg rREGRCB && r.rcbAsid == s.regF rREGARG 11 0 && r.state != .released

/-- A region and its descendants that meet a test. -/
def State.under (s : State) (r : Region) (p : Region → Bool) : List Region :=
  s.regions.filter fun g => s.descends s.regions.length g.id r.id && p g

/-- Begin a region command: ignored while BUSY is set, refused where no region is named or it is not in the required state. -/
def regionCommand (required : Region → Bool) (op : Region → Op Unit) (s : State) : Host.Outcome State Fault Refusal :=
  if bitAt (s.regN rREGCMD) 8 || s.bootState != 4 then .next s
  else
    match s.commandRegion with
    | none => .next (s.endCommand 1)
    | some r => if required r then runOp (op r) (s.setRegF rREGCMD 8 8 1) else .next (s.endCommand 2)

/-- A region is admitted or has been pre-empted. -/
def Region.live (r : Region) : Bool := r.state == .admitted || r.state == .swapped

/-- Hold a region: its partitions are pre-empted; one that has no core left becomes HELD at once. -/
def suspendRegion (r : Region) : Op Unit := do
  modify fun s => s.setRegion { r with halting := true }
  forEach (upTo 9) (preemptPartition r.id)
  let s ← get
  if (upTo 9).all fun d => (s.partition r.id d).isEmpty then enterState { r with halting := false } .held else pure ()

/-- SUSPEND: every partition of the region and its descendants is pre-empted, and they become HELD (R332). -/
def execSuspend (s : State) : Host.Outcome State Fault Refusal :=
  regionCommand (fun r => r.live || r.state == .held) (fun r => do
    let s ← get
    forEach (s.under r Region.live) suspendRegion
    modify State.settleCommand) s

/-- A HELD region goes back to the scheduler: with state in hardpan it waits for its swap-in. -/
def unsuspendRegion (r : Region) : Op Unit := do
  let s ← get
  enterState { r with holdFlag := false } (if (s.keeps r).length == r.place.length then .admitted else .swapped)

/-- UNSUSPEND: the HELD region and its HELD descendants go back to the scheduler (R332). -/
def execUnsuspend (s : State) : Host.Outcome State Fault Refusal :=
  regionCommand (·.state == .held) (fun r => do
    let s ← get
    forEach (s.under r (·.state == .held)) unsuspendRegion
    modify State.settleCommand) s

/-! ### STOPMARK (R332) -/

/-- STOPMARK: each context of the region and its descendants stops at its next eligible explicit mark (R332). -/
def execStopmark (s : State) : Host.Outcome State Fault Refusal :=
  regionCommand Region.live (fun r => do
    let s ← get
    let l := s.under r Region.live
    forEach l fun g => modify fun s => s.setRegion { g with stopping := true }
    forEach l fun g => finishStop g.id) s

/-- Stop a context at the mark it stands at. -/
def stopContext (x : Nat) : Op Unit := do
  markHere x
  modify fun s => (s.modCtx x fun c => { c with stopped := true }).leave x .ready .none
  finishStop (← get).cctx.region

/-- STOPMARK_CONTEXT_STOP: a context stops at an eligible mark; with the last one the partition goes to hardpan (R332). -/
def execStopmarkContextStop (x : Nat) (s : State) : Host.Outcome State Fault Refusal :=
  if !(s.issues x && s.stopping x) then .next s
  else
    match prepare x s with
    | .settled o => o
    | .issue s b => if s.stopsAt b then settle s (stopContext x s) else .next s

/-! ### The portable image (R333, R334; log 21) -/

/-- A bank from its cells and its state. -/
def Bank.ofImage (cells st : List Byte) : Bank :=
  { owned := bitAt (recFld st 0 1) 0, owner := recFld st 0 1 / 2 % 4, grants := BitVec.ofNat 4 (recFld st 1 1), fmt := recFld st 2 2
    cells := fofList 0 0 ((chunksOf 4 2048 cells).map fun w => BitVec.ofNat 32 (Sys2Proof.Machine.ofBytes w))
    poison := BitVec.ofNat 32 (recFld st 4 4), wv := bitAt (recFld st 8 1) 0
    wit := fofList 0 0 ((upTo 32).map fun i => BitVec.ofNat 32 (recFld st (128 + 4 * i) 4)) }

/-- A counter set from its slot. -/
def CSet.ofSlot (bs : List Byte) : CSet :=
  let o := imageBytes
  { owned := bitAt (recFld bs o 1) 0, owner := recFld bs o 1 / 2 % 4, poison := BitVec.ofNat 32 (recFld bs (o + 1) 4)
    fmt := recFld bs (o + 5) 1, depth := recFld bs (o + 6) 4, pdepth := recFld bs 0 4, pfmt := recFld bs 4 1
    cells := fofList CCell.zero 0 (imageCells (bs.take imageBytes)) }

/-- The bytes of a core image: the slot without its context area. -/
def coreImageSize : Nat := 0x3D0000

/-- Where byte `o` of a core image stands in the slot, whose context area the image leaves out. -/
def imageOffset (o : Nat) : Nat := if o < 0x3C8000 then o else o + 0x30000

/-- The core image of a held core (R334), as its slot holds it. -/
def State.coreImage (s : State) (k : Nat) : List Byte := (upTo coreImageSize).map fun o => s.byte (hardPhys k (imageOffset o))

/-- The size of a register record. -/
def recordSize : Nat := 40960

/-- The live part of a context from a record. -/
def Live.ofRecord (bs : List Byte) : Live :=
  let at_ := fun (o n : Nat) => recFld bs o n
  let v0 := 64 + 57 * 8
  let p0 := v0 + 288 * 128
  let q0 := p0 + 14 * 16 + 48
  let f0 := q0 + 64
  let h0 := f0 + 1024
  let e0 := h0 + 512
  { Live.init with
    s := fset 0 (fofList 0 0 ((upTo 56).map fun i => n64 (at_ (64 + 8 * i) 8))) 63 (n64 (at_ (64 + 8 * 56) 8))
    v := fofList 0 0 ((upTo 288).map fun i => BitVec.ofNat 1024 (at_ (v0 + 128 * i) 128))
    p := fofList 0 0 ((upTo 14).map fun i => BitVec.ofNat 128 (at_ (p0 + 16 * i) 16))
    q := fofList (BitVec.allOnes 64) 0 ((upTo 8).map fun i => n64 (at_ (q0 + 8 * i) 8))
    f := fofList Stream.closed 0 ((upTo 16).map fun i => Stream.ofImage (at_ (f0 + 64 * i) 64))
    h := fofList 0 0 ((upTo 8).map fun i => BitVec.ofNat 512 (at_ (h0 + 64 * i) 64))
    sw := n64 (at_ e0 8 % 2 ^ 24), rseed := n64 (at_ (e0 + 8) 8), ctr := n64 (at_ (e0 + 16) 8) }

/-- Where the record's tkrec stands; the tree-engine binding follows it. -/
def recordTail : Nat := 64 + 57 * 8 + 288 * 128 + 14 * 16 + 48 + 64 + 1024 + 512 + 24

/-- The values still on their way to a context that has stopped. -/
def Ctx.allArrived (c : Ctx) : Ctx := { c with live := c.arrivals.foldl Live.arrive c.live, arrivals := [] }

/-- The register record of context i of the core with index n in its region (R334): none where its code or its trap vector lies in
no translated function. -/
def Ctx.record (asid n i : Nat) (c : Ctx) : Option (List Byte) :=
  let head := fun (code tv : Word64 × Word64) (idle : Bool) =>
    toBytes 8 code.1.toNat ++ toBytes 8 code.2.toNat ++ toBytes 8 tv.1.toNat ++ toBytes 8 tv.2.toNat ++
      toBytes 4 (i + 4 * (n % 32) + 128 * b2n idle) ++ List.replicate 28 0
  let pad := fun (l : List Byte) => l ++ List.replicate (recordSize - l.length) 0
  if c.state == .idle then some (pad (head (0, 0) (0, 0) true))
  else
    match Config.portable asid c.pc, (if c.ctl.tv == 0 then some (0, 0) else Config.portable asid c.ctl.tv) with
    | some code, some tv => some (pad (head code tv false ++ (c.allArrived.parts 0).bytes 39264))
    | _, _ => none

/-- The cores of a region in rising order. -/
def Region.coreList (r : Region) : List Nat := (upTo 216).filter r.place.contains

/-- Every record of a region, in core order: none where one cannot be formed. -/
def State.records (s : State) (r : Region) : Option (List (List Byte)) :=
  (((upTo r.coreList.length).zip r.coreList).flatMap fun (n, k) =>
    match fget? s.hard k with
    | some h => (upTo 4).map fun i => (fget Ctx.init h.ctxs i).record ((s.regionAsid h.core.region).getD r.asid) n i
    | none => (upTo 4).map fun i => Ctx.init.record r.asid n i).mapM id

/-- The bytes of an image with n cores. -/
def imageSize (n : Nat) : Nat := 64 + n * coreImageSize + 4 * n * recordSize

/-- The header of an image (R334). -/
def saveHeader (n : Nat) (rcb : Word64) : List Byte :=
  toBytes 4 (imageSize n) ++ toBytes 4 n ++ toBytes 4 (4 * n) ++ toBytes 4 0 ++ toBytes 8 rcb.toNat ++ List.replicate 40 0

/-- A region and its descendants are HELD, and every context on the region's cores that is not IDLE was stopped by STOPMARK; a
core may be held by a descendant that it is lent to. -/
def State.savable (s : State) (r : Region) : Bool :=
  (s.under r fun g => g.admitted && g.state != .held).isEmpty && r.state == .held && r.place.all fun k =>
    match fget? s.hard k with
    | some h => s.descends s.regions.length h.core.region r.id && h.ctxs.all fun (_, c) => c.state == .idle || c.stopped
    | none => false

/-- SAVE: a portable image of a stopped region is written to REGBUF (R334). A region with a context whose code is not in a
translated function, or a buffer that names no memory for the whole image, leaves RESULT 3. -/
def execSave (s : State) : Host.Outcome State Fault Refusal :=
  regionCommand s.savable (fun r => do
    let s ← get
    let l := r.coreList
    let pa := s.regN rREGBUF
    match s.records r with
    | none => modify (·.endCommand 3)
    | some recs =>
      if !(populated pa && populated (pa + imageSize l.length - 1)) then modify (·.endCommand 3)
      else do
        set (s.write pa (saveHeader l.length r.rcb ++ l.flatMap s.coreImage ++ recs.flatten))
        modify State.settleCommand) s

/-- A core from its image. -/
def Core.ofImage (region : Nat) (bs : List Byte) : Core :=
  let t := bs.drop (coreImageSize - 0x8000)
  let ring := fun (g : Nat) => t.drop (64 * g)
  let held := (upTo 8).filter fun g => bitAt (recFld (ring g) 0 8) 0
  { Core.init with
    region := region
    banks := fofList Bank.free 0 ((upTo 32).map fun b =>
      Bank.ofImage ((bs.drop (0x300000 + 8192 * b)).take 8192) ((bs.drop (0x340000 + 256 * b)).take 256))
    csets := fofList CSet.free 0 ((upTo 2).map fun n => CSet.ofSlot ((bs.drop (0x342000 + 0x42000 * n)).take 0x42000))
    rings := held.map fun g =>
      let r := ring g
      (g + 1, { g := g, owner := recFld r 0 8 / 2 % 4, base := recFld r 8 8, size := recFld r 16 8, head := recFld r 24 8,
                tail := recFld r 32 8, fill := recFld r 40 8 })
    ringOf := held.map fun g => (g, g + 1), ringNext := 9
    hbp := n64 (recFld t 512 8), hbTimer := recFld t 520 8, hbMiss := recFld t 528 8 }

/-- A context from its record: SWAPPED at the bundle that carries the mark, issue 0 (R335). None where a code reference names no
translated function or no mark move. -/
def Ctx.ofRecord (region : Nat) (bs : List Byte) : Option Ctx :=
  let code := fun (o : Nat) => Config.native (n64 (recFld bs o 8)) (n64 (recFld bs (o + 8) 8))
  if bitAt (recFld bs 0x20 4) 7 then some Ctx.init
  else
    match code 0, (if recFld bs 0x10 8 == 0 then some 0 else code 0x10) with
    | some pc, some tv =>
      let l := Live.ofRecord bs
      let w := fun (i : Nat) => recFld bs (recordTail + 8 * i) 8
      let ctl := { Control.init with tv := tv, tkrec := n64 (w 0) }
      some { Ctx.init with
        state := .ready, pc := pc, live := l, stopped := true, region := region
        mark := { pc := pc, j := 0, slot := 0, ended := false, jumped := false, tok := 1, live := l, ctl := ctl }
        jumped := false
        tree := { Tree.init with mode := w 1, vb := n64 (w 2), rb := n64 (w 3), evb := n64 (w 4), evn := n64 (w 5) }
        ctl := ctl }
    | _, _ => none

/-- The record a restored context runs is RUNNING in the scheduler of this module (log 21). -/
def adoptTask (r : Region) (x : Nat) (c : Ctx) : Op Unit := do
  let s ← get
  let va := c.ctl.tkrec
  if va == 0 || (s.taskAt r.asid va).isSome then pure ()
  else do
    let d := s.ownerDie va
    let b ← tryOp (recRead d r.asid va)
    let bs := match b with
      | .ok bs => bs
      | .error _ => []
    modify fun s => { s with
      tasks := s.tasks ++ [{ id := s.nextId, asid := r.asid, va := va, die := d, region := r.id, home := r.id,
                             data := b.isOk && recFld bs 0 8 == 0, seif := 1, pri := r.pri, height := recFld bs 0x1C 2,
                             state := .running x, status := 0 }]
      nextId := s.nextId + 1 }

/-- RESTORE: the image at REGBUF is rebound and loaded into the hardpan of a held region, its contexts SWAPPED (R335). An image
that does not fit the region, or names code that is not translated here, leaves RESULT 3 and nothing restored. -/
def execRestore (s : State) : Host.Outcome State Fault Refusal :=
  regionCommand (fun r => r.state == .held && r.place.all fun k => !fhas s.hard k) (fun r => do
    let s ← get
    let l := r.coreList
    let n := l.length
    let pa := s.regN rREGBUF
    let head := s.bytes pa 64
    let base := pa + 64 + n * coreImageSize
    let recs := (upTo (4 * n)).mapM fun i => Ctx.ofRecord r.id (s.bytes (base + recordSize * i) recordSize)
    let ok := populated pa && populated (pa + imageSize n - 1) && recFld head 0 4 == imageSize n && recFld head 4 4 == n &&
      recFld head 8 4 == 4 * n
    match (if ok then recs else none) with
    | none => modify (·.endCommand 3)
    | some cs => do
      forEach ((upTo n).zip l) fun (i, k) => do
        modify fun s =>
          let bs := s.bytes (pa + 64 + i * coreImageSize) coreImageSize
          let s := s.moveBytes (fun _ => none) fun a => (slotOffset k a).isSome
          let s := (bs.zip (upTo coreImageSize)).foldl (fun s (b, o) => s.write (hardPhys k (imageOffset o)) [b]) s
          { s with hard := fput s.hard k { core := Core.ofImage r.id bs, ctxs := (upTo 4).map fun j => (j, cs.getD (4 * i + j) Ctx.init) } }
        forEach (upTo 4) fun j => adoptTask r (4 * k + j) (cs.getD (4 * i + j) Ctx.init)
      modify State.settleCommand) s

end Sys2Proof.Machine
end

