-- ==== Sys2Proof/Machine/HostEvents.lean ====
section
/-! DEFINITION. Machine/HostEvents.lean: what the host and the host link do to the machine: messages (R318, R319), register reads
and writes (R320), RESUME (R331), TLB invalidation (R328) and the logical-die table (R336). -/

namespace Sys2Proof.Machine

/-! ### Link events -/

/-- A link error event on the lead die: KIND 9 with a link module or a message TYPE (R351). -/
def State.linkEvent (s : State) (n : Nat) : State :=
  if s.power then s.strataAdd s.lead 9 false 0xFF 0xFF (toBytes 8 n) else s

/-- UNKNOWN_MESSAGE_TYPE: a message of unknown TYPE is dropped with a link error event (R319). -/
def execUnknownMessageType (type : BitVec 16) (s : State) : Host.Outcome State Fault Refusal :=
  if 1 ≤ type.toNat && type.toNat ≤ 8 then .next s else .next (s.linkEvent type.toNat)

/-- LINK_MODULE_DISABLE: a link module fails training or passes its error threshold and is disabled (R318, R346). -/
def execLinkModuleDisable (n : Nat) (s : State) : Host.Outcome State Fault Refusal :=
  if s.power && n < 4 && bitAt s.link.toNat n then
    .next (({ s with link := s.link &&& ~~~BitVec.ofNat 4 (2 ^ n) } : State).linkEvent n)
  else .next s

/-- FLIT_CRC_FAILURE: a flit that fails its link CRC is replayed, and LINKRETRY of the die counts it (R346). -/
def execFlitCrcFailure (d : Nat) (s : State) : Host.Outcome State Fault Refusal :=
  if d ≤ 8 && s.power then .next (s.count d telLINKRETRY) else .next s

/-! ### Host memory accesses (R319) -/

/-- The host may reach a range now (R340): after READY a range of an active die; from WAITIMG on, the lead die's HBM. -/
def State.hostMay (s : State) (pa n : Nat) : Bool :=
  (s.bootState == 4 && s.dieActive (pdieOf pa)) ||
    (1 ≤ s.bootState && pdieOf pa == s.lead && inHbm (offOf pa) && inHbm (offOf (pa + n - 1)))

/-- The payload length of a message (R319). -/
def lenOk (n : Nat) : Bool := n ≤ 4096 && n % 4 == 0

/-- Where a piece of a host access lands, or the reason of its refusal: 5 where no memory is (R25), 7 for the scratchpad of a
gated core (R26). -/
def State.hostPlace (s : State) (pa : Nat) : Except Nat Nat :=
  if !populated pa then .error 5
  else
    match s.hardServes 0x10000 pa with
    | some ha => .ok ha
    | none => if windowRefuses s pa then .error 7 else .ok pa

/-- The table's entry of a logical die in memory. -/
def State.ldtEntry (s : State) (l : Nat) : Word64 := n64 (s.memN (physOf s.lead (s.regN rLDTBASE + 8 * l)) 8)

/-- What a host write takes out of the logical-die table is kept for the REMAP entry where no cached entry stands for it (R351). -/
def State.noteTable (s : State) (pa n : Nat) : State :=
  let base := physOf s.lead (s.regN rLDTBASE)
  let out := ((upTo (n / 8 + 2)).map fun i => (pa - base) / 8 + i).filter fun l =>
    l < 32768 && pa < base + 8 * l + 8 && base + 8 * l < pa + n && bitAt (s.ldtEntry l).toNat 0 && !fhas s.ldtCache l &&
      !fhas s.ldtOld l
  { s with ldtOld := out.foldl (fun m l => fput m l (s.ldtEntry l)) s.ldtOld }

/-- MWR: a host memory write, performed at its point of coherence, bypassing translation (R319); each piece that no memory serves
takes a page fault (R25, R26; log 22). -/
def execMwr (addr : BitVec 64) (data : List (BitVec 8)) (s : State) : Host.Outcome State Fault Refusal :=
  let pa := addr.toNat
  let n := data.length
  if !lenOk n then .next (s.linkEvent 1)
  else if !s.hostMay pa n then .next (s.linkEvent 1)
  else
    runOp (forEach (Sys2Proof.Machine.pieces (n / 64 + 2) pa n) fun (a, m) => do
      let s ← get
      match s.hostPlace a with
      | .ok p => set ((s.noteTable a m).write p ((data.drop (a - pa)).take m))
      | .error r => physRefused accWrite r a) s

/-- A piece of memory that the host reads; free bytes where it is refused (log 22). -/
def hostRead (a m : Nat) : Op (List Byte) := do
  let s ← get
  match s.hostPlace a with
  | .ok p => do
    set (s.eccRead p m)
    pure (s.bytes p m)
  | .error r => do
    physRefused accRead r a
    freeBytes m

/-- MRD: a host memory read, answered with a CPL of the same TAG (R319). -/
def execMrd (addr : BitVec 64) (len : Nat) (tag : BitVec 16) (s : State) : Host.Outcome State Fault Refusal :=
  let pa := addr.toNat
  if !lenOk len then .next (s.linkEvent 2)
  else if !s.hostMay pa len then .next (s.linkEvent 2)
  else
    let op : Op Unit := do
      let ls ← mapEach (Sys2Proof.Machine.pieces (len / 64 + 2) pa len) fun (a, m) => hostRead a m
      modify fun s => s.send { type := 3, addr := pa, tag := tag.toNat, data := ls.flatten }
    runOp op s

/-! ### Registers (R320) -/

/-- A register whose writes are ignored before READY (R340). -/
def regGuarded (off : Nat) : Bool := (0x1000 ≤ off && off < 0x2700) || off == 0x2800 || off == 0x2808

/-- The bits that a write sets directly (R5). Those that a step of the device sets are left to that step: QTAIL and CHEAD, INDEX, PWR,
GO, and all of a TLBINV that starts an invalidation. -/
def regPlain (off v : Nat) : Nat :=
  if 0x1000 ≤ off && off < 0x2000 && (off % 64 == 0x10 || off % 64 == 0x30) then 0
  else if 0x2200 ≤ off && off ≤ 0x2240 then (if bitAt v 0 && fld v 3 2 != 3 then 0 else 2 ^ 64 - 4)
  else if off == 0x2808 then 0x7FFF0002
  else if off == 0x3000 then 1 - v % 2
  else if 0x4100 ≤ off && off ≤ 0x4140 then 0
  else regWritable off

/-- What the device does on a write of a value, beside the bits that it sets. A write of BOOTCTL with WARM and GO is a warm reset. -/
def regAction (off : Nat) (val : Word64) : List Event :=
  let v := val.toNat
  if 0x1000 ≤ off && off < 0x2000 then
    let q := (off - 0x1000) / 64
    if off % 64 == 0x10 then [.qtailWrite q val] else if off % 64 == 0x30 then [.cheadWrite q val]
    else if off % 64 != 0x08 then [] else if fld v 31 28 == 1 then [.qctlTeardown q]
    else if fld v 31 28 == 2 then [.qctlReset q] else []
  else if off == 0x2100 then
    if bitAt v 16 then [.resumeAll val] else if bitAt v 8 then [.resumeCopy val] else [.resumeContext val]
  else if 0x2200 ≤ off && off ≤ 0x2240 then
    let d := (off - 0x2200) / 8
    if !bitAt v 0 || fld v 3 2 == 3 then [] else if fld v 3 2 == 0 then [.tlbinvPage d val]
    else if fld v 3 2 == 1 then [.tlbinvAsid d val] else [.tlbinvAll d val]
  else if off == 0x2718 then
    match v % 8 with
    | 1 => [.suspend]
    | 2 => [.unsuspend]
    | 3 => [.stopmark]
    | 4 => [.save]
    | 5 => [.restore]
    | _ => []
  else if off == 0x2808 then
    if !bitAt v 0 then [] else if bitAt v 1 then [.ldtctlDropAll] else [.ldtctlDrop (fld v 30 16)]
  else if off == 0x3000 then (if bitAt v 1 then [.warmReset] else if bitAt v 0 then [.bootctlGo] else [])
  else if off == 0x3220 then [.extend (BitVec.ofNat 3 v)]
  else if off == 0x3308 then (if bitAt v 0 then [.attestation] else [])
  else if off == 0x4000 then (if bitAt v 9 then [.strataDump] else [])
  else if 0x4100 ≤ off && off ≤ 0x4140 then
    [if bitAt v 0 then .diePowerUp ((off - 0x4100) / 8) else .diePowerDown ((off - 0x4100) / 8)]
  else if off == 0x4800 then (if bitAt v 0 then [.telclr] else [])
  else []

/-- Replace the bits of a mask. -/
def maskWrite (mask old new : Nat) : Word64 := (n64 old &&& ~~~n64 mask) ||| (n64 new &&& n64 mask)

/-- QSTAT.ERR says that EN is set with an illegal SIZE (R320, R321). -/
def State.setQerr (s : State) (off : Nat) : State :=
  let q := (off - 0x1000) / 64
  if 0x1000 ≤ off && off < 0x2000 && off % 64 == 8 then
    s.setRegF (rQSTAT q) 1 1 (b2n (bitAt (s.regN (rQCTL q)) 0 && !s.qSizeOk q))
  else s

/-- An invalidation or a drop is under way, so that a write of its register is ignored (R328). -/
def State.regBusy (s : State) (off : Nat) : Bool :=
  ((0x2200 ≤ off && off ≤ 0x2240) || off == 0x2808) && bitAt (s.regN off) 0

/-- REGISTER_WRITE: a write of a module register sets the bits that it may (R5, R320), and the step that it asks of the device comes
next. -/
def execRegisterWrite (off : Nat) (val : BitVec 64) (s : State) : Host.Outcome State Fault Refusal :=
  if !s.power || !regListed off || (regGuarded off && s.bootState != 4) || s.regBusy off then .next s
  else
    let s := (s.setReg off (maskWrite (regPlain off val.toNat) (s.regN off) val.toNat)).setQerr off
    .next { s with agenda := regAction off val ++ s.agenda }

/-- Answer a register read (R319): RCPL with the request's TAG. -/
def State.answer (s : State) (off tag : Nat) : State :=
  s.send { type := 6, addr := off, tag := tag, data := toBytes 8 (s.regRead off).toNat }

/-- FROVF_READ: the drop count is returned and cleared (R320). -/
def execFrovfRead (tag : BitVec 16) (s : State) : Host.Outcome State Fault Refusal :=
  .next ((s.answer rFROVF tag.toNat).setReg rFROVF 0)

/-- EXTCTL_ERR_READ: EXTCTL is returned, and ERR is cleared (R339). -/
def execExtctlErrRead (tag : BitVec 16) (s : State) : Host.Outcome State Fault Refusal :=
  .next ((s.answer rEXTCTL tag.toNat).setRegF rEXTCTL 4 4 0)

/-- A register read: RCPL with what the register reads as (R5, R319, R320); one that clears what it returns does so. -/
def registerRead (off : Nat) (tag : BitVec 16) (s : State) : Host.Outcome State Fault Refusal :=
  if off == rFROVF then execFrovfRead tag s
  else if off == rEXTCTL then execExtctlErrRead tag s
  else if s.power then .next (s.answer off tag.toNat)
  else .next s

/-! ### RESUME (R331) -/

/-- Resume a context that is parked, where it is and in its saved state (R39). -/
def State.resumeCtx (s : State) (x : Nat) : State :=
  let s := if (s.ctx x).state == .parked then s.makeReady x else s
  match fget? s.hard (coreOf x) with
  | none => s
  | some h =>
    let c := fget Ctx.init h.ctxs (x % 4)
    if c.state == .parked then
      { s with hard := fput s.hard (coreOf x) { h with ctxs := fput h.ctxs (x % 4) { c with state := .ready, why := .none } } }
    else s

/-- Copies of a core that meet a test go on. -/
def Core.resumeCopies (c : Core) (p : CopyCmd → Bool) : Core :=
  { c with copies := c.copies.map fun q => if p q then { q with parked := false } else q }

/-- Resume parked copies of a core, where they are and in its saved state. -/
def State.resumeCopiesOf (s : State) (k : Nat) (p : CopyCmd → Bool) : State :=
  let s := if (s.core k).copies.any (fun q => q.parked && p q) then s.modCore k fun c => c.resumeCopies p else s
  match fget? s.hard k with
  | none => s
  | some h => { s with hard := fput s.hard k { h with core := h.core.resumeCopies p } }

/-- The context that a RESUME value names. -/
def resumeKey (v : Nat) : Nat := 96 * fld v 20 17 + 4 * fld v 15 11 + fld v 10 9

/-- A RESUME value names a context of the module. -/
def resumeNames (v : Nat) : Bool := fld v 20 17 ≤ 8 && fld v 15 11 < 24

/-- RESUME_CONTEXT: one parked context becomes READY and re-issues from its mark (R127, R331). -/
def execResumeContext (val : BitVec 64) (s : State) : Host.Outcome State Fault Refusal :=
  let v := val.toNat
  if bitAt v 16 || bitAt v 8 || !resumeNames v then .next s else .next (s.resumeCtx (resumeKey v))

/-- RESUME_COPY: a parked copy, PUBLISH or UPD in a completion slot goes on (R331). -/
def execResumeCopy (val : BitVec 64) (s : State) : Host.Outcome State Fault Refusal :=
  let v := val.toNat
  if bitAt v 16 || !bitAt v 8 || !resumeNames v then .next s
  else .next (s.resumeCopiesOf (resumeKey v / 4) fun p => p.x == resumeKey v && p.cid == fld v 7 3)

/-- Make again the scheduler accesses that a die holds, record by record and in their order (R361); a record that is refused now
acts on its fault domain (R29). -/
def retryHeld (d : Nat) : Op Unit := do
  let s ← get
  let mine := s.msgs.filter fun m => m.held && m.die == d
  set ({ s with msgs := s.msgs.filter fun m => !(m.held && m.die == d) } : State)
  forEach ((mine.map fun m => (m.asid, m.record)).eraseDups) fun (asid, rec) =>
    let ops := (mine.filter fun m => m.asid == asid && m.record == rec).map (·.op)
    runSteps d asid rec (5 * ops.length + 8) ops
  failPosted s.nextId

/-- Make again the RCB reads that the region scheduler holds (log 13). -/
def retryLaunches : Op Unit := do
  let s ← get
  forEach (s.queue.filter (·.held)) launchEntry

/-- RESUME_ALL: every parked context, copy, PUBLISH and UPD of a die goes on, and every access that its task scheduler holds is made
again (R331, R361). -/
def execResumeAll (val : BitVec 64) (s : State) : Host.Outcome State Fault Refusal :=
  let v := val.toNat
  let d := fld v 20 17
  if !bitAt v 16 || d > 8 then .next s
  else
    let s := (upTo 96).foldl (fun s i => s.resumeCtx (96 * d + i)) s
    let s := (upTo 24).foldl (fun s i => s.resumeCopiesOf (24 * d + i) fun _ => true) s
    let op : Op Unit := do
      retryHeld d
      if d == s.lead then retryLaunches else pure ()
    runOp op s

/-! ### TLBINV (R328) -/

/-- The physical die of this module to which a virtual address belongs, by the logical-die table. -/
def State.homeDie (s : State) (va : Nat) : Option Nat :=
  let e := s.routeOf (n64 va)
  if bitAt e 0 && fld e 12 1 == s.moduleNo then some (fld e 16 13) else none

/-- Drop lines of every core's instruction store, pre-empted ones' stores being those of their cores. -/
def State.dropLines (s : State) (p : Line → Bool) : State :=
  { s with cores := s.cores.map fun (k, c) => (k, { c with istore := c.istore.filter fun l => !p l }) }

/-- Drop translations of a die. -/
def State.dropTlb (s : State) (d : Nat) (p : TlbEnt → Bool) : State :=
  s.modDie d fun v => { v with tlb := v.tlb.filter fun e => !p e }

/-- Start an invalidation of a die (R328): a write with GO while none is under way, whose MODE is the event's. -/
def invalidate (d mode : Nat) (val : BitVec 64) (act : State → State) (s : State) : Host.Outcome State Fault Refusal :=
  if d > 8 || s.bootState != 4 || bitAt (s.regN (rTLBINV d)) 0 || !bitAt val.toNat 0 || fld val.toNat 3 2 != mode then .next s
  else .next (act (s.setReg (rTLBINV d) (val &&& ~~~(2 : Word64))))

/-- TLBINV_PAGE: one page's translations and instruction-store lines are dropped (R328). -/
def execTlbinvPage (d : Nat) (val : BitVec 64) (s : State) : Host.Outcome State Fault Refusal :=
  let asid := fld val.toNat 15 4
  let page := fld val.toNat 63 16
  invalidate d 0 val (fun s =>
    let big := (s.die d).tlb.any fun e => e.big && e.covers asid page
    let s := s.dropTlb d fun e => e.covers asid page
    s.dropLines fun l =>
      let a := l.block * 4096
      let p := a % 2 ^ 49 / 65536
      l.asid == asid && s.homeDie a == some d && (p == page || ((big || l.big) && p / 32 == page / 32))) s

/-- TLBINV_ASID: one ASID's translations and instruction-store lines are dropped (R328). -/
def execTlbinvAsid (d : Nat) (val : BitVec 64) (s : State) : Host.Outcome State Fault Refusal :=
  let asid := fld val.toNat 15 4
  invalidate d 1 val (fun s => (s.dropTlb d fun e => e.asid == asid).dropLines fun l => l.asid == asid) s

/-- TLBINV_ALL: every translation of the die and every instruction-store line is dropped (R328). -/
def execTlbinvAll (d : Nat) (val : BitVec 64) (s : State) : Host.Outcome State Fault Refusal :=
  invalidate d 2 val (fun s => (s.dropTlb d fun _ => true).dropLines fun _ => true) s

/-- TLBINV_DONE: no request through an invalidated entry is in flight, and GO reads 0 (R328). Every request is performed at one
point (log 5), so none is. -/
def execTlbinvDone (d : Nat) (s : State) : Host.Outcome State Fault Refusal :=
  if d ≤ 8 then .next (s.setRegF (rTLBINV d) 0 0 0) else .next s

/-! ### The logical-die table (R336) -/

/-- Drop cached entries of the table; what they held is kept for the REMAP entry (R351). -/
def State.ldtDrop (s : State) (p : Nat → Bool) : State :=
  let out := s.ldtCache.filter fun (l, _) => p l
  { s with ldtCache := s.ldtCache.filter fun (l, _) => !p l
           ldtOld := out.foldl (fun m (l, e) => fput m l e) s.ldtOld }

/-- LDTCTL_DROP: one logical die's cached entry is dropped (R336). A write while GO reads 1 is ignored (log 22). -/
def execLdtctlDrop (ldie : Nat) (s : State) : Host.Outcome State Fault Refusal :=
  if s.bootState != 4 || bitAt (s.regN rLDTCTL) 0 || ldie ≥ 32768 then .next s
  else .next ((s.setReg rLDTCTL (n64 (1 + ldie * 2 ^ 16))).ldtDrop (· == ldie))

/-- LDTCTL_DROP_ALL: every cached entry is dropped (R336). -/
def execLdtctlDropAll (s : State) : Host.Outcome State Fault Refusal :=
  if s.bootState != 4 || bitAt (s.regN rLDTCTL) 0 then .next s
  else .next ((s.setReg rLDTCTL (n64 (s.regN rLDTCTL / 65536 * 65536 + 3))).ldtDrop fun _ => true)

/-- LDTCTL covers a logical die. -/
def State.ldtCovers (s : State) (l : Nat) : Bool := bitAt (s.regN rLDTCTL) 1 || s.regF rLDTCTL 30 16 == l

/-- LDTCTL_DONE: no request routed by a dropped entry remains; GO reads 0, and each entry that now names another pair makes a
REMAP entry (R336, R351). An entry with V = 0 names none yet. -/
def execLdtctlDone (s : State) : Host.Outcome State Fault Refusal :=
  if !bitAt (s.regN rLDTCTL) 0 then .next s
  else
    let s := s.setRegF rLDTCTL 0 0 0
    let back := s.ldtOld.filter fun (l, _) => s.ldtCovers l && bitAt (s.ldtEntry l).toNat 0
    let s' := back.foldl (fun (t : State) (l, e) =>
      let n := s.ldtEntry l
      if fld e.toNat 16 1 != fld n.toNat 16 1 then
        t.strataAdd t.lead 7 false 0xFF 0xFF (toBytes 8 l ++ toBytes 8 e.toNat ++ toBytes 8 n.toNat)
      else t) s
    .next { s' with ldtOld := s'.ldtOld.filter fun (l, _) => !(s.ldtCovers l && bitAt (s.ldtEntry l).toNat 0) }

end Sys2Proof.Machine
end

