-- ==== Sys2Proof/Machine/Sha.lean ====
section
/-! DEFINITION. Machine/Sha.lean: SHA-256 (FIPS 180-4), as the measurement registers use it (R340, R341). -/

namespace Sys2Proof.Machine

/-- The first 32 bits of the fractional part of a root, from the primes and the degree: the constants of the standard. -/
def shaPrimes : List Nat :=
  [2, 3, 5, 7, 11, 13, 17, 19, 23, 29, 31, 37, 41, 43, 47, 53, 59, 61, 67, 71, 73, 79, 83, 89, 97, 101, 103, 107, 109, 113, 127,
   131] ++
  [137, 139, 149, 151, 157, 163, 167, 173, 179, 181, 191, 193, 197, 199, 211, 223, 227, 229, 233, 239, 241, 251, 257, 263, 269,
   271, 277, 281, 283, 293, 307, 311]

/-- The largest r below 2^n with r^d ≤ x, found bit by bit. -/
def rootBits (d x : Nat) : Nat → Nat → Nat
  | 0, r => r
  | n + 1, r => rootBits d x n (if (r + 2 ^ n) ^ d ≤ x then r + 2 ^ n else r)

/-- The 64 round constants: fractional bits of the cube roots of the first 64 primes. -/
def shaK : List (BitVec 32) := shaPrimes.map fun p => BitVec.ofNat 32 (rootBits 3 (p * 2 ^ 96) 36 0)

/-- The initial hash: fractional bits of the square roots of the first 8 primes. -/
def shaInit : List (BitVec 32) := (shaPrimes.take 8).map fun p => BitVec.ofNat 32 (rootBits 2 (p * 2 ^ 64) 36 0)

/-- The message with its padding. -/
def shaPad (m : List Byte) : List Byte :=
  let z := (119 - m.length % 64) % 64
  m ++ (0x80 : Byte) :: List.replicate z 0 ++ (toBytes 8 (8 * m.length)).reverse

/-- Big-endian 32-bit words of a list of bytes. -/
def shaWords : List Byte → List (BitVec 32)
  | a :: b :: c :: d :: l => (a ++ b ++ c ++ d) :: shaWords l
  | _ => []

/-- One step of the message schedule: the window of the last 16 words, oldest first. -/
def shaNext (w : List (BitVec 32)) : BitVec 32 :=
  let a := w.getD 1 0
  let b := w.getD 14 0
  let s0 := a.rotateRight 7 ^^^ a.rotateRight 18 ^^^ (a >>> 3)
  let s1 := b.rotateRight 17 ^^^ b.rotateRight 19 ^^^ (b >>> 10)
  w.getD 0 0 + s0 + w.getD 9 0 + s1

/-- The working variables. -/
structure ShaVars where
  a : BitVec 32
  b : BitVec 32
  c : BitVec 32
  d : BitVec 32
  e : BitVec 32
  f : BitVec 32
  g : BitVec 32
  h : BitVec 32
deriving DecidableEq, Repr

/-- One round. -/
def ShaVars.round (v : ShaVars) (k w : BitVec 32) : ShaVars :=
  let s1 := v.e.rotateRight 6 ^^^ v.e.rotateRight 11 ^^^ v.e.rotateRight 25
  let ch := (v.e &&& v.f) ^^^ (~~~v.e &&& v.g)
  let t1 := v.h + s1 + ch + k + w
  let s0 := v.a.rotateRight 2 ^^^ v.a.rotateRight 13 ^^^ v.a.rotateRight 22
  let maj := (v.a &&& v.b) ^^^ (v.a &&& v.c) ^^^ (v.b &&& v.c)
  { a := t1 + (s0 + maj), b := v.a, c := v.b, d := v.c, e := v.d + t1, f := v.e, g := v.f, h := v.g }

/-- The rounds of a block, over the round constants and the window of schedule words. -/
def shaRounds : List (BitVec 32) → List (BitVec 32) → ShaVars → ShaVars
  | [], _, v => v
  | k :: ks, w, v => shaRounds ks (w.drop 1 ++ [shaNext w]) (v.round k (w.getD 0 0))

/-- Take a block of 16 words into the hash. -/
def shaBlock (h w : List (BitVec 32)) : List (BitVec 32) :=
  let i := fun n => h.getD n 0
  let v := shaRounds shaK w { a := i 0, b := i 1, c := i 2, d := i 3, e := i 4, f := i 5, g := i 6, h := i 7 }
  [i 0 + v.a, i 1 + v.b, i 2 + v.c, i 3 + v.d, i 4 + v.e, i 5 + v.f, i 6 + v.g, i 7 + v.h]

/-- Take n blocks of words into the hash. -/
def shaBlocks : Nat → List (BitVec 32) → List (BitVec 32) → List (BitVec 32)
  | 0, _, h => h
  | n + 1, w, h => shaBlocks n (w.drop 16) (shaBlock h (w.take 16))

/-- The 32 bytes of a digest, in the standard's order. -/
def sha256 (m : List Byte) : List Byte :=
  let w := shaWords (shaPad m)
  (shaBlocks (w.length / 16) w shaInit).flatMap fun x => (toBytes 4 x.toNat).reverse

end Sys2Proof.Machine
end

