-- ==== Sys2Proof/Machine/Boot.lean ====
section
/-! DEFINITION. Machine/Boot.lean: boot, measurement, attestation and power (R339 to R344), the strata record's dumps, telemetry and
die loss (R349 to R354, R358, R359). -/

namespace Sys2Proof.Machine

/-! ### Measurement registers (R341) -/

/-- The 32 bytes of four words of registers. -/
def State.words4 (s : State) (reg : Nat → Nat) : List Byte := (upTo 4).flatMap fun w => toBytes 8 (s.regN (reg w))

/-- Extend a measurement register with a digest. -/
def State.mrExtend (s : State) (i : Nat) (digest : List Byte) : State :=
  let d := sha256 (s.words4 (rMR i) ++ digest)
  (upTo 4).foldl (fun s w => s.setReg (rMR i w) (n64 (recFld d (8 * w) 8))) s

/-- Ask for an extend; during a report it is held (R342). -/
def State.askExtend (s : State) (i : Nat) (d : List Byte) : State :=
  if bitAt (s.regN rATTCTL) 1 then { s.setRegF rEXTCTL 3 3 1 with heldExtend := s.heldExtend ++ [(i, d)] } else s.mrExtend i d

/-- EXTEND: INDEX is written (R341, R342): while BUSY it is ignored, 0 to 3 set ERR, and during a report the extend is held. -/
def execExtend (i : BitVec 3) (s : State) : Host.Outcome State Fault Refusal :=
  if !s.power || bitAt (s.regN rEXTCTL) 3 then .next s
  else
    let s := s.setRegF rEXTCTL 2 0 i.toNat
    if i.toNat < 4 then .next (s.setRegF rEXTCTL 4 4 1)
    else .next (s.askExtend i.toNat (s.words4 rEXTDIG))

/-- The firmware extends MR2 or MR3 with the digest of what it loads (R340). -/
def firmwareExtend (i : Nat) (digest : List Byte) (s : State) : Host.Outcome State Fault Refusal :=
  if s.power && (i == 2 || i == 3) && digest.length == 32 then .next (s.askExtend i digest) else .next s

/-- HELD_EXTEND: an extend held during a report is applied once the report is written (R342). -/
def execHeldExtend (s : State) : Host.Outcome State Fault Refusal :=
  match s.heldExtend with
  | [] => .next s
  | (i, d) :: rest =>
    if bitAt (s.regN rATTCTL) 1 then .next s
    else
      let s := { s.mrExtend i d with heldExtend := rest }
      .next (if rest.isEmpty then s.setRegF rEXTCTL 3 3 0 else s)

/-! ### Attestation (R342) -/

/-- The first 384 bytes of a report, from the snapshot of NONCE and MR0 to MR7. -/
def State.reportBody (s : State) (snap : List Byte) : List Byte :=
  toBytes 4 0x5441584A ++ toBytes 2 1 ++ List.replicate 10 0 ++ toBytes 8 (s.regN 0) ++ toBytes 8 Config.serial.toNat ++ snap ++
    toBytes 64 Config.publicKey.toNat

/-- A report with its signature. -/
def State.report (s : State) (snap : List Byte) : List Byte :=
  let b := s.reportBody snap
  b ++ toBytes 64 (Config.signature (BitVec.ofNat 3072 (ofBytes b))).toNat

/-- The extends that a report has held are applied (R342). -/
def State.applyHeld (s : State) : State :=
  if s.heldExtend.isEmpty then s
  else { (s.heldExtend.foldl (fun t (i, d) => t.mrExtend i d) s).setRegF rEXTCTL 3 3 0 with heldExtend := [] }

/-- The registers that a report certifies: NONCE, and MR0 to MR7. -/
def State.snapshot (s : State) : List Byte := s.words4 rNONCE ++ (upTo 8).flatMap fun i => s.words4 (rMR i)

/-- ATTESTATION: GO takes the snapshot, after the extends asked for before it, and sets BUSY; while BUSY is set it is ignored
(R341, R342). -/
def execAttestation (s : State) : Host.Outcome State Fault Refusal :=
  if !s.power || s.attSnap.isSome then .next s
  else
    let s := s.applyHeld
    .next { s.setRegF rATTCTL 1 0 3 with attSnap := some s.snapshot }

/-- The report is written at ATTBUF, BUSY clears, and an IRQ follows where ATTCTL asks for it (R342). -/
def reportWritten (s : State) : Host.Outcome State Fault Refusal :=
  match s.attSnap with
  | none => .next s
  | some snap =>
    let op : Op Unit := do
      devWrite (s.regN rATTBUF) (s.report snap)
      modify fun s => { s.setRegF rATTCTL 1 0 0 with attSnap := none }
      if bitAt (s.regN rATTCTL) 8 then modify fun s => s.irq (s.regF rATTCTL 7 2) else pure ()
    runOp op s

/-! ### Boot (R340) -/

/-- BOOTCTL.STATE takes a value. -/
def State.setBoot (s : State) (st : Nat) : State := s.setRegF rBOOTCTL 7 4 st

/-- A die's management core runs its ROM and self-test: ROM, or FAILED with a code. -/
def selfTest (d : Nat) : Op Unit := do
  let n ← nextFree
  modify fun s => s.setReg (rMCSTAT d)
    (if Config.selfTest n then 1 else n64 (4 + fld (Config.freeField n 0).toNat 7 0 * 2 ^ 8))

/-- Step 1 of the boot sequence: self-tests, and WAITIMG where a die is active, with a BOOT entry (R340, R351). -/
def romBoot : Op Unit := do
  forEach (upTo 9) selfTest
  modify fun s =>
    let s := if (upTo 9).any s.dieActive then s.setBoot 1 else s.setBoot 5
    ({ s with link := 0xF } : State).strataAdd s.lead 11 false 0xFF 0xFF (toBytes 8 (s.regN rBOOTCTL))

/-- The state of a module without power: nothing survives (R343); what it has sent, its number and the model's own fields stay. -/
def State.unpowered (s : State) : State :=
  { State.reset with power := false, moduleNo := s.moduleNo, hostOut := s.hostOut, fabricOut := s.fabricOut, fresh := s.fresh,
                     agenda := s.agenda }

/-- The boot ROM has still to run. -/
def State.atRom (s : State) : Bool := s.bootState == 0 && (upTo 9).all fun d => s.regN (rMCSTAT d) == 0

/-- POWER_ON: module power is applied, the ROMs run, and the module waits for its image (R340). -/
def execPowerOn (s : State) : Host.Outcome State Fault Refusal :=
  if !s.power then runOp romBoot { s.unpowered with power := true } else if s.atRom then runOp romBoot s else .next s

/-- POWER_REMOVAL: module power is removed and all state is lost (R343). -/
def execPowerRemoval (s : State) : Host.Outcome State Fault Refusal := .next s.unpowered

/-- Registers that a warm reset leaves: the strata controls and the counters, which count from power-on (R354; log 13). -/
def regSurvives (off : Nat) : Bool := (0x4000 ≤ off && off ≤ 0x4010) || (0x4400 ≤ off && off < 0x4800)

/-- Every core and management core reset (R343, R349): schedulers, cores, contexts, hardpan, instruction stores and TLBs hold
nothing, registers stand at their Reset values, and memory and the strata rings stay. -/
def State.coresReset (s : State) : State :=
  { State.reset with
    time := s.time, withheld := s.withheld, mem := s.mem, poison := s.poison, soft := s.soft, tags := s.tags, regs := s.regs.filter fun (o, _) => regSurvives o
    dies := s.dies.map fun (d, v) => (d, { v with tlb := [], lost := false })
    cores := (upTo 216).map fun k => (k, { Core.init with cycBase := s.time })
    moduleNo := s.moduleNo, hostOut := s.hostOut, fabricOut := s.fabricOut, fresh := s.fresh, agenda := s.agenda
    nextId := s.nextId }

/-- WARM_RESET: every core is reset, MR0 to MR7 are cleared, and the boot sequence begins again (R343). -/
def execWarmReset (s : State) : Host.Outcome State Fault Refusal :=
  if s.power then runOp romBoot s.coresReset else .next s

/-- BOOTLEN and BOOTIMG describe an image in the lead die's HBM (R339). -/
def State.imageOk (s : State) : Bool :=
  let a := s.regN rBOOTIMG
  let n := s.regN rBOOTLEN
  0x1000 ≤ n && n ≤ 0x1000000 && n % 64 == 0 && a % 0x1000 == 0 && pdieOf a == s.lead && inHbm (offOf a) &&
    inHbm (offOf (a + n - 1))

/-- A die without power: its memory, cores and record are lost (R343). A lost die stays lost until it has power again (R358). -/
def State.dieOff (s : State) (d : Nat) : State :=
  { s with
    mem := s.mem.filter fun (a, _) => pdieOf a != d
    poison := s.poison.filter fun (w, _) => pdieOf (8 * w) != d
    soft := s.soft.filter fun (w, _) => pdieOf (8 * w) != d
    arrayErr := s.arrayErr.filter fun (i, _) => i / 32 / 34 / 24 != d
    tags := s.tags.filter fun (c, _) => pdieOf (512 * c) != d
    dies := if (s.die d).lost then fput s.dies d { Die.init with lost := true } else fdel s.dies d
    cores := s.cores.filter fun (k, _) => dieOfCore k != d
    ctxs := s.ctxs.filter fun (x, _) => dieOf x != d
    hard := s.hard.filter fun (k, _) => dieOfCore k != d }

/-- START and READY (R340, R353): every active die runs the image and shows RUN; the firmware then sets the power bit of each die,
and a die that it leaves without power, the reserve among them, goes off. -/
def State.firmwareStart (s : State) : State :=
  let s' := (upTo 9).foldl (fun (t : State) d =>
    if s.dieActive d && Config.diePower d then (t.setReg (rMCSTAT d) 2).setReg (rDIECTL d) 1
    else if s.regF (rMCSTAT d) 3 0 == 4 then t
    else (t.dieOff d).setReg (rMCSTAT d) 0) s
  s'.setBoot 4

/-- BOOTCTL_GO: in WAITIMG, the image is measured and started (R340). An image or a configuration section that does not lie where
it must sets FAILED. GO reads as written. -/
def execBootctlGo (s : State) : Host.Outcome State Fault Refusal :=
  if !s.power || s.bootState != 1 then .next s
  else if !s.imageOk then .next ((s.setRegF rBOOTCTL 0 0 1).setBoot 5)
  else
    let s := s.setRegF rBOOTCTL 0 0 1
    let n := s.regN rBOOTLEN
    let img := s.bytes (s.regN rBOOTIMG) n
    let s := (s.setBoot 2).mrExtend 0 (sha256 img)
    let off := recFld img 8 4
    let len := recFld img 12 4
    if off + len > n then .next (s.setBoot 5)
    else .next ((s.mrExtend 1 (sha256 ((img.drop off).take len))).setBoot 3).firmwareStart

/-! ### Power and clocks (R343, R344, R353) -/

/-- THROTTLE_UPDATE: the firmware sets the throttle level and its reasons (R344). -/
def execThrottleUpdate (level : BitVec 4) (reason : BitVec 3) (s : State) : Host.Outcome State Fault Refusal :=
  if s.power && level.toNat ≤ 12 then
    .next ((s.setRegF rTHROT 19 16 level.toNat).setRegF rTHROT 22 20 reason.toNat)
  else .next s

/-- DIE_POWER_DOWN: PWR = 0 is written for a die (R353). -/
def execDiePowerDown (d : Nat) (s : State) : Host.Outcome State Fault Refusal :=
  if d ≤ 8 && s.bootState == 4 && bitAt (s.regN (rDIECTL d)) 0 then
    .next (((s.dieOff d).setReg (rDIECTL d) 0).setReg (rMCSTAT d) 0)
  else .next s

/-- A die that is given power is no longer lost. -/
def State.dieFresh (s : State) (d : Nat) : State := (s.modDie d fun v => { v with lost := false }).dieOff d

/-- DIE_POWER_UP: PWR = 1 is written for a die that is off: its ROM tests it, and the firmware is copied to it and runs (R340). -/
def execDiePowerUp (d : Nat) (s : State) : Host.Outcome State Fault Refusal :=
  if d ≤ 8 && s.bootState == 4 && !bitAt (s.regN (rDIECTL d)) 0 then
    let op : Op Unit := do
      set ((s.dieFresh d).setReg (rDIECTL d) 1)
      selfTest d
      modify fun s => if s.regF (rMCSTAT d) 3 0 == 4 then s else s.setReg (rMCSTAT d) 2
    runOp op s
  else .next s

/-- CORE_POWER_GATING: a core with no resident region loses its power, its scratchpad and its state (R56, R343). -/
def execCorePowerGating (c : Nat) (s : State) : Host.Outcome State Fault Refusal :=
  if c < 216 && (s.core c).region == 0 && !(s.core c).gated then
    let s := s.moveBytes (fun _ => none) fun a => (scratchOf c a).isSome
    let s := { s with arrayErr := s.arrayErr.filter fun (i, _) => i / 32 / 34 != c }
    let s := s.setCore c { Core.init with gated := true, cycBase := s.time }
    .next ((upTo 4).foldl (fun s i => s.setCtx (4 * c + i) { Ctx.init with tokNext := (s.ctx (4 * c + i)).tokNext }) s)
  else .next s

/-! ### The strata record's copies, and telemetry (R352, R354) -/

/-- Write every ring to a buffer, die d's at 256 KB x d, oldest entry first; a lost die's ring stands apart from what is lost
(R349). -/
def dumpTo (buf : Nat) : Op Unit := do
  let s ← get
  forEach (s.dies.filter fun (_, v) => !v.strata.isEmpty) fun (d, v) =>
    devWrite (buf + 0x40000 * d) (v.strata.flatMap Strata.bytes)

/-- STRATA_DUMP: every die's ring is copied to STRBUF (R352). -/
def execStrataDump (s : State) : Host.Outcome State Fault Refusal :=
  if s.power then runOp (dumpTo (s.regN rSTRBUF)) s else .next s

/-- TELCLR: all telemetry counters are cleared (R354). -/
def execTelclr (s : State) : Host.Outcome State Fault Refusal :=
  .next { s with regs := s.regs.filter fun (o, _) => !(0x4400 ≤ o && o < 0x4640) }

/-- A FATAL entry has been made (R352): the rings are copied to STRSAVE and STRBUF, where these are nonzero, and the IRQ is sent. -/
def fatalSave : Op Unit := do
  let s ← get
  if s.regN rSTRSAVE != 0 then dumpTo (s.regN rSTRSAVE) else pure ()
  if s.regN rSTRBUF != 0 then dumpTo (s.regN rSTRBUF) else pure ()
  if bitAt (s.regN rSTRCTL) 1 then modify fun s => s.irq (s.regF rSTRCTL 7 2) else pure ()

/-! ### Errors (R345, R346, R351)

Where a wrong bit arises is no step of an agent: these steps let one arise, in memory, in an array of a core, or in the memory of a
management core. -/

/-- A word of memory comes to hold one wrong bit, or more than one. -/
def upset (w : Nat) (double : Bool) (s : State) : Host.Outcome State Fault Refusal :=
  if !populated (8 * w) then .next s
  else if double || fhas s.soft w then .next { s with poison := fset false s.poison w true, soft := fdel s.soft w }
  else .next { s with soft := fset false s.soft w true }

/-- A row of a core's arrays, by `arrayRow`, comes to hold one wrong bit, or more than one. -/
def arrayUpset (row : Nat) (double : Bool) (s : State) : Host.Outcome State Fault Refusal :=
  if row < 216 * 34 * 32 then .next { s with arrayErr := fput s.arrayErr row (double || fhas s.arrayErr row) } else .next s

/-- An uncorrectable error in the memory of a die's management core: ECCUNC counts it, and an ECC entry with FATAL = 1 is made and
saved (R351, R352); R351 has no code for where, and no address, so both are free (log 14). -/
def mcoreEcc (d : Nat) (s : State) : Host.Outcome State Fault Refusal :=
  if !(s.power && d ≤ 8) then .next s
  else
    let op : Op Unit := do
      let n ← nextFree
      modify fun s => (s.count d telECCUNC).strataAdd d 5 true 0xFF 0xFF
        (toBytes 8 ((Config.freeField n 0).toNat % 256) ++ toBytes 8 (Config.freeField n 1).toNat)
      fatalSave
    runOp op s

/-- A management core stops and shows HALTED (R339); the spec does not say when (log 12). -/
def mcoreHalt (d : Nat) (s : State) : Host.Outcome State Fault Refusal :=
  if d ≤ 8 && s.regF (rMCSTAT d) 3 0 == 2 then .next (s.setReg (rMCSTAT d) 3) else .next s

/-! ### Die loss (R358) -/

/-- A context waits for a read from a die, and can still be rolled back. -/
def Ctx.waitsFor (c : Ctx) (home : Nat → Option Nat) (d : Nat) : Option Arrival :=
  c.arrivals.find? fun a => c.mark.tok ≤ a.tok && isVirt a.va && home a.va.toNat == some d

/-- Change the saved state of a core, where there is one. -/
def State.modHard (s : State) (k : Nat) (f : HardSlot → HardSlot) : State :=
  match fget? s.hard k with
  | none => s
  | some h => { s with hard := fput s.hard k (f h) }

/-- The refusal of a request to a lost die. -/
def State.lostRefusal (s : State) (x : Nat) (a : Arrival) : Refused :=
  let q := s.reqOf x a.src a.cls
  { va := a.va, reason := 6, acc := accRead, src := a.src, cls := a.cls, asid := q.asid, pdie := q.pdie, core := q.core,
    ctx := q.ctx, cid := q.cid }

/-- The parties of requests to a lost die park with reason 6, pre-empted ones in their saved state. -/
def parkWaiters (d : Nat) : Op Unit := do
  let s ← get
  forEach (s.ctxs.filter fun (x, _) => dieOf x != d) fun (x, c) =>
    match c.waitsFor s.homeDie d with
    | none => pure ()
    | some a => modify fun s => s.park x (s.lostRefusal x a)
  forEach (s.hard.filter fun (k, _) => dieOfCore k != d) fun (k, h) =>
    forEach h.ctxs fun (i, c) =>
      match c.waitsFor s.homeDie d with
      | none => pure ()
      | some a => do
        modify fun s => s.modHard k fun h => { h with core := h.core.undoHeld c.heldX, ctxs := fput h.ctxs i c.rolledBack }
        let asid := (s.regionAsid c.region).getD 0
        faultPost (refusalRec { s.lostRefusal (4 * k + i) a with asid := asid } true)

/-- The tasks on a lost die complete ABORTED, and their regions' fault domains act. -/
def abortDie (d : Nat) : Op Unit := do
  let s ← get
  let on := s.tasks.filter fun t => match t.state with | .running x => dieOf x == d | _ => false
  modify fun s =>
    { s with cores := s.cores.filter (fun (k, _) => dieOfCore k != d), ctxs := s.ctxs.filter (fun (x, _) => dieOf x != d)
             hard := s.hard.filter fun (k, _) => dieOfCore k != d }
  completeAll on stABORTED

/-- DIE_LOSS: a powered die has failed, has halted, or is silent (R358): its requests are refused from now on, the waiting parties park, its
tasks are aborted, and a DIELOSS entry is made and saved. -/
def execDieLoss (d : Nat) (s : State) : Host.Outcome State Fault Refusal :=
  if s.bootState == 4 && d ≤ 8 && bitAt (s.regN (rDIECTL d)) 0 && !(s.die d).lost then
    let op : Op Unit := do
      modify fun s => s.modDie d fun v => { v with lost := true, tlb := [] }
      parkWaiters d
      abortDie d
      modify fun t => t.strataAdd t.lead 10 true 0xFF 0xFF (toBytes 8 d ++ toBytes 8 (s.regN (rMCSTAT d)))
      fatalSave
    runOp op s
  else .next s

end Sys2Proof.Machine
end

