-- ==== Sys2Proof/Machine/Events.lean ====
section
/-! DEFINITION. Machine/Events.lean: what each event of the agenda does: the meaning that exec gives the same event of the opcode
table, and the meanings of the other steps. -/

namespace Sys2Proof.Machine

/-- Run an event of the agenda. -/
def runEvent (e : Event) (s : State) : Host.Outcome State Fault Refusal :=
  match e with
  | .bundleIssue x => execBundleIssue x s
  | .blockRelease x => execBlockRelease x s
  | .gateTimeoutMark x => execGateTimeoutMark x s
  | .loadArrival x tok => execLoadArrival x tok s
  | .accessRefusal x tok reason => execAccessRefusal x tok reason s
  | .deferredTrap x => execDeferredTrap x s
  | .heartbeatExpiry c => execHeartbeatExpiry c s
  | .contextRetire x => execContextRetire x s
  | .taskDispatch d => execTaskDispatch d s
  | .taskDecrement n => execTaskDecrement n s
  | .taskCancellation n => execTaskCancellation n s
  | .regionAdmit r => execRegionAdmit r s
  | .partitionPreempt r d => execPartitionPreempt r d s
  | .partitionSwapOut r d => execPartitionSwapOut r d s
  | .partitionSwapIn r d => execPartitionSwapIn r d s
  | .barrierArrival pa act => execBarrierArrival pa act s
  | .mCommandPerform c => execMCommandPerform c s
  | .mmaRetirement c => execMmaRetirement c s
  | .tCommandPerform c => execTCommandPerform c s
  | .fibreQueuePerform c => execFibreQueuePerform c s
  | .copyChunkWritten c n chunk => execCopyChunkWritten c n chunk s
  | .cringRoom c n => execCringRoom c n s
  | .publishExchange c n => execPublishExchange c n s
  | .updGateOpen c n => execUpdGateOpen c n s
  | .powerOn => execPowerOn s
  | .powerRemoval => execPowerRemoval s
  | .bootctlGo => execBootctlGo s
  | .warmReset => execWarmReset s
  | .extend i => execExtend i s
  | .heldExtend => execHeldExtend s
  | .attestation => execAttestation s
  | .extctlErrRead tag => execExtctlErrRead tag s
  | .throttleUpdate level reason => execThrottleUpdate level reason s
  | .mwr addr data => execMwr addr data s
  | .mrd addr len tag => execMrd addr len tag s
  | .dbell q tail => execDbell q tail s
  | .unknownMessageType type => execUnknownMessageType type s
  | .linkModuleDisable n => execLinkModuleDisable n s
  | .flitCrcFailure d => execFlitCrcFailure d s
  | .registerWrite off val => execRegisterWrite off val s
  | .qtailWrite q val => execQtailWrite q val s
  | .launch q => execLaunch q s
  | .post q => execPost q s
  | .marker q => execMarker q s
  | .queueEntryBadOp q => execQueueEntryBadOp q s
  | .queueCompletion n => execQueueCompletion n s
  | .qctlTeardown q => execQctlTeardown q s
  | .qctlReset q => execQctlReset q s
  | .frovfRead tag => execFrovfRead tag s
  | .resumeContext val => execResumeContext val s
  | .resumeCopy val => execResumeCopy val s
  | .resumeAll val => execResumeAll val s
  | .tlbinvPage d val => execTlbinvPage d val s
  | .tlbinvAsid d val => execTlbinvAsid d val s
  | .tlbinvAll d val => execTlbinvAll d val s
  | .tlbinvDone d => execTlbinvDone d s
  | .suspend => execSuspend s
  | .unsuspend => execUnsuspend s
  | .stopmark => execStopmark s
  | .stopmarkContextStop x => execStopmarkContextStop x s
  | .save => execSave s
  | .restore => execRestore s
  | .ldtctlDrop ldie => execLdtctlDrop ldie s
  | .ldtctlDropAll => execLdtctlDropAll s
  | .ldtctlDone => execLdtctlDone s
  | .diePowerUp d => execDiePowerUp d s
  | .diePowerDown d => execDiePowerDown d s
  | .strataDump => execStrataDump s
  | .telclr => execTelclr s
  | .dieLoss d => execDieLoss d s
  | .cheadWrite q val => execCheadWrite q val s
  | .corePowerGating c => execCorePowerGating c s
  | .registerRead off tag => registerRead off tag s
  | .reportWritten => reportWritten s
  | .firmwareExtend i digest => firmwareExtend i digest s
  | .mcoreEcc d => mcoreEcc d s
  | .mcoreHalt d => mcoreHalt d s
  | .upset w double => upset w double s
  | .arrayUpset row double => arrayUpset row double s

end Sys2Proof.Machine
end

