-- ==== Sys2Proof/Machine/Place.lean ====
section
/-! DEFINITION. Machine/Place.lean: an instruction placed where the next step fetches it (log 4). -/

namespace Sys2Proof.Machine

/-- The header of a bundle that holds one slot (R111). -/
def oneSlotHeader (slot : Nat) : Nat := 0xF0000000 + 2 ^ (27 - slot)

/-- The bytes of a bundle that holds one instruction, given by its bits, in the slot of its major (R111, R115). -/
def oneSlotBytes (w : Nat) : List Byte :=
  toBytes 4 (oneSlotHeader (slotOfMajor (fld w 31 28) (bitAt w 27))) ++ toBytes 8 w

/-- The context of the issue in progress as it stands before the bundle at core-local address 0. -/
def Ctx.placed (c : Ctx) : Ctx :=
  { c with state := .running, why := .none, pc := 0, j := 0, slot := 0, ended := false, jumped := false,
           deferred := [], arrived := false, blocked := false, stopped := false, seif := 0 }

/-- Place one instruction's bundle at core-local address 0 of the core of the issue in progress, with the context of that issue
about to fetch it: the core's instruction store holds nothing, and the next step is the issue of that bundle. -/
def State.placeWord (s : State) (w : Nat) : State :=
  let x := s.cur.x
  let k := coreOf x
  let s := s.write (scratchBase k) (oneSlotBytes w)
  let s := s.modCore k fun c =>
    { c with issuing := x % 4, istore := [], halting := false, gated := false }
  { s.modCtx x Ctx.placed with agenda := [.bundleIssue x] }

end Sys2Proof.Machine
end

