-- ==== Sys2Proof/Machine/Schedule.lean ====
section
/-! DEFINITION. Machine/Schedule.lean: which event comes next, and the passing of time (log 3, log 6). The agents of the machine
act in an order that the spec leaves open; the agenda names it, and where it names nothing the first event of a fixed list
that changes the state comes next. -/

namespace Sys2Proof.Machine

/-! ### Time -/

/-- The heartbeat timer of a core counts (R45): a region is resident, and a context is READY, RUNNING or DRAINING. -/
def State.hbCounts (s : State) (k : Nat) : Bool :=
  (s.core k).region != 0 && (upTo 4).any fun i =>
    let st := (s.ctx (4 * k + i)).state
    st == .ready || st == .running || st == .draining

/-- The cycles of a step pass (log 6): the module's count, the heartbeat timers in use, and the cycles withheld by throttling. -/
def State.tick (s : State) : State :=
  let n := Config.stepCycles s.fresh
  let level := s.regF rTHROT 19 16
  let s' := { s with
    time := s.time + n
    fresh := s.fresh + 1
    cores := s.cores.map fun (k, c) =>
      if c.hbp != 0 && s.hbCounts k then (k, { c with hbTimer := c.hbTimer + n }) else (k, c) }
  if level == 0 then s'
  else (upTo 9).foldl (fun t d =>
    if s.dieActive d then
      t.setReg (rTEL d telTHROTCYC) (n64 (min (2 ^ 64 - 1) (t.regN (rTEL d telTHROTCYC) + (s.withheld + n * level) / 16)))
    else t) { s' with withheld := (s.withheld + n * level) % 16 }

/-! ### The default order -/

/-- Steps of the module's own logic. -/
def State.moduleEvents (s : State) : List Event :=
  (if s.power && s.atRom then [.powerOn] else []) ++ (if s.heldExtend.isEmpty then [] else [.heldExtend]) ++
    (if s.attSnap.isSome then [.reportWritten] else []) ++
    ((upTo 9).filter fun d => bitAt (s.regN (rTLBINV d)) 0).map Event.tlbinvDone ++
    (if bitAt (s.regN rLDTCTL) 0 then [.ldtctlDone] else []) ++
    (s.msgs.filter (!·.held)).flatMap fun m => [.taskDecrement m.id, .taskCancellation m.id]

/-- Steps that concern one context. -/
def State.ctxEvents (s : State) (x : Nat) : List Event :=
  let c := s.ctx x
  c.arrivals.map (fun a => Event.loadArrival x a.tok) ++ (if s.gateDue x then [.gateTimeoutMark x] else []) ++
    (match c.state with
     | .blocked => [.blockRelease x]
     | .draining => [.deferredTrap x, .contextRetire x]
     | _ => [])

/-- Steps of one core's units. -/
def State.coreEvents (s : State) (k : Nat) : List Event :=
  let c := s.core k
  (if c.hbDue then [.heartbeatExpiry k] else []) ++ (if c.fq.isEmpty then [] else [.fibreQueuePerform k]) ++
    (if c.mrun.isSome then [.mmaRetirement k] else []) ++ (if c.mq.isEmpty then [] else [.mCommandPerform k]) ++
    (if c.tq.isEmpty then [] else [.tCommandPerform k]) ++
    c.copies.flatMap fun p =>
      [.cringRoom k p.id, .publishExchange k p.id] ++ (if s.updReady k p then [.updGateOpen k p.id] else []) ++
        (((upTo p.chunks).find? fun n => s.chunkReady k p n).toList.map fun n => .copyChunkWritten k p.id n)

/-- Steps of the region scheduler, the task schedulers and the host queues. -/
def State.schedulerEvents (s : State) : List Event :=
  s.regions.flatMap (fun r => if r.state == .waiting then [Event.regionAdmit r.id] else
    (upTo 9).flatMap fun d => [Event.partitionSwapOut r.id d, Event.partitionSwapIn r.id d]) ++
    (if s.tasks.isEmpty then [] else (upTo 9).map Event.taskDispatch) ++ s.queue.map (fun e => Event.queueCompletion e.id) ++
    ((upTo 64).filter s.qReads).flatMap fun q => [.launch q, .post q, .marker q, .queueEntryBadOp q]

/-- Bundle issues, the contexts after the one that issued last first. -/
def State.issueEvents (s : State) : List Event :=
  let l := (s.ctxs.map (·.1)).filter s.issues
  ((l.filter (s.cur.x < ·)) ++ l.filter (· ≤ s.cur.x)).map Event.bundleIssue

/-- The steps that the machine may take of itself, in the default order. -/
def State.candidateEvents (s : State) : List Event :=
  s.moduleEvents ++ s.ctxs.flatMap (fun (x, _) => s.ctxEvents x) ++ s.cores.flatMap (fun (k, _) => s.coreEvents k) ++
    s.schedulerEvents ++ s.issueEvents

/-- An event changes the state, or stops the machine. -/
def changes (s : State) (e : Event) : Bool :=
  match runEvent e s with
  | .next s' => s' != s
  | _ => true

/-- The event that comes next by default. -/
def State.nextEvent (s : State) : Option Event := s.candidateEvents.find? (changes s)

/-- One step of the machine: the next event of the agenda, or the default one; where there is none, time passes. -/
def stepNext (s : State) : Host.Outcome State Fault Refusal :=
  match s.agenda with
  | e :: rest => onNext (runEvent e { s with agenda := rest }) fun t => .next t.tick
  | [] =>
    match s.nextEvent with
    | some e => onNext (runEvent e s) fun t => .next t.tick
    | none => .next s.tick

end Sys2Proof.Machine
end

