-- ==== Sys2Proof/Machine/Step.lean ====
section
/-! DEFINITION. Machine/Step.lean: one step of the machine, and the placing of an instruction where it is fetched next. -/

namespace Sys2Proof.Machine

/-- One step of the machine (log 3): the next event that the agenda names or, where it names none, the default one. -/
def step (s : State) : Host.Outcome State Fault Refusal := stepNext s

/-- A state with an instruction, given by its bits, stored where `step` fetches its next one (log 4). -/
def State.withFetchWord (s : State) (nbits w : Nat) : State := s.placeWord (w % 2 ^ nbits)

end Sys2Proof.Machine
end

