-- ==== Sys2Proof/Machine/Dispatch.lean ====
section
/-! DEFINITION. Machine/Dispatch.lean: the meaning of every instruction of the opcode table, one arm each. -/

namespace Sys2Proof.Machine

def exec (i : Instr) (s : State) : Host.Outcome State Fault Refusal :=
  match i with
  | .sNop => Sys2Proof.Machine.execSNop s
  | .add r => Sys2Proof.Machine.execAdd r s
  | .sub r => Sys2Proof.Machine.execSub r s
  | .mul r => Sys2Proof.Machine.execMul r s
  | .mulh r => Sys2Proof.Machine.execMulh r s
  | .mulhu r => Sys2Proof.Machine.execMulhu r s
  | .div r => Sys2Proof.Machine.execDiv r s
  | .divu r => Sys2Proof.Machine.execDivu r s
  | .rem r => Sys2Proof.Machine.execRem r s
  | .remu r => Sys2Proof.Machine.execRemu r s
  | .and r => Sys2Proof.Machine.execAnd r s
  | .or r => Sys2Proof.Machine.execOr r s
  | .xor r => Sys2Proof.Machine.execXor r s
  | .andn r => Sys2Proof.Machine.execAndn r s
  | .shl r => Sys2Proof.Machine.execShl r s
  | .shr r => Sys2Proof.Machine.execShr r s
  | .sra r => Sys2Proof.Machine.execSra r s
  | .min r => Sys2Proof.Machine.execMin r s
  | .max r => Sys2Proof.Machine.execMax r s
  | .minu r => Sys2Proof.Machine.execMinu r s
  | .maxu r => Sys2Proof.Machine.execMaxu r s
  | .clz r => Sys2Proof.Machine.execClz r s
  | .ctz r => Sys2Proof.Machine.execCtz r s
  | .popc r => Sys2Proof.Machine.execPopc r s
  | .mov r => Sys2Proof.Machine.execMov r s
  | .bfx r => Sys2Proof.Machine.execBfx r s
  | .bfi r => Sys2Proof.Machine.execBfi r s
  | .cmp cc r => Sys2Proof.Machine.execCmp cc r s
  | .csel r => Sys2Proof.Machine.execCsel r s
  | .addImmediate r => Sys2Proof.Machine.execAddImmediate r s
  | .subImmediate r => Sys2Proof.Machine.execSubImmediate r s
  | .mulImmediate r => Sys2Proof.Machine.execMulImmediate r s
  | .andImmediate r => Sys2Proof.Machine.execAndImmediate r s
  | .orImmediate r => Sys2Proof.Machine.execOrImmediate r s
  | .xorImmediate r => Sys2Proof.Machine.execXorImmediate r s
  | .andnImmediate r => Sys2Proof.Machine.execAndnImmediate r s
  | .shlImmediate r => Sys2Proof.Machine.execShlImmediate r s
  | .shrImmediate r => Sys2Proof.Machine.execShrImmediate r s
  | .sraImmediate r => Sys2Proof.Machine.execSraImmediate r s
  | .minImmediate r => Sys2Proof.Machine.execMinImmediate r s
  | .maxImmediate r => Sys2Proof.Machine.execMaxImmediate r s
  | .minuImmediate r => Sys2Proof.Machine.execMinuImmediate r s
  | .maxuImmediate r => Sys2Proof.Machine.execMaxuImmediate r s
  | .cmpImmediate cc r => Sys2Proof.Machine.execCmpImmediate cc r s
  | .li r => Sys2Proof.Machine.execLi r s
  | .lih r => Sys2Proof.Machine.execLih r s
  | .la r => Sys2Proof.Machine.execLa r s
  | .br r => Sys2Proof.Machine.execBr r s
  | .call r => Sys2Proof.Machine.execCall r s
  | .bc cc r => Sys2Proof.Machine.execBc cc r s
  | .jr r => Sys2Proof.Machine.execJr r s
  | .callr r => Sys2Proof.Machine.execCallr r s
  | .ret r => Sys2Proof.Machine.execRet r s
  | .ldB r => Sys2Proof.Machine.execLdB r s
  | .ldBu r => Sys2Proof.Machine.execLdBu r s
  | .ldH r => Sys2Proof.Machine.execLdH r s
  | .ldHu r => Sys2Proof.Machine.execLdHu r s
  | .ldW r => Sys2Proof.Machine.execLdW r s
  | .ldWu r => Sys2Proof.Machine.execLdWu r s
  | .ldD r => Sys2Proof.Machine.execLdD r s
  | .stB r => Sys2Proof.Machine.execStB r s
  | .stH r => Sys2Proof.Machine.execStH r s
  | .stW r => Sys2Proof.Machine.execStW r s
  | .stD r => Sys2Proof.Machine.execStD r s
  | .atopAdd r => Sys2Proof.Machine.execAtopAdd r s
  | .atopAnd r => Sys2Proof.Machine.execAtopAnd r s
  | .atopOr r => Sys2Proof.Machine.execAtopOr r s
  | .atopXor r => Sys2Proof.Machine.execAtopXor r s
  | .atopMin r => Sys2Proof.Machine.execAtopMin r s
  | .atopMax r => Sys2Proof.Machine.execAtopMax r s
  | .atopSub r => Sys2Proof.Machine.execAtopSub r s
  | .atswp r => Sys2Proof.Machine.execAtswp r s
  | .atcas r => Sys2Proof.Machine.execAtcas r s
  | .atfadd r => Sys2Proof.Machine.execAtfadd r s
  | .atadds r => Sys2Proof.Machine.execAtadds r s
  | .fence r => Sys2Proof.Machine.execFence r s
  | .waitm r => Sys2Proof.Machine.execWaitm r s
  | .barrive r => Sys2Proof.Machine.execBarrive r s
  | .barriveExt r e => Sys2Proof.Machine.execBarriveExt r e s
  | .bexpect r => Sys2Proof.Machine.execBexpect r s
  | .bexpectExt r e => Sys2Proof.Machine.execBexpectExt r e s
  | .bwait r => Sys2Proof.Machine.execBwait r s
  | .bwaitExt r e => Sys2Proof.Machine.execBwaitExt r e s
  | .btest r => Sys2Proof.Machine.execBtest r s
  | .btestExt r e => Sys2Proof.Machine.execBtestExt r e s
  | .tkget r => Sys2Proof.Machine.execTkget r s
  | .tkpost r => Sys2Proof.Machine.execTkpost r s
  | .tkdone r => Sys2Proof.Machine.execTkdone r s
  | .trap => Sys2Proof.Machine.execTrap s
  | .trapExt r => Sys2Proof.Machine.execTrapExt r s
  | .tret => Sys2Proof.Machine.execTret s
  | .crd r => Sys2Proof.Machine.execCrd r s
  | .cwr r => Sys2Proof.Machine.execCwr r s
  | .hbeat => Sys2Proof.Machine.execHbeat s
  | .yield => Sys2Proof.Machine.execYield s
  | .vadd r => Sys2Proof.Machine.execVadd r s
  | .vsub r => Sys2Proof.Machine.execVsub r s
  | .vmul r => Sys2Proof.Machine.execVmul r s
  | .vmulh r => Sys2Proof.Machine.execVmulh r s
  | .vmin r => Sys2Proof.Machine.execVmin r s
  | .vmax r => Sys2Proof.Machine.execVmax r s
  | .vabs r => Sys2Proof.Machine.execVabs r s
  | .vand r => Sys2Proof.Machine.execVand r s
  | .vor r => Sys2Proof.Machine.execVor r s
  | .vxor r => Sys2Proof.Machine.execVxor r s
  | .vandn r => Sys2Proof.Machine.execVandn r s
  | .vshl r => Sys2Proof.Machine.execVshl r s
  | .vshr r => Sys2Proof.Machine.execVshr r s
  | .vsra r => Sys2Proof.Machine.execVsra r s
  | .vfadd r => Sys2Proof.Machine.execVfadd r s
  | .vfsub r => Sys2Proof.Machine.execVfsub r s
  | .vfmul r => Sys2Proof.Machine.execVfmul r s
  | .vfma r => Sys2Proof.Machine.execVfma r s
  | .vfms r => Sys2Proof.Machine.execVfms r s
  | .vfmin r => Sys2Proof.Machine.execVfmin r s
  | .vfmax r => Sys2Proof.Machine.execVfmax r s
  | .vrcp r => Sys2Proof.Machine.execVrcp r s
  | .vrsq r => Sys2Proof.Machine.execVrsq r s
  | .vexp2 r => Sys2Proof.Machine.execVexp2 r s
  | .vlog2 r => Sys2Proof.Machine.execVlog2 r s
  | .vcmp cc r => Sys2Proof.Machine.execVcmp cc r s
  | .vfcmp cc r => Sys2Proof.Machine.execVfcmp cc r s
  | .vNop => Sys2Proof.Machine.execVNop s
  | .pand r => Sys2Proof.Machine.execPand r s
  | .por r => Sys2Proof.Machine.execPor r s
  | .pxor r => Sys2Proof.Machine.execPxor r s
  | .pnot r => Sys2Proof.Machine.execPnot r s
  | .ppop r => Sys2Proof.Machine.execPpop r s
  | .pfirst r => Sys2Proof.Machine.execPfirst r s
  | .vcvt r => Sys2Proof.Machine.execVcvt r s
  | .vsxpack r => Sys2Proof.Machine.execVsxpack r s
  | .vsxunpack r => Sys2Proof.Machine.execVsxunpack r s
  | .vperm r => Sys2Proof.Machine.execVperm r s
  | .vshuf r => Sys2Proof.Machine.execVshuf r s
  | .vbcast r => Sys2Proof.Machine.execVbcast r s
  | .vmovs r => Sys2Proof.Machine.execVmovs r s
  | .vsel r => Sys2Proof.Machine.execVsel r s
  | .vcompress r => Sys2Proof.Machine.execVcompress r s
  | .vexpand r => Sys2Proof.Machine.execVexpand r s
  | .vred r => Sys2Proof.Machine.execVred r s
  | .vscan r => Sys2Proof.Machine.execVscan r s
  | .vtopk r => Sys2Proof.Machine.execVtopk r s
  | .vlpmul r => Sys2Proof.Machine.execVlpmul r s
  | .vlpadd r => Sys2Proof.Machine.execVlpadd r s
  | .vlpmax r => Sys2Proof.Machine.execVlpmax r s
  | .vlpdiv r => Sys2Proof.Machine.execVlpdiv r s
  | .vlpcvt r => Sys2Proof.Machine.execVlpcvt r s
  | .vlpsplit r => Sys2Proof.Machine.execVlpsplit r s
  | .vlpjoin r => Sys2Proof.Machine.execVlpjoin r s
  | .vrand r => Sys2Proof.Machine.execVrand r s
  | .vld r => Sys2Proof.Machine.execVld r s
  | .vst r => Sys2Proof.Machine.execVst r s
  | .vlds r => Sys2Proof.Machine.execVlds r s
  | .vsts r => Sys2Proof.Machine.execVsts r s
  | .vgath r => Sys2Proof.Machine.execVgath r s
  | .vscat r => Sys2Proof.Machine.execVscat r s
  | .vldb r => Sys2Proof.Machine.execVldb r s
  | .fNop => Sys2Proof.Machine.execFNop s
  | .fopen r => Sys2Proof.Machine.execFopen r s
  | .fopenExt r e => Sys2Proof.Machine.execFopenExt r e s
  | .fnext r => Sys2Proof.Machine.execFnext r s
  | .fskip r => Sys2Proof.Machine.execFskip r s
  | .fisect r => Sys2Proof.Machine.execFisect r s
  | .funion r => Sys2Proof.Machine.execFunion r s
  | .fmerge r => Sys2Proof.Machine.execFmerge r s
  | .fldv r => Sys2Proof.Machine.execFldv r s
  | .fcrd r => Sys2Proof.Machine.execFcrd r s
  | .femit r => Sys2Proof.Machine.execFemit r s
  | .fstat r => Sys2Proof.Machine.execFstat r s
  | .fsave r => Sys2Proof.Machine.execFsave r s
  | .frest r => Sys2Proof.Machine.execFrest r s
  | .fclose r => Sys2Proof.Machine.execFclose r s
  | .xNop => Sys2Proof.Machine.execXNop s
  | .xscale r => Sys2Proof.Machine.execXscale r s
  | .xexpv r => Sys2Proof.Machine.execXexpv r s
  | .xfix r => Sys2Proof.Machine.execXfix r s
  | .xcvt r => Sys2Proof.Machine.execXcvt r s
  | .hNop => Sys2Proof.Machine.execHNop s
  | .hld r => Sys2Proof.Machine.execHld r s
  | .hldExt r e => Sys2Proof.Machine.execHldExt r e s
  | .hst r => Sys2Proof.Machine.execHst r s
  | .hstExt r e => Sys2Proof.Machine.execHstExt r e s
  | .hset r => Sys2Proof.Machine.execHset r s
  | .hfence r => Sys2Proof.Machine.execHfence r s
  | .mNop => Sys2Proof.Machine.execMNop s
  | .acalloc r => Sys2Proof.Machine.execAcalloc r s
  | .acfree r => Sys2Proof.Machine.execAcfree r s
  | .acgrant r => Sys2Proof.Machine.execAcgrant r s
  | .aczero r => Sys2Proof.Machine.execAczero r s
  | .acrd r => Sys2Proof.Machine.execAcrd r s
  | .acrdSt r => Sys2Proof.Machine.execAcrdSt r s
  | .acwr r => Sys2Proof.Machine.execAcwr r s
  | .mmaBf16 r => Sys2Proof.Machine.execMmaBf16 r s
  | .mmaFp16 r => Sys2Proof.Machine.execMmaFp16 r s
  | .mmaE4m3 r => Sys2Proof.Machine.execMmaE4m3 r s
  | .mmaE5m2 r => Sys2Proof.Machine.execMmaE5m2 r s
  | .mmaInt8 r => Sys2Proof.Machine.execMmaInt8 r s
  | .mmaSx8 r => Sys2Proof.Machine.execMmaSx8 r s
  | .mmaSx5 r => Sys2Proof.Machine.execMmaSx5 r s
  | .mmaSx3 r => Sys2Proof.Machine.execMmaSx3 r s
  | .mcntInt4 r => Sys2Proof.Machine.execMcntInt4 r s
  | .mcntE2m1 r => Sys2Proof.Machine.execMcntE2m1 r s
  | .nclr r => Sys2Proof.Machine.execNclr r s
  | .nmerge r => Sys2Proof.Machine.execNmerge r s
  | .ndump r => Sys2Proof.Machine.execNdump r s
  | .nload r => Sys2Proof.Machine.execNload r s
  | .ndrain r => Sys2Proof.Machine.execNdrain r s
  | .nchk r => Sys2Proof.Machine.execNchk r s
  | .rgset r => Sys2Proof.Machine.execRgset r s
  | .cNop => Sys2Proof.Machine.execCNop s
  | .copy r => Sys2Proof.Machine.execCopy r s
  | .copyExt r e => Sys2Proof.Machine.execCopyExt r e s
  | .copyt r => Sys2Proof.Machine.execCopyt r s
  | .copytExt r e => Sys2Proof.Machine.execCopytExt r e s
  | .cgath r => Sys2Proof.Machine.execCgath r s
  | .cscat r => Sys2Proof.Machine.execCscat r s
  | .cred r => Sys2Proof.Machine.execCred r s
  | .credExt r e => Sys2Proof.Machine.execCredExt r e s
  | .cring r => Sys2Proof.Machine.execCring r s
  | .cringExt r e => Sys2Proof.Machine.execCringExt r e s
  | .cwait r => Sys2Proof.Machine.execCwait r s
  | .ctest r => Sys2Proof.Machine.execCtest r s
  | .publish r => Sys2Proof.Machine.execPublish r s
  | .upd r => Sys2Proof.Machine.execUpd r s
  | .tNop => Sys2Proof.Machine.execTNop s
  | .tmode r => Sys2Proof.Machine.execTmode r s
  | .tevid r => Sys2Proof.Machine.execTevid r s
  | .tseed r => Sys2Proof.Machine.execTseed r s
  | .tfwd r => Sys2Proof.Machine.execTfwd r s
  | .tfwdExt r e => Sys2Proof.Machine.execTfwdExt r e s
  | .trev r => Sys2Proof.Machine.execTrev r s
  | .trevExt r e => Sys2Proof.Machine.execTrevExt r e s
  | .tsamp r => Sys2Proof.Machine.execTsamp r s
  | .targm r => Sys2Proof.Machine.execTargm r s
  | .tratio r => Sys2Proof.Machine.execTratio r s
  | .twclr r => Sys2Proof.Machine.execTwclr r s
  | .tstat r => Sys2Proof.Machine.execTstat r s
  | .hint w => Sys2Proof.Machine.execHint w s
  | .hintExt w x => Sys2Proof.Machine.execHintExt w x s
  | .bundleIssue x => Sys2Proof.Machine.execBundleIssue x s
  | .blockRelease x => Sys2Proof.Machine.execBlockRelease x s
  | .gateTimeoutMark x => Sys2Proof.Machine.execGateTimeoutMark x s
  | .loadArrival x tok => Sys2Proof.Machine.execLoadArrival x tok s
  | .accessRefusal x tok reason => Sys2Proof.Machine.execAccessRefusal x tok reason s
  | .deferredTrap x => Sys2Proof.Machine.execDeferredTrap x s
  | .heartbeatExpiry c => Sys2Proof.Machine.execHeartbeatExpiry c s
  | .contextRetire x => Sys2Proof.Machine.execContextRetire x s
  | .taskDispatch d => Sys2Proof.Machine.execTaskDispatch d s
  | .taskDecrement n => Sys2Proof.Machine.execTaskDecrement n s
  | .taskCancellation n => Sys2Proof.Machine.execTaskCancellation n s
  | .regionAdmit r => Sys2Proof.Machine.execRegionAdmit r s
  | .partitionPreempt r d => Sys2Proof.Machine.execPartitionPreempt r d s
  | .partitionSwapOut r d => Sys2Proof.Machine.execPartitionSwapOut r d s
  | .partitionSwapIn r d => Sys2Proof.Machine.execPartitionSwapIn r d s
  | .barrierArrival pa act => Sys2Proof.Machine.execBarrierArrival pa act s
  | .mCommandPerform c => Sys2Proof.Machine.execMCommandPerform c s
  | .mmaRetirement c => Sys2Proof.Machine.execMmaRetirement c s
  | .tCommandPerform c => Sys2Proof.Machine.execTCommandPerform c s
  | .fibreQueuePerform c => Sys2Proof.Machine.execFibreQueuePerform c s
  | .copyChunkWritten c n chunk => Sys2Proof.Machine.execCopyChunkWritten c n chunk s
  | .cringRoom c n => Sys2Proof.Machine.execCringRoom c n s
  | .publishExchange c n => Sys2Proof.Machine.execPublishExchange c n s
  | .updGateOpen c n => Sys2Proof.Machine.execUpdGateOpen c n s
  | .powerOn => Sys2Proof.Machine.execPowerOn s
  | .powerRemoval => Sys2Proof.Machine.execPowerRemoval s
  | .bootctlGo => Sys2Proof.Machine.execBootctlGo s
  | .warmReset => Sys2Proof.Machine.execWarmReset s
  | .extend k => Sys2Proof.Machine.execExtend k s
  | .heldExtend => Sys2Proof.Machine.execHeldExtend s
  | .attestation => Sys2Proof.Machine.execAttestation s
  | .extctlErrRead tag => Sys2Proof.Machine.execExtctlErrRead tag s
  | .throttleUpdate level reason => Sys2Proof.Machine.execThrottleUpdate level reason s
  | .mwr addr data => Sys2Proof.Machine.execMwr addr data s
  | .mrd addr len tag => Sys2Proof.Machine.execMrd addr len tag s
  | .dbell q tail => Sys2Proof.Machine.execDbell q tail s
  | .unknownMessageType type => Sys2Proof.Machine.execUnknownMessageType type s
  | .linkModuleDisable n => Sys2Proof.Machine.execLinkModuleDisable n s
  | .flitCrcFailure d => Sys2Proof.Machine.execFlitCrcFailure d s
  | .registerWrite off val => Sys2Proof.Machine.execRegisterWrite off val s
  | .qtailWrite q val => Sys2Proof.Machine.execQtailWrite q val s
  | .launch q => Sys2Proof.Machine.execLaunch q s
  | .post q => Sys2Proof.Machine.execPost q s
  | .marker q => Sys2Proof.Machine.execMarker q s
  | .queueEntryBadOp q => Sys2Proof.Machine.execQueueEntryBadOp q s
  | .queueCompletion n => Sys2Proof.Machine.execQueueCompletion n s
  | .qctlTeardown q => Sys2Proof.Machine.execQctlTeardown q s
  | .qctlReset q => Sys2Proof.Machine.execQctlReset q s
  | .frovfRead tag => Sys2Proof.Machine.execFrovfRead tag s
  | .resumeContext val => Sys2Proof.Machine.execResumeContext val s
  | .resumeCopy val => Sys2Proof.Machine.execResumeCopy val s
  | .resumeAll val => Sys2Proof.Machine.execResumeAll val s
  | .tlbinvPage d val => Sys2Proof.Machine.execTlbinvPage d val s
  | .tlbinvAsid d val => Sys2Proof.Machine.execTlbinvAsid d val s
  | .tlbinvAll d val => Sys2Proof.Machine.execTlbinvAll d val s
  | .tlbinvDone d => Sys2Proof.Machine.execTlbinvDone d s
  | .suspend => Sys2Proof.Machine.execSuspend s
  | .unsuspend => Sys2Proof.Machine.execUnsuspend s
  | .stopmark => Sys2Proof.Machine.execStopmark s
  | .stopmarkContextStop x => Sys2Proof.Machine.execStopmarkContextStop x s
  | .save => Sys2Proof.Machine.execSave s
  | .restore => Sys2Proof.Machine.execRestore s
  | .ldtctlDrop ldie => Sys2Proof.Machine.execLdtctlDrop ldie s
  | .ldtctlDropAll => Sys2Proof.Machine.execLdtctlDropAll s
  | .ldtctlDone => Sys2Proof.Machine.execLdtctlDone s
  | .diePowerUp d => Sys2Proof.Machine.execDiePowerUp d s
  | .diePowerDown d => Sys2Proof.Machine.execDiePowerDown d s
  | .strataDump => Sys2Proof.Machine.execStrataDump s
  | .telclr => Sys2Proof.Machine.execTelclr s
  | .dieLoss d => Sys2Proof.Machine.execDieLoss d s
  | .cheadWrite q val => Sys2Proof.Machine.execCheadWrite q val s
  | .corePowerGating c => Sys2Proof.Machine.execCorePowerGating c s

end Sys2Proof.Machine
end

