-- ==== Sys2Proof/Safety.lean ====
section
/-! DEFINITION. Safety.lean: what a safe run is: no step of it faults or is refused, and memory and the fields that R6 and R46 fix
keep their form. -/

namespace Sys2Proof.Safety

open Sys2Proof.Machine

/-- A step answers a next state. -/
def stepsOn (s : State) : Bool :=
  match step s with
  | .next _ => true
  | _ => false

/-- The next `n` steps answer next states. -/
def safeFor : Nat → State → Bool
  | 0, _ => true
  | n + 1, s =>
    match step s with
    | .next t => safeFor n t
    | _ => false

/-- The form that every step keeps: memory is in its canonical form. -/
def Inv (s : State) : Prop := s.mem.wf = true

/-- The issue of the cursor is one in which nothing but its operation acts: no H-slot write is pending (R213), the store gate and
the register shadow have room for any operation (R126), and it is not the last issue of an end bundle (R41). -/
structure Plain (s : State) : Prop where
  hPend : s.cctx.live.hPend = []
  gate : s.cctx.gate.length ≤ 63
  shadow : s.cctx.vSince.length ≤ 62
  going : s.cur.isEnd = true → s.cur.j < s.cur.rep

/-- Moreover a mark of the context has nothing to do but to record: nothing is gated or held, and the fibre queue holds
nothing of it (R126). -/
structure Quiet (s : State) : Prop extends Plain s where
  ungated : s.cctx.gate = []
  unheld : s.cctx.heldX = []
  unqueued : ∀ c ∈ s.ccore.fq, c.x ≠ s.cur.x

/-- The s and v registers that an operation reads are full (R121). -/
def full (s : State) (l : List Source) : Prop := ∀ r ∈ l, s.cctx.live.isEmpty r = false

/-- The operation's tile predicate holds a 1 for its issue index, or it has none (R119). -/
def tileOn (s : State) (i : Instr) : Prop := s.cctx.live.tileOff i s.cur.k = false

/-! ### What an issue leaves as it was -/

/-- A live part without its s, v and p registers, without the armed slots, which every issue steps (R122), and without the counts
of issues (R113): the q, f and h registers, sw, rseed and ctr, and the pending H-slot writes remain. -/
def liveRest (l : Live) : Live :=
  { l with s := [], sWait := [], v := [], vWait := [], p := [], armed := [], nTask := 0, nHandler := 0 }

/-- A context without its live part, without where it stands and whether it issues, and without the count of v registers written
since its mark (R126): its mark, gate, values on their way, deferred traps, ports, bitmaps, tree, and control registers remain. -/
def ctxRest (c : Ctx) : Ctx :=
  { c with live := Live.init, state := .idle, why := .none, pc := 0, j := 0, slot := 0, ended := false, jumped := false,
           arrived := false, blocked := false, yielded := false, vSince := [] }

/-- Another context, apart from whether it issues: it may be released from YIELD (R37). -/
def ctxStill (c : Ctx) : Ctx := { c with state := .idle, why := .none, yielded := false }

/-- A core, apart from which of its contexts issues. -/
def coreRest (k : Core) : Core := { k with issuing := 4, last := 3 }

/-- A state without its contexts, its cores and its cursor. -/
def machineRest (s : State) : State := { s with ctxs := [], cores := [], cur := Cursor.init }

/-- What an instruction form writes beyond the s, v and p registers: whether it changes every armed slot,
functions that strike what it writes out of a live part, a context, the core and the machine, and the bytes of memory that it may
change. -/
structure Strike where
  arms : Bool := false
  live : Live → Live := id
  ctx : Ctx → Ctx := id
  core : Core → Core := id
  machine : State → State := id
  bytes : Nat → Prop := fun _ => False

/-- From `s` to `t`, the issuing context's registers other than those listed, and all else that is not struck out, are
unchanged, and so is every byte of memory outside those that the form stores to. -/
structure Keeps (e : Strike) (s t : State) (ds : List (BitVec 6)) (dv : List (BitVec 9)) (dp : List (BitVec 4)) : Prop where
  issuer : t.cur.x = s.cur.x
  sKept : ∀ r, r ∉ ds → t.cctx.live.sv r = s.cctx.live.sv r
  sFull : ∀ r, r ∉ ds → fget? t.cctx.live.sWait r.toNat = fget? s.cctx.live.sWait r.toNat
  vKept : ∀ r, r ∉ dv → t.cctx.live.vv r = s.cctx.live.vv r
  vFull : ∀ r, r ∉ dv → fget? t.cctx.live.vWait r.toNat = fget? s.cctx.live.vWait r.toNat
  pKept : ∀ r, r ∉ dp → t.cctx.live.pv r = s.cctx.live.pv r
  liveKept : e.live (liveRest t.cctx.live) = e.live (liveRest s.cctx.live)
  armedKept : e.arms = false → ∀ i, i ≠ s.cur.slot → t.cur.disarm = false → fget? t.cctx.live.armed i = fget? s.cctx.live.armed i
  ctxKept : e.ctx (ctxRest t.cctx) = e.ctx (ctxRest s.cctx)
  othersKept : ∀ y, y ≠ s.cur.x → ctxStill (t.ctx y) = ctxStill (s.ctx y)
  coreKept : e.core (coreRest t.ccore) = e.core (coreRest s.ccore)
  coresKept : ∀ k, k ≠ coreOf s.cur.x → t.core k = s.core k
  machineKept : e.machine (machineRest t) = e.machine (machineRest s)
  bytesKept : ∀ a, ¬ e.bytes a → t.byte a = s.byte a

end Sys2Proof.Safety
end

