-- ==== Sys2Proof/Certificates/Slice0/Obligations.lean ====
section
/-! DEFINITION. Certificates/Slice0/Obligations.lean: the statements for the provers. The definitions under Sys2Proof.Rules write
what a rule of the spec gives each instruction, apart from the machine's own definitions; each statement says that `exec` answers
that next state, and what it leaves as it was. -/

namespace Sys2Proof.Rules

open Sys2Proof.Machine Sys2Proof.Safety

/-! ### Forms of statements -/

/-- Where a context stands after an issue from which no branch is taken (R122). -/
def onward (k : Cursor) : Point := { k with target := none }.continuation

/-- A form that writes S[d], full, and nothing else but what `e` strikes out: a d of 0 discards (R120). -/
def WritesSX (e : Strike) (s : State) (i : Instr) (d : BitVec 6) (v : Word64) : Prop :=
  ∃ t, exec i s = .next t ∧ t.cctx.live.sv d = (if d = 0 then 0 else v) ∧
    (d ≠ 0 → fget? t.cctx.live.sWait d.toNat = none) ∧ t.cctx.point = onward s.cur ∧ Keeps e s t [d] [] []

/-- A form that writes S[d], full, and nothing else. -/
def WritesS (s : State) (i : Instr) (d : BitVec 6) (v : Word64) : Prop := WritesSX {} s i d v

/-- The registers of the issuing context at the start of the issue (R121). -/
abbrev regs (s : State) : Live := s.cctx.live

/-- The context goes on at a target, before a bundle reached by a branch (R124). -/
def atTarget (p : Word64) : Point := { pc := p, j := 0, slot := 0, ended := false, jumped := true }

/-- The context goes on at an address that is no branch target: a handler, or an instruction that is resumed (R51, R124). -/
def atEntry (p : Word64) : Point := { pc := p, j := 0, slot := 0, ended := false, jumped := false }

/-- A signed result in 64 bits. -/
def ofI (i : Int) : Word64 := BitVec.ofInt 64 i
/-- An unsigned result in 64 bits. -/
def ofN (n : Nat) : Word64 := BitVec.ofNat 64 n

/-- Strikes out the restart mark. -/
def noMark (c : Ctx) : Ctx := { c with mark := Mark.init }

/-- What a form that takes marks strikes out. -/
def marks : Strike := { ctx := noMark }

/-- The issue is one in which nothing but its operation acts, no operation waits for its end, and a mark has nothing to perform. -/
def Alone (s : State) : Prop := Quiet s ∧ s.cur.atEnd = none

/-- A synchronous trap enters the handler (R49, R50, R53): the context runs in task mode, and tv is set. -/
structure TrapReady (s : State) : Prop where
  alone : Alone s
  task : s.cctx.handler = false
  vector : s.cctx.ctl.tv ≠ 0
  running : s.cctx.state = .running
  slot : s.cur.slot ≤ 8
  left : s.cur.rep ≤ 15

/-- The bits of sw that hold SLOTRES and REPLEFT (R47). -/
def resumeBits : Word64 := 0x1FE000

/-- What trap entry strikes out beyond what a statement says of it: sw, the trap registers, the banked sticky state, the mark, and
the strata record. -/
def trapStrike : Strike :=
  { arms := true
    live := fun l => { l with sw := 0 }
    ctx := fun c => noMark { c with ctl := Control.init, banked := [], fromEnd := false }
    machine := fun s => { s with dies := [], seifs := [] } }

/-- An operation raises a synchronous trap at its slot, and trap entry performs as R50 has it; `sw` is the status word at the
trap. -/
def TrapsSw (s : State) (i : Instr) (cause : Nat) (info sw : Word64) : Prop :=
  ∃ t, exec i s = .next t ∧
    t.cctx.ctl.tcause = ofN (cause + 2 ^ 8 * s.cur.slot) ∧ t.cctx.ctl.tinfo = info ∧ t.cctx.ctl.tpc = s.cur.pc ∧
    fld t.cctx.ctl.tsw.toNat 16 13 = s.cur.slot ∧ fld t.cctx.ctl.tsw.toNat 20 17 = s.cur.rep - s.cur.j ∧
    t.cctx.ctl.tsw &&& ~~~resumeBits = sw &&& ~~~resumeBits ∧ t.cctx.live.sw = t.cctx.ctl.tsw ||| 4 ∧
    t.cctx.ctl.tv = s.cctx.ctl.tv ∧ t.cctx.ctl.tkeep0 = s.cctx.ctl.tkeep0 ∧ t.cctx.ctl.tkeep1 = s.cctx.ctl.tkeep1 ∧
    t.cctx.ctl.tkrec = s.cctx.ctl.tkrec ∧
    t.cctx.live.armed = [] ∧ (∀ n, n ≠ s.cur.slot → fget? t.cctx.banked n = fget? s.cctx.live.armed n) ∧
    t.cctx.point = atEntry s.cctx.ctl.tv ∧ t.cctx.mark.live = t.cctx.live ∧ t.cctx.mark.ctl = t.cctx.ctl ∧
    t.cctx.mark.pc = s.cctx.ctl.tv ∧
    Keeps trapStrike s t [] [] []

/-- A trap before which the operation has changed nothing. -/
def Traps (s : State) (i : Instr) (cause : Nat) (info : Word64) : Prop := TrapsSw s i cause info s.cctx.live.sw

/-- An operation blocks (R37): its context takes a mark before the issue and becomes BLOCKED, and nothing has performed. -/
def Blocks (s : State) (i : Instr) (why : BlockWhy) : Prop :=
  ∃ t, exec i s = .next t ∧ t.cctx.state = .blocked ∧ t.cctx.why = why ∧ t.cctx.point = s.cctx.point ∧
    t.cctx.mark.live = s.cctx.live ∧ t.cctx.mark.ctl = s.cctx.ctl ∧ t.cctx.mark.pc = s.cctx.pc ∧
    t.cctx.live.armed = s.cctx.live.armed ∧
    Keeps marks s t [] [] []

/-! ### Scalar integer operations -/

/-- The two sources of a register-register form. -/
def srcRR (r : RR) : List Source := [srcS r.a r.wa, srcS r.b r.wb]

/-- Division as R137 gives it: signed. -/
def quotS (a b : Int) : Int := if b = 0 then -1 else a.tdiv b
def remdS (a b : Int) : Int := if b = 0 then a else a - a.tdiv b * b
/-- And unsigned. -/
def quotU (a b : Nat) : Nat := if b = 0 then 2 ^ 64 - 1 else a / b
def remdU (a b : Nat) : Nat := if b = 0 then a else a % b

/-- A shift count: bits [5:0] of the second operand (R136). -/
def count (b : Word64) : Nat := b.toNat % 64

/-- The results of R136 and R137, as functions of S[a] and S[b]. -/
def binary (i : Instr) : Option (RR × (Word64 → Word64 → Word64)) :=
  match i with
  | .add r => some (r, fun a b => ofI (a.toInt + b.toInt))
  | .sub r => some (r, fun a b => ofI (a.toInt - b.toInt))
  | .mul r => some (r, fun a b => ofI (a.toInt * b.toInt))
  | .mulh r => some (r, fun a b => ofI (a.toInt * b.toInt / 2 ^ 64))
  | .mulhu r => some (r, fun a b => ofN (a.toNat * b.toNat / 2 ^ 64))
  | .div r => some (r, fun a b => ofI (quotS a.toInt b.toInt))
  | .divu r => some (r, fun a b => ofN (quotU a.toNat b.toNat))
  | .rem r => some (r, fun a b => ofI (remdS a.toInt b.toInt))
  | .remu r => some (r, fun a b => ofN (remdU a.toNat b.toNat))
  | .and r => some (r, fun a b => a &&& b)
  | .or r => some (r, fun a b => a ||| b)
  | .xor r => some (r, fun a b => a ^^^ b)
  | .andn r => some (r, fun a b => a &&& ~~~b)
  | .shl r => some (r, fun a b => ofN (a.toNat * 2 ^ count b))
  | .shr r => some (r, fun a b => ofN (a.toNat / 2 ^ count b))
  | .sra r => some (r, fun a b => ofI (a.toInt / 2 ^ count b))
  | .min r => some (r, fun a b => ofI (min a.toInt b.toInt))
  | .max r => some (r, fun a b => ofI (max a.toInt b.toInt))
  | .minu r => some (r, fun a b => ofN (min a.toNat b.toNat))
  | .maxu r => some (r, fun a b => ofN (max a.toNat b.toNat))
  | _ => none

end Sys2Proof.Rules

open Sys2Proof Sys2Proof.Machine Sys2Proof.Safety Sys2Proof.Rules

/-- R136, R137: each register-register operation writes its result, and nothing but S[d]. -/
def Obligations.ScalarBinaryResult : Prop :=
  ∀ (i : Instr) (r : RR) (f : Word64 → Word64 → Word64), binary i = some (r, f) →
    ∀ s : State, Plain s → full s (srcRR r) → WritesS s i r.d (f ((regs s).sv r.a) ((regs s).sv r.b))

namespace Sys2Proof.Rules

open Sys2Proof.Machine Sys2Proof.Safety

/-! ### Immediate forms, compares, selects, single operands and constants -/

/-- The immediate forms of R138, as functions of S[a] and of the sign-extended immediate. -/
def immediate (i : Instr) : Option (RI × (Word64 → Word64 → Word64)) :=
  match i with
  | .addImmediate r => some (r, fun a b => ofI (a.toInt + b.toInt))
  | .subImmediate r => some (r, fun a b => ofI (a.toInt - b.toInt))
  | .mulImmediate r => some (r, fun a b => ofI (a.toInt * b.toInt))
  | .andImmediate r => some (r, fun a b => a &&& b)
  | .orImmediate r => some (r, fun a b => a ||| b)
  | .xorImmediate r => some (r, fun a b => a ^^^ b)
  | .andnImmediate r => some (r, fun a b => a &&& ~~~b)
  | .shlImmediate r => some (r, fun a b => ofN (a.toNat * 2 ^ b.toNat))
  | .shrImmediate r => some (r, fun a b => ofN (a.toNat / 2 ^ b.toNat))
  | .sraImmediate r => some (r, fun a b => ofI (a.toInt / 2 ^ b.toNat))
  | .minImmediate r => some (r, fun a b => ofI (min a.toInt b.toInt))
  | .maxImmediate r => some (r, fun a b => ofI (max a.toInt b.toInt))
  | .minuImmediate r => some (r, fun a b => ofN (min a.toNat b.toNat))
  | .maxuImmediate r => some (r, fun a b => ofN (max a.toNat b.toNat))
  | _ => none

/-- The integer condition codes of R130, on the signed values of two operands and on their unsigned ones. -/
def ccHolds (cc : BitVec 4) (a b : Int) (u v : Nat) : Prop :=
  (cc = 0 ∧ u = v) ∨ (cc = 1 ∧ u ≠ v) ∨ (cc = 2 ∧ a < b) ∨ (cc = 3 ∧ b ≤ a) ∨ (cc = 4 ∧ b < a) ∨ (cc = 5 ∧ a ≤ b) ∨
    (cc = 6 ∧ u < v) ∨ (cc = 7 ∧ v ≤ u) ∨ (cc = 8 ∧ v < u) ∨ (cc = 9 ∧ u ≤ v)

/-- They on two words. -/
def holds (cc : BitVec 4) (a b : Word64) : Prop := ccHolds cc a.toInt b.toInt a.toNat b.toNat

/-- `n` is the number of zero bits of `a` above its highest one bit, or 64 where it has none (R139). -/
def leadingZeros (a : Word64) (n : Nat) : Prop :=
  n ≤ 64 ∧ (∀ k, k < n → a.getLsbD (63 - k) = false) ∧ (n < 64 → a.getLsbD (63 - n) = true)

/-- `n` is the number of zero bits of `a` below its lowest one bit, or 64 where it has none (R139). -/
def trailingZeros (a : Word64) (n : Nat) : Prop :=
  n ≤ 64 ∧ (∀ k, k < n → a.getLsbD k = false) ∧ (n < 64 → a.getLsbD n = true)

/-- The number of one bits among the lowest `n` bits. -/
def onesBelow (a : Word64) : Nat → Nat
  | 0 => 0
  | n + 1 => onesBelow a n + (if a.getLsbD n then 1 else 0)

/-- Bits [pos + w - 1 : pos] of `d` replaced by the low `w` bits of `a` (R139). -/
def inserted (a d : Word64) (pos w : Nat) : Word64 :=
  ofN (d.toNat - d.toNat / 2 ^ pos % 2 ^ w * 2 ^ pos + a.toNat % 2 ^ w * 2 ^ pos)

/-- The signed value of the 32-bit immediate of LI, LIH and LA (R141), given by bit 31 and bits [30:0]. -/
def i32 (top : Bool) (low : BitVec 31) : Int := (low.toNat : Int) - (if top then 2 ^ 31 else 0)

/-- And its unsigned value. -/
def u32 (top : Bool) (low : BitVec 31) : Nat := low.toNat + (if top then 2 ^ 31 else 0)

/-! ### Branches -/

/-- A branch that is taken: S[d] is the link where there is one, every slot is disarmed where `dis`, and nothing else. -/
def Branches (s : State) (i : Instr) (link : Option (BitVec 6)) (target : Word64) (dis : Bool) : Prop :=
  ∃ t, exec i s = .next t ∧ t.cctx.point = atTarget target ∧ t.cur.disarm = dis ∧ (dis = true → t.cctx.live.armed = []) ∧
    (∀ d, link = some d → t.cctx.live.sv d = (if d = 0 then 0 else s.cur.next)) ∧ Keeps {} s t link.toList [] []

/-- A form that changes nothing but where the context stands, apart from what `e` strikes out. -/
def PassesByX (e : Strike) (s : State) (i : Instr) : Prop :=
  ∃ t, exec i s = .next t ∧ t.cctx.point = onward s.cur ∧ Keeps e s t [] [] []

/-- A form that changes nothing but where the context stands. -/
def PassesBy (s : State) (i : Instr) : Prop := PassesByX {} s i

/-- A relative target (R142): 4 times the offset from this bundle's header. -/
def relative (s : State) (off : BitVec 31) : Word64 := s.cur.pc + ofI (4 * off.toInt)

end Sys2Proof.Rules

/-- R138: each immediate form writes its result, with the sign-extended immediate in place of S[b], and nothing but S[d]. -/
def Obligations.ScalarImmediateResult : Prop :=
  ∀ (i : Instr) (r : RI) (f : Word64 → Word64 → Word64), immediate i = some (r, f) → i.wellFormed = true →
    ∀ s : State, Plain s → full s [srcS r.a r.wa] → WritesS s i r.d (f ((regs s).sv r.a) (ofI r.imm.toInt))

open Classical in
/-- R130, R140: CMP.cc writes 1 where its condition holds and 0 where it does not, in the register form and in the immediate form;
CSEL writes S[a] where S[c] is not zero, and S[b] where it is. -/
def Obligations.ScalarCompareSelectResult : Prop :=
  (∀ (cc : BitVec 4) (r : RR) (s : State), (Instr.cmp cc r).wellFormed = true → Plain s → full s (srcRR r) →
    WritesS s (.cmp cc r) r.d (if holds cc ((regs s).sv r.a) ((regs s).sv r.b) then 1 else 0)) ∧
  (∀ (cc : BitVec 4) (r : RI) (s : State), (Instr.cmpImmediate cc r).wellFormed = true → Plain s →
    full s [srcS r.a r.wa] →
    WritesS s (.cmpImmediate cc r) r.d (if holds cc ((regs s).sv r.a) (ofI r.imm.toInt) then 1 else 0)) ∧
  (∀ (r : Csel) (s : State), Plain s → full s [srcS r.a r.wa, srcS r.b r.wb, srcS r.c r.wc] →
    WritesS s (.csel r) r.d (if (regs s).sv r.c ≠ 0 then (regs s).sv r.a else (regs s).sv r.b))

/-- R139: CLZ, CTZ, POPC and MOV, and the field operations BFX and BFI. -/
def Sys2Proof.Rules.ScalarSingleOperandResult : Prop :=
  (∀ (r : RU) (s : State), Plain s → full s [srcS r.a r.wa] →
    (∃ n, leadingZeros ((regs s).sv r.a) n ∧ WritesS s (.clz r) r.d (ofN n)) ∧
    (∃ n, trailingZeros ((regs s).sv r.a) n ∧ WritesS s (.ctz r) r.d (ofN n)) ∧
    WritesS s (.popc r) r.d (ofN (onesBelow ((regs s).sv r.a) 64)) ∧ WritesS s (.mov r) r.d ((regs s).sv r.a)) ∧
  (∀ (r : Bfx) (s : State), (Instr.bfx r).wellFormed = true → Plain s → full s [srcS r.a r.wa] →
    WritesS s (.bfx r) r.d (ofN (((regs s).sv r.a).toNat / 2 ^ r.pos.toNat % 2 ^ (r.wm1.toNat + 1)))) ∧
  (∀ (r : Bfi) (s : State), (Instr.bfi r).wellFormed = true → Plain s → full s [srcS r.a r.wa, srcS r.d r.wd] →
    WritesS s (.bfi r) r.d (inserted ((regs s).sv r.a) ((regs s).sv r.d) r.pos.toNat (r.wm1.toNat + 1)))

/-- R141: LI, LIH and LA. -/
def Sys2Proof.Rules.ScalarConstantResult : Prop :=
  (∀ (r : Li) (s : State), Plain s → WritesS s (.li r) r.d (ofI (i32 r.i31 r.imm))) ∧
  (∀ (r : Lih) (s : State), Plain s → full s [srcS r.a r.wa] →
    WritesS s (.lih r) r.d (ofN (u32 r.i31 r.imm * 2 ^ 32 + ((regs s).sv r.a).toNat % 2 ^ 32))) ∧
  (∀ (r : La) (s : State), Plain s →
    WritesS s (.la r) r.d ((if r.m then s.cur.pc else 0) + ofI (i32 r.i31 r.imm)))

/-- R139, R141: single-operand, field and constant operations. -/
def Obligations.ScalarUnaryResult : Prop := ScalarSingleOperandResult ∧ ScalarConstantResult

/-- R142, R143: a branch that is taken drops the remaining issues and goes on at its target; CALL and CALLR write the address of
the next bundle to their link register; `.d` disarms every slot. -/
def Sys2Proof.Rules.BranchesTaken : Prop :=
  (∀ (r : Br) (s : State), Plain s → Branches s (.br r) none (relative s r.off) r.dis) ∧
  (∀ (r : Call) (s : State), Plain s → Branches s (.call r) (some r.d) (relative s r.off) r.dis) ∧
  (∀ (cc : BitVec 4) (r : Bc) (s : State), (Instr.bc cc r).wellFormed = true → Plain s →
    full s [srcS r.a r.wa, srcS r.b r.wb] → holds cc ((regs s).sv r.a) ((regs s).sv r.b) →
    Branches s (.bc cc r) none (relative s r.off) false) ∧
  (∀ (r : Jr) (s : State), Plain s → full s [srcS r.a r.wa] →
    Branches s (.jr r) none ((regs s).sv r.a) false ∧ Branches s (.ret r) none ((regs s).sv r.a) false) ∧
  (∀ (r : Callr) (s : State), Plain s → full s [srcS r.a r.wa] →
    Branches s (.callr r) (some r.d) ((regs s).sv r.a) false)

/-- R142: a conditional branch whose condition does not hold does nothing, and the repeats of its bundle continue. -/
def Sys2Proof.Rules.BranchNotTaken : Prop :=
  ∀ (cc : BitVec 4) (r : Bc) (s : State), (Instr.bc cc r).wellFormed = true → Plain s →
    full s [srcS r.a r.wa, srcS r.b r.wb] → ¬ holds cc ((regs s).sv r.a) ((regs s).sv r.b) → PassesBy s (.bc cc r)

/-- R142, R143: branches, calls and jumps. -/
def Obligations.BranchResult : Prop := BranchesTaken ∧ BranchNotTaken

/-- R122, R132, R158: the NOP of each slot and the hints have no effect but, at issue 0, to disarm the slot they stand in. -/
def Obligations.NopsAndHintsPass : Prop :=
  ∀ s : State, Plain s → ∀ i : Instr,
    (i ∈ [Instr.sNop, .vNop, .fNop, .xNop, .hNop, .mNop, .cNop, .tNop] ∨ (∃ h, i = .hint h) ∨ ∃ h x, i = .hintExt h x) →
    ∃ t, exec i s = .next t ∧ t.cctx.point = onward s.cur ∧
      (s.cur.j = 0 → fget? t.cctx.live.armed s.cur.slot = none) ∧ Keeps {} s t [] [] []

namespace Sys2Proof.Rules

open Sys2Proof.Machine Sys2Proof.Safety

/-! ### Memory forms -/

/-- The engines have nothing outstanding that an access of the context must wait for (R99, R232, R261). -/
structure Settled (s : State) : Prop where
  fibre : ∀ c ∈ s.ccore.fq, c.x ≠ s.cur.x
  tree : ∀ c ∈ s.ccore.tq, c.x ≠ s.cur.x
  image : ∀ c ∈ s.ccore.mq, c.x ≠ s.cur.x

/-- Two states with the same memory system: memory, module registers, tables, TLBs, hardpan, and the cores' power and regions. -/
structure SameMemory (s t : State) : Prop where
  mem : t.mem = s.mem
  regs : t.regs = s.regs
  dies : t.dies = s.dies
  ldtCache : t.ldtCache = s.ldtCache
  moduleNo : t.moduleNo = s.moduleNo
  hard : t.hard = s.hard
  power : ∀ k, (t.core k).gated = (s.core k).gated ∧ (t.core k).region = (s.core k).region
  spaces : t.regions.map (fun r => (r.id, r.asid)) = s.regions.map (fun r => (r.id, r.asid))

/-- The owner resolves an address to a physical one without a walk: it is core-local, or its translation is held (R134, R328).
Nothing but the memory system matters to it. -/
def Resolved (s : State) (rq : Req) (acc : Nat) (ea : Word64) (pa : Nat) : Prop :=
  classify ea ≠ .hole ∧ ∀ t, SameMemory s t → locate rq acc (coreOf s.cur.x) ea t = .ok (.here pa) t

/-- The effective address of a scalar form (R134). -/
def scalarEa (s : State) (a : BitVec 6) (disp : BitVec 15) (stride : BitVec 13) : Word64 :=
  (regs s).sv a + ofI disp.toInt + ofI (s.cur.k * stride.toInt)

/-- A byte as a load of the context sees it (R85): from the context's own gate where it is held there, else from memory. -/
def seen (s : State) (ea : Word64) (pa i : Nat) : Byte :=
  match gateByte s.cctx.gate (ea + ofN i) with
  | some b => b.1
  | none => s.byte (pa + i)

/-- The little-endian number that n bytes make (R4). -/
def number : Nat → (Nat → Byte) → Nat
  | 0, _ => 0
  | n + 1, f => number n f + (f n).toNat * 256 ^ n

/-- None of the words of a range of memory holds a wrong bit: reading them corrects and reports nothing (R345, R346). -/
structure Sound (s : State) (pa n : Nat) : Prop where
  good : s.poisoned pa n = false
  right : ∀ e ∈ s.soft, e.2 = true → e.1 * 8 + 8 ≤ pa ∨ pa + n ≤ e.1 * 8

/-- None of the bytes of an access holds uncorrectable data, nor a bit to be corrected (R345). -/
def Clean (s : State) (ea : Word64) (pa n : Nat) : Prop :=
  Sound s pa n ∧ ∀ i, i < n → (gateByte s.cctx.gate (ea + ofN i)).all (fun b => !b.2) = true

/-- The signed value of the low 8n bits. -/
def signedN (n : Nat) (v : Nat) : Int := if 2 * v < 256 ^ n then v else (v : Int) - (256 ^ n : Nat)

/-- The loads of R144: operands, width in bytes, and whether the value is sign-extended. -/
def scalarLoad (i : Instr) : Option (Ld × Nat × Bool) :=
  match i with
  | .ldB r => some (r, 1, true)
  | .ldBu r => some (r, 1, false)
  | .ldH r => some (r, 2, true)
  | .ldHu r => some (r, 2, false)
  | .ldW r => some (r, 4, true)
  | .ldWu r => some (r, 4, false)
  | .ldD r => some (r, 8, true)
  | _ => none

/-- The stores of R144 and their widths. -/
def scalarStore (i : Instr) : Option (St × Nat) :=
  match i with
  | .stB r => some (r, 1)
  | .stH r => some (r, 2)
  | .stW r => some (r, 4)
  | .stD r => some (r, 8)
  | _ => none

/-- Strikes out the values on their way to a context, and the tokens they carry. -/
def noArrivals (c : Ctx) : Ctx := { c with arrivals := [], tokNext := 0 }

/-- Strikes out the store gate. -/
def noGate (c : Ctx) : Ctx := { c with gate := [] }

/-- S[d] is empty and waits for a value on its way (R135), which is the only one to have been sent; a d of 0 waits for none. -/
def Awaits (s t : State) (d : BitVec 6) (v : Word64) : Prop :=
  if d = 0 then t.cctx.arrivals = s.cctx.arrivals
  else ∃ a, t.cctx.arrivals = s.cctx.arrivals ++ [a] ∧ a.isV = false ∧ a.reg = d.toNat ∧ a.val = v.zeroExtend 1024 ∧
    a.poison = false ∧ fget? t.cctx.live.sWait d.toNat = some a.tok

/-- The byte of the dirty bitmap that a write through a translation sets (R327). -/
def dirtyByte (s : State) (pa : Nat) : Nat :=
  physOf (pdieOf pa) (s.regN (rDIRTY (pdieOf pa)) + programOff (offOf pa) / 65536 / 8)

/-- The bytes that a write of n bytes may change: those bytes and, through a translation, the dirty byte of their page. -/
def touched (s : State) (ea : Word64) (pa n a : Nat) : Prop :=
  (pa ≤ a ∧ a < pa + n) ∨ (isVirt ea = true ∧ a = dirtyByte s pa)

/-- A write to memory strikes out memory, the marks of its words and the chunk tags. -/
def noMem (s : State) : State := { s with mem := [], poison := [], soft := [], tags := [] }

/-! ### The commit of a store gate (R126) -/

/-- The byte that a list of writes leaves at an address; the last write of it stands. -/
def lastByte (ws : List (Word64 × List Byte)) (a : Nat) : Option Byte :=
  ws.reverse.findSome? fun w => if w.1.toNat ≤ a ∧ a < w.1.toNat + w.2.length then w.2[a - w.1.toNat]? else none

/-- The gate of a context holds writes to its scratchpad only, by core-local address. -/
def GateLocal (c : Ctx) : Prop := ∀ w ∈ c.gate.flatMap (·.writes), w.1.toNat + w.2.length ≤ 0x300000

/-- Context x takes a mark: every write of its gate is in the scratchpad, in order, and its held X operations are in the engine's
queue (R126, R202). -/
structure Commits (s t : State) (x : Nat) : Prop where
  bytes : ∀ o, o < 0x300000 → t.byte (scratchBase (coreOf x) + o) =
    (lastByte ((s.ctx x).gate.flatMap (·.writes)) o).getD (s.byte (scratchBase (coreOf x) + o))
  held : (t.ctx x).heldX = []
  queue : (t.core (coreOf x)).mq = (s.core (coreOf x)).mq ++ (s.ctx x).heldX
  registers : (t.ctx x).mark.live = (s.ctx x).live ∧ (t.ctx x).mark.ctl = (s.ctx x).ctl

/-- What the commit of a gate of the issuing context strikes out, with what `e` does. -/
def commitStrike (s : State) : Strike :=
  { ctx := fun c => noMark { c with gate := [], heldX := [] }
    core := fun k => { k with mq := [], rcache := [] }
    machine := fun u => { noMem u with nextId := 0 }
    bytes := fun a => scratchBase (coreOf s.cur.x) ≤ a ∧ a < scratchBase (coreOf s.cur.x) + 0x300000 }

/-! ### Atomics -/

/-- The fields of an atomic: its operands and whether it reads S[d + 1] as well. -/
structure AtForm where
  d : BitVec 6
  a : BitVec 6
  wa : Bool
  wd : Bool
  disp : BitVec 15
  stride : BitVec 13
  cls : BitVec 3
  pair : Bool

def formAt (r : At) (pair : Bool) : AtForm :=
  { d := r.d, a := r.a, wa := r.wa, wd := r.wd, disp := r.disp, stride := r.stride, cls := r.cls, pair := pair }

def formAto (r : Ato) : AtForm :=
  { d := r.d, a := r.a, wa := r.wa, wd := r.wd, disp := r.disp, stride := r.stride, cls := r.cls, pair := true }

/-- The sources of an atomic. -/
def AtForm.sources (f : AtForm) : List Source :=
  [srcS f.a f.wa, srcS f.d f.wd] ++ (if f.pair then [srcS (f.d + 1) f.wd] else [])

/-- The new value of an integer atomic (R147, R148), from the old one, S[d] and S[d + 1]. -/
def integerAtomic (i : Instr) : Option (AtForm × (Word64 → Word64 → Word64 → Word64)) :=
  match i with
  | .atopAdd r => some (formAt r false, fun old a _ => ofI (old.toInt + a.toInt))
  | .atopSub r => some (formAt r false, fun old a _ => ofI (old.toInt - a.toInt))
  | .atopAnd r => some (formAt r false, fun old a _ => old &&& a)
  | .atopOr r => some (formAt r false, fun old a _ => old ||| a)
  | .atopXor r => some (formAt r false, fun old a _ => old ^^^ a)
  | .atopMin r => some (formAt r false, fun old a _ => ofI (min old.toInt a.toInt))
  | .atopMax r => some (formAt r false, fun old a _ => ofI (max old.toInt a.toInt))
  | .atswp r => some (formAt r false, fun _ a _ => a)
  | .atcas r => some (formAto r, fun old a b => if old = a then b else old)
  | _ => none

/-- What an atomic strikes out: its mark, its value on its way, and memory. -/
def atStrike (s : State) (ea : Word64) (pa n : Nat) : Strike :=
  { ctx := noMark ∘ noArrivals, machine := noMem, bytes := touched s ea pa n }

end Sys2Proof.Rules

/-- R85, R135, R144: a load whose address is aligned and resolved marks S[d] empty and sends it the bytes read, sign- or
zero-extended; it stores nothing and writes nothing else. The model's choice: that the value read is that of the bytes at the
issue (log 5, log 18). -/
def Obligations.ScalarLoadResult : Prop :=
  ∀ (i : Instr) (r : Ld) (n : Nat) (sg : Bool), scalarLoad i = some (r, n, sg) →
    ∀ (s : State) (pa : Nat), Plain s → Settled s → full s [srcS r.a r.wa] →
      let ea := scalarEa s r.a r.disp r.stride
      ea.toNat % n = 0 → Resolved s (s.reqOf s.cur.x 0 r.cls.toNat) accRead ea pa → Clean s ea pa n →
      let v := number n (seen s ea pa)
      ∃ t, exec i s = .next t ∧ Awaits s t r.d (if sg then ofI (signedN n v) else ofN v) ∧ t.cctx.point = onward s.cur ∧
        Keeps { ctx := noArrivals } s t [r.d] [] []

/-- R87, R125, R126, R144: a store whose address is aligned enters the store gate with the low bytes of S[d], and memory and
registers do not change until the gate commits; a store with release ordering has a mark before its issue, with which the gate
commits, so that it is alone in the gate. The model's choice: the order in which a gate performs (log 5). -/
def Obligations.ScalarStoreEntersGate : Prop :=
  ∀ (i : Instr) (r : St) (n : Nat), scalarStore i = some (r, n) →
    ∀ s : State, Plain s → Settled s → full s [srcS r.a r.wa, srcS r.d r.wd] →
      let ea := scalarEa s r.a r.disp r.stride
      classify ea ≠ .hole → ea.toNat % n = 0 →
      let enters := fun (g : GateEnt) =>
        g.writes = [(ea, toBytes n ((regs s).sv r.d).toNat)] ∧ g.poison = [] ∧ g.ready = true ∧ g.cls = r.cls.toNat
      (r.ord ≠ 2 →
        ∃ (t : State) (g : GateEnt), exec i s = .next t ∧ t.cctx.gate = s.cctx.gate ++ [g] ∧ enters g ∧
          t.cctx.point = onward s.cur ∧ Keeps { ctx := noGate, machine := fun u => { u with nextId := 0 } } s t [] [] []) ∧
      (r.ord = 2 → GateLocal s.cctx →
        ∃ (t : State) (g : GateEnt), exec i s = .next t ∧ t.cctx.gate = [g] ∧ enters g ∧ Commits s t s.cur.x ∧
          t.cctx.point = onward s.cur ∧ Keeps (commitStrike s) s t [] [] [])

/-- R134, R144: a scalar load or store whose address lies in the hole above the scratchpad raises ACCESS, and one whose address its
width does not divide raises ALIGN, with the address in tinfo; nothing is performed. -/
def Sys2Proof.Rules.MisalignedOrHoleTraps : Prop :=
  (∀ (i : Instr) (r : St) (n : Nat), scalarStore i = some (r, n) →
    ∀ s : State, TrapReady s → full s [srcS r.a r.wa, srcS r.d r.wd] →
      let ea := scalarEa s r.a r.disp r.stride
      (classify ea = .hole → Traps s i 7 ea) ∧ (classify ea ≠ .hole → ea.toNat % n ≠ 0 → Traps s i 13 ea)) ∧
  (∀ (i : Instr) (r : Ld) (n : Nat) (sg : Bool), scalarLoad i = some (r, n, sg) →
    ∀ s : State, TrapReady s → full s [srcS r.a r.wa] →
      let ea := scalarEa s r.a r.disp r.stride
      (classify ea = .hole → Traps s i 7 ea) ∧ (classify ea ≠ .hole → ea.toNat % n ≠ 0 → Traps s i 13 ea))

/-- R146 to R148: an integer atomic on an aligned, resolved word writes the new value and sends the old one to S[d]; no other byte
changes but, through a translation, the dirty byte of the word's page. The model's choice: that the access is performed at the
issue (log 5). -/
def Obligations.IntegerAtomicResult : Prop :=
  ∀ (i : Instr) (f : AtForm) (g : Word64 → Word64 → Word64 → Word64), integerAtomic i = some (f, g) → i.wellFormed = true →
    ∀ (s : State) (pa : Nat), Alone s → Settled s → full s f.sources →
      let ea := scalarEa s f.a f.disp f.stride
      ea.toNat % 8 = 0 → Resolved s (s.reqOf s.cur.x 0 f.cls.toNat) accAtomic ea pa → Sound s pa 8 →
      let old := ofN (number 8 fun j => s.byte (pa + j))
      ∃ t, exec i s = .next t ∧
        ofN (number 8 fun j => t.byte (pa + j)) = g old ((regs s).sv f.d) ((regs s).sv (f.d + 1)) ∧
        Awaits s t f.d old ∧ t.cctx.point = onward s.cur ∧ Keeps (atStrike s ea pa 8) s t [f.d] [] []

/-- R149: ATFADD on a unit of vault or HBM writes the sum, rounded once to the format that S[d + 1][1:0] names, and returns the
old unit; R150: ATADDS writes the scaled sum and sets the chunk's tag and its OVF. The model's choice: that the access is
performed at the issue (log 5); the random bits of a stochastic rounding are free (log 11). -/
def Obligations.AdderAtomicResult : Prop :=
  (∀ (r : Ato) (s : State) (pa : Nat), (Instr.atfadd r).wellFormed = true → Alone s → Settled s →
    full s (formAto r).sources →
    let b := (regs s).sv (r.d + 1)
    let fmt := addFmt b.toNat
    let n := fmt.bits / 8
    let ea := scalarEa s r.a r.disp r.stride
    b.toNat % 4 ≠ 3 → ea.toNat % n = 0 → isVirt ea = true → inScratch (offOf pa) = false →
    Resolved s (s.reqOf s.cur.x 0 r.cls.toNat) accAtomic ea pa → Sound s pa n →
    let old := number n fun j => s.byte (pa + j)
    ∃ t, exec (.atfadd r) s = .next t ∧
      (let new := number n fun j => t.byte (pa + j)
       if r.opt = true ∧ b.toNat % 4 = 1 then
         ∃ q : BitVec 16, new = fpAdd fmt (fmt.val old) (fmt.val ((regs s).sv r.d).toNat) (some q.toNat)
       else new = (fmt.add false RNE (fmt.val old) (fmt.val ((regs s).sv r.d).toNat)).1) ∧
      Awaits s t r.d (ofN old) ∧ t.cctx.point = onward s.cur ∧
      Keeps { atStrike s ea pa n with machine := fun u => { noMem u with fresh := 0 } } s t [r.d] [] []) ∧
  (∀ (r : At) (s : State) (pa : Nat), (Instr.atadds r).wellFormed = true → Alone s → Settled s →
    full s (formAt r true).sources →
    let b := (regs s).sv (r.d + 1)
    let fmt := addsFmt b
    let n := fmt.bits / 8
    let ea := scalarEa s r.a r.disp r.stride
    b.toNat / 256 % 4 < 2 → b.toNat % 256 ≠ 0x80 → ea.toNat % n = 0 → isVirt ea = true → inScratch (offOf pa) = false →
    Resolved s (s.reqOf s.cur.x 0 r.cls.toNat) accAtomic ea pa → Sound s pa n →
    let old := number n fun j => s.byte (pa + j)
    let tIn := b.toNat % 256
    let tOld := (s.tag pa).toNat % 256
    let tNew := if tOld = 0x80 then tIn else tOld
    let res := scaledAdd fmt (signedN 1 tNew) (signedN 1 tIn) (fmt.val old) (fmt.val ((regs s).sv r.d).toNat)
    ∃ t, exec (.atadds r) s = .next t ∧ number n (fun j => t.byte (pa + j)) = res.1 ∧
      (t.tag pa).toNat % 256 = tNew ∧ bitAt (t.tag pa).toNat 8 = (bitAt (s.tag pa).toNat 8 || res.2) ∧
      Awaits s t r.d (ofN old) ∧ t.cctx.point = onward s.cur ∧ Keeps (atStrike s ea pa n) s t [r.d] [] [])

namespace Sys2Proof.Rules

open Sys2Proof.Machine Sys2Proof.Safety

/-! ### Empty registers -/

/-- The matrix engine's queue has room (R194). -/
def MRoom (s : State) : Prop := (s.ccore.mq.filter fun m => m.slot == 6).length < 8

/-- The core has room for a copy, and the completion slot is free (R216). -/
def CopyRoom (s : State) (cid : BitVec 5) : Prop :=
  s.ccore.copies.length < 32 ∧ ∀ p ∈ s.ccore.copies, ¬ (p.x = s.cur.x ∧ p.lost = false ∧ p.cid = cid.toNat)

/-- What an operation of an engine needs besides its sources in order not to block: room in the engine's queue (R37). -/
def hasRoom (s : State) (i : Instr) : Prop :=
  match i with
  | .fldv _ | .femit _ | .fmerge _ | .fsave _ => s.ccore.fq.length < 4
  | .acwr _ | .nmerge _ | .ndump _ | .nload _ => MRoom s
  | .copy r | .copyExt r _ => CopyRoom s r.cid
  | .copyt r | .copytExt r _ => CopyRoom s r.cid
  | .cgath r | .cscat r => CopyRoom s r.cid
  | .cred r | .credExt r _ => CopyRoom s r.cid
  | .cring r | .cringExt r _ => CopyRoom s r.cid
  | .upd r => CopyRoom s r.cid
  | .tmode _ | .tevid _ | .tseed _ | .tfwd _ | .tfwdExt _ _ | .trev _ | .trevExt _ _ | .tsamp _ | .targm _ | .tratio _ =>
    s.ccore.tq.length < 8
  | _ => True

/-- A register operand that may be absent. -/
def optional (b : Bool) (r : BitVec 6) (w : Bool) : List Source := if b then [srcS r w] else []

/-- The s and v registers that a form reads (R133), in the order of its fields; none where it reads none. -/
def sourcesOf (i : Instr) : List Source :=
  match i with
  | .add r | .sub r | .mul r | .mulh r | .mulhu r | .div r | .divu r | .rem r | .remu r | .and r | .or r | .xor r | .andn r | .shl r
  | .shr r | .sra r | .min r | .max r | .minu r | .maxu r | .cmp _ r => [srcS r.a r.wa, srcS r.b r.wb]
  | .clz r | .ctz r | .popc r | .mov r => [srcS r.a r.wa]
  | .bfx r => [srcS r.a r.wa]
  | .bfi r => [srcS r.a r.wa, srcS r.d r.wd]
  | .csel r => [srcS r.a r.wa, srcS r.b r.wb, srcS r.c r.wc]
  | .addImmediate r | .subImmediate r | .mulImmediate r | .andImmediate r | .orImmediate r | .xorImmediate r | .andnImmediate r
  | .shlImmediate r | .shrImmediate r | .sraImmediate r | .minImmediate r | .maxImmediate r | .minuImmediate r | .maxuImmediate r
  | .cmpImmediate _ r => [srcS r.a r.wa]
  | .lih r => [srcS r.a r.wa]
  | .bc _ r => [srcS r.a r.wa, srcS r.b r.wb]
  | .jr r | .ret r => [srcS r.a r.wa]
  | .callr r => [srcS r.a r.wa]
  | .ldB r | .ldBu r | .ldH r | .ldHu r | .ldW r | .ldWu r | .ldD r => [srcS r.a r.wa]
  | .stB r | .stH r | .stW r | .stD r => [srcS r.a r.wa, srcS r.d r.wd]
  | .atopAdd r | .atopAnd r | .atopOr r | .atopXor r | .atopMin r | .atopMax r | .atopSub r | .atswp r => [srcS r.a r.wa, srcS r.d r.wd]
  | .atcas r | .atfadd r => [srcS r.a r.wa, srcS r.d r.wd, srcS (r.d + 1) r.wd]
  | .atadds r => [srcS r.a r.wa, srcS r.d r.wd, srcS (r.d + 1) r.wd]
  | .waitm r => [srcS r.a r.wa, srcS r.b r.wb]
  | .barrive r | .barriveExt r _ => [srcS r.a r.wa, srcS r.b r.wb]
  | .bexpect r | .bexpectExt r _ => [srcS r.a r.wa, srcS r.b r.wb]
  | .bwait r | .bwaitExt r _ | .btest r | .btestExt r _ => [srcS r.a r.wa, srcS r.b r.wb]
  | .tkpost r => [srcS r.a r.wa]
  | .tkdone r => [srcS r.a r.wa, srcS r.b r.wb]
  | .cwr r => [srcS r.a r.wa]
  | .vadd r | .vsub r | .vmul r | .vmulh r | .vmin r | .vmax r | .vand r | .vor r | .vxor r | .vandn r | .vshl r | .vshr r | .vsra r
  | .vcmp _ r | .vfadd r | .vfsub r | .vfmul r | .vfmin r | .vfmax r | .vfcmp _ r | .vperm r | .vsel r | .vlpmul r | .vlpadd r
  | .vlpmax r | .vlpdiv r | .vlpjoin r => [srcV r.a r.wa, srcV r.b r.wb]
  | .vfma r | .vfms r => [srcV r.a r.wa, srcV r.b r.wb, srcV r.c r.wc]
  | .vabs r | .vrcp r | .vrsq r | .vexp2 r | .vlog2 r | .vcvt r | .vsxpack r | .vsxunpack r | .vcompress r | .vexpand r | .vred r
  | .vscan r | .vlpcvt r | .vlpsplit r => [srcV r.a r.wa]
  | .vshuf r => srcV r.a r.wa :: if r.sub = 4 then [] else [srcV r.b r.wb]
  | .vtopk r => srcV r.a r.wa :: if r.sub.getLsbD 2 then [srcV r.b r.wb] else []
  | .vbcast r => [srcS (r.a.truncate 6) r.wa]
  | .vmovs r => [if r.sub.getLsbD 0 then srcV r.a r.wa else srcS (r.a.truncate 6) r.wa, srcS (r.b.truncate 6) r.wb]
  | .vld r | .vldb r => [srcS r.s r.wb]
  | .vst r => [srcS r.s r.wb, srcV r.v r.wv]
  | .vlds r => [srcS r.s r.wb, srcS (r.s + 1) r.wb]
  | .vsts r => [srcS r.s r.wb, srcS (r.s + 1) r.wb, srcV r.v r.wv]
  | .vgath r => [srcS r.s r.wb, srcV r.x r.wx]
  | .vscat r => [srcS r.s r.wb, srcV r.x r.wx, srcV r.v r.wv]
  | .fopen r => [srcS r.a r.wa]
  | .fopenExt r e => [srcS r.a r.wa, srcS e.b e.wb] ++ optional r.o (e.b + 1) e.wb
  | .fskip r => [srcS r.b r.wb]
  | .fldv r => [srcS r.a r.wa]
  | .femit r => [srcV r.v r.wv, srcV (r.v + 1) r.wv]
  | .fmerge r => [srcS r.a r.wa, srcS r.b r.wb]
  | .fsave r | .frest r => [srcS r.a r.wa]
  | .xscale r => [srcS r.a r.wa]
  | .xexpv r => [srcV r.va r.wa]
  | .xfix r => [srcS r.a r.wa]
  | .hld r | .hldExt r _ | .hst r | .hstExt r _ => [srcS r.a r.wa]
  | .hset r => [srcS r.a r.wa]
  | .hfence r => optional r.one r.a r.wa
  | .acwr r => [srcV r.vs r.wv]
  | .nmerge r | .ndump r | .nload r => [srcS r.a r.wa]
  | .copyExt _ e | .copytExt _ e | .credExt _ e | .cringExt _ e => optional e.ba e.a e.wa
  | .cgath r | .cscat r => optional r.ba r.a r.wa ++ [srcS r.x r.wx]
  | .cwait r => optional (r.a != 0) r.a r.wa
  | .upd r => srcS r.a r.wa :: optional (r.g != 0) r.g r.wg
  | .tmode r => [srcS r.a r.wa, srcS r.b r.wb]
  | .tevid r => [srcS r.a r.wa, srcS r.b r.wb]
  | .tseed r => [srcS r.a r.wa]
  | .tfwd r | .tfwdExt r _ => [srcS r.a r.wa]
  | .trev r | .trevExt r _ | .tsamp r | .targm r => [srcS r.a r.wa]
  | .tratio r => [srcS r.a r.wa, srcS r.b r.wb, srcS r.c r.wc]
  | _ => []

/-- The first source of a list that is empty, those with W = 0 before those with W = 1 (R121, R133). -/
def firstEmpty (s : State) (l : List Source) (w : Bool) : Option Source :=
  l.find? fun r => r.2.2 == w && s.cctx.live.isEmpty r

/-! ### Waits and barriers -/

/-- The effect of an arrival of `n`, with or without the error mark, on a barrier (R55). -/
def Arrived (b : Bar) (n : Nat) (err : Bool) (c : Bar) : Prop :=
  let a := (b.arrived + n) % 2 ^ 64
  let er := b.er || err
  c.expected = b.expected ∧
    if b.ep = true ∧ b.expected ≤ a then
      c.arrived = 0 ∧ c.ep = false ∧ c.er = false ∧ c.phase = (b.phase + 1) % 2 ^ 32 ∧
        c.status = (if b.expected < a then 2 else if er then 3 else 1)
    else c.arrived = a ∧ c.ep = b.ep ∧ c.er = er ∧ c.phase = b.phase ∧ c.status = b.status

/-- The effect of an expected count of `n` on a barrier (R55). -/
def Expected (b : Bar) (n : Nat) (c : Bar) : Prop :=
  c.expected = n ∧
    if n ≤ b.arrived then
      c.arrived = 0 ∧ c.ep = false ∧ c.er = false ∧ c.phase = (b.phase + 1) % 2 ^ 32 ∧
        c.status = (if n < b.arrived then 2 else if b.er then 3 else 1)
    else c.arrived = b.arrived ∧ c.ep = true ∧ c.er = b.er ∧ c.phase = b.phase ∧ c.status = b.status

/-- Phase `p` of a barrier has completed (R153). -/
def Passed (b : Bar) (p : Nat) : Prop := ∃ d, 1 ≤ d ∧ d ≤ 2 ^ 31 ∧ (p + d) % 2 ^ 32 = b.phase % 2 ^ 32

/-- The status word of a barrier (R153): STATUS in [7:0], PHASE in [39:8]. -/
def statusWord (b : Bar) : Word64 := ofN (b.status + 2 ^ 8 * b.phase)

/-- A barrier operation's base register, count or phase register, and displacement, with L = 0 or L = 1. -/
structure BarForm where
  a : BitVec 6
  b : BitVec 6
  wa : Bool
  wb : Bool
  disp : Int

def BarForm.sources (f : BarForm) : List Source := [srcS f.a f.wa, srcS f.b f.wb]

def BarForm.ea (f : BarForm) (s : State) : Word64 := (regs s).sv f.a + ofI f.disp

/-- The arrivals, with their error mark. -/
def arrivalForm (i : Instr) : Option (BarForm × Bool) :=
  match i with
  | .barrive r => some ({ a := r.a, b := r.b, wa := r.wa, wb := r.wb, disp := 0 }, r.e)
  | .barriveExt r e => some ({ a := r.a, b := r.b, wa := r.wa, wb := r.wb, disp := e.disp.toInt }, r.e)
  | _ => none

/-- The expected counts. -/
def expectForm (i : Instr) : Option BarForm :=
  match i with
  | .bexpect r => some { a := r.a, b := r.b, wa := r.wa, wb := r.wb, disp := 0 }
  | .bexpectExt r e => some { a := r.a, b := r.b, wa := r.wa, wb := r.wb, disp := e.disp.toInt }
  | _ => none

/-- The waits and the tests: the destination, and whether the form waits. -/
def phaseForm (i : Instr) : Option (BarForm × BitVec 6 × Bool) :=
  match i with
  | .bwait r => some ({ a := r.a, b := r.b, wa := r.wa, wb := r.wb, disp := 0 }, r.d, true)
  | .bwaitExt r e => some ({ a := r.a, b := r.b, wa := r.wa, wb := r.wb, disp := e.disp.toInt }, r.d, true)
  | .btest r => some ({ a := r.a, b := r.b, wa := r.wa, wb := r.wb, disp := 0 }, r.d, false)
  | .btestExt r e => some ({ a := r.a, b := r.b, wa := r.wa, wb := r.wb, disp := e.disp.toInt }, r.d, false)
  | _ => none

/-- A barrier's address is one that its operations accept (R54, R153): 32-byte aligned, resolved, and not in HBM. -/
def BarrierAt (s : State) (ea : Word64) (pa : Nat) : Prop :=
  ea.toNat % 32 = 0 ∧ Resolved s (s.reqOf s.cur.x 0 0) accAtomic ea pa ∧
    Resolved s { s.reqOf s.cur.x 0 0 with src := 9 } accAtomic ea pa ∧ inHbm (offOf pa) = false ∧ Sound s pa 24

/-- And one that its reads accept, which need no more than the right to read. -/
def BarrierRead (s : State) (ea : Word64) (pa : Nat) : Prop :=
  ea.toNat % 32 = 0 ∧ Resolved s (s.reqOf s.cur.x 0 0) accRead ea pa ∧ inHbm (offOf pa) = false ∧
    Resolved s (s.reqOf s.cur.x 0 0) accRead (ea + 16) (pa + 16) ∧ Sound s (pa + 16) 8

/-- What an operation on memory that takes marks strikes out. -/
def memStrike (s : State) (ea : Word64) (pa n : Nat) : Strike :=
  { ctx := noMark, machine := noMem, bytes := touched s ea pa n }

/-! ### Tasks -/

/-- Two states in which a held translation leads to one place: the same translation caches, dies lost, and registers of tables and
dies. -/
structure SameMaps (s t : State) : Prop where
  tlbs : ∀ d, (t.die d).tlb = (s.die d).tlb ∧ (t.die d).lost = (s.die d).lost
  regs : ∀ o, rTLBINV 0 ≤ o → o < rTEL 0 0 → o ≠ rREGCMD → t.reg o = s.reg o
  ldtCache : t.ldtCache = s.ldtCache
  moduleNo : t.moduleNo = s.moduleNo

/-- And the same hardpan, power and regions of the cores, on which the scratchpad windows hang (R26). -/
structure SameTables (s t : State) : Prop where
  maps : SameMaps s t
  hard : t.hard = s.hard
  power : ∀ k, (t.core k).gated = (s.core k).gated ∧ (t.core k).region = (s.core k).region
  spaces : t.regions.map (fun r => (r.id, r.asid)) = s.regions.map (fun r => (r.id, r.asid))

/-- A virtual address whose translation is held, and needs nothing from memory (R328). -/
def Translated (s : State) (rq : Req) (acc : Nat) (va : Word64) (pa : Nat) : Prop :=
  ∀ t, SameTables s t → translate rq acc va t = .ok (.here pa) t

/-- A field of a record in memory (R30). -/
def field (s : State) (pa off n : Nat) : Nat := number n fun i => s.byte (pa + off + i)

/-- The bytes that a scheduler's write to a record may change (R34, R327). -/
def recTouched (s : State) (pa off n a : Nat) : Prop := (pa + off ≤ a ∧ a < pa + off + n) ∨ a = dirtyByte s (pa + off)

/-- A record in memory that may be posted as it stands (R30, R32): NEW, with no field malformed, and naming region `g`, which is
region `within` or a descendant of it. -/
structure Postable (s : State) (asid : Nat) (va : Word64) (pa : Nat) (g : Region) (within : Nat) : Prop where
  fresh : s.taskAt asid va = none
  later : ∀ t ∈ s.tasks, t.id < s.nextId
  unheld : ∀ m ∈ s.msgs, ¬ (m.held = true ∧ m.asid = asid ∧ m.record = va)
  state : field s pa 0x2C 1 = 0
  status : field s pa 0x2A 2 = 0
  pri : field s pa 0x1E 1 < 8 ∨ field s pa 0x1E 1 / 8 = 31
  flags : field s pa 0x1F 1 < 3
  zero : field s pa 0x2D 3 = 0
  region : s.regionNamed asid (ofN (field s pa 0x10 8)) within = some g
  clean : Sound s pa 64

/-- The DONE barrier of a record, where its successors are listed, and how many there are (R30). -/
def doneBar (s : State) (pa : Nat) : Word64 := ofN (field s pa 0x30 8)
def succPtr (s : State) (pa : Nat) : Word64 := ofN (field s pa 0x20 8)
def succCount (s : State) (pa : Nat) : Nat := field s pa 0x28 2

/-- The address of successor i, which stands in memory at `ps i`. -/
def succAt (s : State) (ps : Nat → Nat) (i : Nat) : Word64 := ofN (number 8 fun j => s.byte (ps i + j))

/-- A record address leads to a die of this module through a table entry that is held (R24, R32). -/
def Routed (s : State) (va : Word64) : Prop :=
  ∃ w, fget? s.ldtCache (va.toNat / 2 ^ 49) = some w ∧ fld w.toNat 12 1 = s.moduleNo

/-- The bytes that a completion may change beside STATUS and STATE. -/
def besideDone (s : State) (pa pb a : Nat) : Prop :=
  a = dirtyByte s (pa + 0x2A) ∨ a = dirtyByte s (pa + 0x2C) ∨
    (doneBar s pa ≠ 0 ∧ ((pb ≤ a ∧ a < pb + 22) ∨ a = dirtyByte s pb))

/-- And all that it may change. -/
def doneTouched (s : State) (pa pb a : Nat) : Prop := (pa + 0x2A ≤ a ∧ a < pa + 0x2D) ∨ besideDone s pa pb a

/-- A live record can complete: its scheduler can read and write it, reach its DONE barrier, and read the list of its successors;
`ok` says that an access to an address resolves to a place. -/
structure Completes (ok : Nat → Word64 → Nat → Prop) (s : State) (e : TaskRec) (pa pb : Nat) (ps : Nat → Nat) : Prop where
  live : s.taskAt e.asid e.va = some e ∧ ∀ u ∈ s.tasks, u.id = e.id → u = e
  unheld : ∀ m ∈ s.msgs, ¬ (m.held = true ∧ m.asid = e.asid ∧ m.record = e.va)
  record : ok accRead e.va pa ∧ ok accWrite e.va pa ∧ Sound s pa 64
  barrier : doneBar s pa ≠ 0 →
    (doneBar s pa).toNat % 32 = 0 ∧ ok accAtomic (doneBar s pa) pb ∧ inHbm (offOf pb) = false ∧ Sound s pb 24
  list : ∀ i, i < succCount s pa →
    ok accRead (succPtr s pa + ofN (8 * i)) (ps i) ∧ Sound s (ps i) 8 ∧ Routed s (succAt s ps i)
  apart : ∀ a, besideDone s pa pb a → a < pa ∨ pa + 64 ≤ a
  barApart : doneBar s pa ≠ 0 → ∀ a, pb ≤ a → a < pb + 24 → a ≠ dirtyByte s (pa + 0x2A) ∧ a ≠ dirtyByte s (pa + 0x2C)
  listApart : ∀ i, i < succCount s pa → ∀ a, doneTouched s pa pb a → a < ps i ∨ ps i + 8 ≤ a

/-- The record has completed with a status (R34): STATUS and STATE say so, its DONE barrier has an arrival, with the error mark where
the status is not OK, and each successor has been sent a decrement, or a cancellation where the status is not OK. -/
structure Completed (s t : State) (e : TaskRec) (st pa pb : Nat) (ps : Nat → Nat) : Prop where
  status : field t pa 0x2A 2 = st
  state : field t pa 0x2C 1 = 4
  scheduler : { e with state := .done, status := st } ∈ t.tasks ∧ t.tasks.length = s.tasks.length
  barrier : doneBar s pa ≠ 0 → Arrived (s.bar pb) 1 (st != 0) (t.bar pb)
  messages : t.msgs = s.msgs ++ (List.range (succCount s pa)).map fun i =>
    { id := s.nextId + i, die := s.ownerDie (succAt s ps i), asid := e.asid, record := succAt s ps i
      op := if st = 0 then .decrement e.die else .cancel e.die, held := false }

/-- A FAULTED completion of a record of the region ends no other task (R29). -/
def domainTask (s : State) (r : Nat) : Prop := ∀ g, s.region? r = some g → g.fault = 0

/-! ### Control registers -/

/-- The value that CRD reads (R46), for the registers of a context, its core and the module. -/
def controlValue (s : State) (cr : Nat) : Option Word64 :=
  let c := s.cctx
  [some c.live.sw, some c.ctl.tv, some c.ctl.tpc, some c.ctl.tsw, some c.ctl.tcause, some c.ctl.tinfo, some c.ctl.tkeep0,
   some c.ctl.tkeep1, some c.live.rseed, some s.ccore.hbp, some (s.ident s.cur.x), some (ofN (s.time - s.ccore.cycBase)),
   some c.ctl.tkrec, none, none, none, some (c.live.qv 0), some (c.live.qv 1), some (c.live.qv 2), some (c.live.qv 3),
   some (c.live.qv 4), some (c.live.qv 5), some (c.live.qv 6), some (c.live.qv 7)][cr]?.join

/-- A register marked handler in R46. -/
abbrev handlerOnly (cr : Nat) : Prop := (1 ≤ cr ∧ cr ≤ 7) ∨ cr = 9

/-- A register that ignores writes (R46). -/
abbrev readOnly (cr : Nat) : Prop := cr = 10 ∨ cr = 11 ∨ cr = 12

/-- The value of a register after a write (R46, R47): sw keeps H, SLOTRES, REPLEFT and its reserved bits, tcause its reserved
bits, and a read-only register everything. -/
def written (cr : Nat) (old v : Word64) : Word64 :=
  if cr = 0 then (old &&& 0xFFFFFFFFFF1FE004) ||| (v &&& 0xE01FFB)
  else if cr = 4 then v &&& 0x1FFF
  else if readOnly cr then old
  else v

/-- What a CWR strikes out beyond what a statement says of it. -/
def controlStrike : Strike :=
  { live := fun l => { l with sw := 0, rseed := 0, ctr := 0, q := [] }
    ctx := fun c => noMark { c with ctl := Control.init }
    core := fun k => { k with hbp := 0, hbTimer := 0 } }

end Sys2Proof.Rules

/-- R121, R133: where a source with W = 0 is empty the bundle blocks on the first such, whatever its other sources hold; so does every
form that reads s or v registers, those of slots M, C and T where their tile predicate lets them act. -/
def Sys2Proof.Rules.EmptySourceBlocks : Prop :=
  ∀ (i : Instr) (s : State) (e : Source), Alone s → tileOn s i → hasRoom s i → s.cctx.state = .running →
    firstEmpty s (sourcesOf i) false = some e → Blocks s i (.empty e.1 e.2.1)

/-- R48, R121, R133: where no source with W = 0 is empty, an empty source with W = 1 raises EMPTY; tinfo holds the register number
in [9:0], and 0 for an s register or 1 for a v register in [10]. -/
def Sys2Proof.Rules.EmptySourceTraps : Prop :=
  ∀ (i : Instr) (s : State) (e : Source), TrapReady s → tileOn s i → hasRoom s i →
    firstEmpty s (sourcesOf i) false = none → firstEmpty s (sourcesOf i) true = some e →
      Traps s i 4 (ofN (e.2.1 + if e.1 then 2 ^ 10 else 0))

/-- R48, R121, R133: what an empty source does with W = 0 and with W = 1. -/
def Obligations.EmptySources : Prop := EmptySourceBlocks ∧ EmptySourceTraps

/-- R126, R151, R158: a FENCE completes with every access before it performed: the mark before its issue commits the gate; HBEAT
resets its core's heartbeat timer and miss count, and YIELD goes on where no other context of the core is READY. The model's
choice: that every earlier access has been performed when FENCE issues (log 5). -/
def Obligations.FenceHbeatYield : Prop :=
  (∀ (r : Fence) (s : State), Plain s → Settled s → GateLocal s.cctx →
    ∃ t, exec (.fence r) s = .next t ∧ t.cctx.gate = [] ∧ Commits s t s.cur.x ∧ t.cctx.point = onward s.cur ∧
      Keeps (commitStrike s) s t [] [] []) ∧
  (∀ s : State, Alone s → ∃ t, exec .hbeat s = .next t ∧ t.ccore.hbTimer = 0 ∧ t.ccore.hbMiss = 0 ∧
    t.cctx.point = onward s.cur ∧
    Keeps { ctx := noMark, core := fun k => { k with hbTimer := 0, hbMiss := 0 } } s t [] [] []) ∧
  (∀ s : State, Alone s → s.mustYield s.cur.x = false → PassesByX marks s .yield) ∧
  (∀ s : State, Alone s → s.cctx.state = .running → s.mustYield s.cur.x = true → Blocks s .yield .yield)

/-- R152: WAITM reads the word at ea; where it equals S[b] the value is sent to S[d], and otherwise the bundle blocks on that word
and value. The model's choice: that the word is read at the issue (log 5). -/
def Obligations.WaitmResult : Prop :=
  ∀ (r : Waitm) (s : State) (pa : Nat), Alone s → Settled s → full s [srcS r.a r.wa, srcS r.b r.wb] →
    let ea := (regs s).sv r.a + ofI r.disp.toInt
    ea.toNat % 8 = 0 → Resolved s (s.reqOf s.cur.x 0 r.cls.toNat) accRead ea pa → Sound s pa 8 →
    let v := ofN (number 8 fun j => s.byte (pa + j))
    (v = (regs s).sv r.b →
      ∃ t, exec (.waitm r) s = .next t ∧ Awaits s t r.d v ∧ t.cctx.point = onward s.cur ∧
        Keeps { ctx := noMark ∘ noArrivals } s t [r.d] [] []) ∧
    (v ≠ (regs s).sv r.b → s.cctx.state = .running → Blocks s (.waitm r) (.word ea ((regs s).sv r.b)))

/-- R54, R55, R153: BARRIVE delivers one arrival of S[b], or of 1 where its b field is 0, and BEXPECT posts S[b] as the expected
count; a barrier whose phase completes advances it with its status. -/
def Sys2Proof.Rules.BarrierUpdates : Prop :=
  (∀ (i : Instr) (f : BarForm) (err : Bool), arrivalForm i = some (f, err) →
    ∀ (s : State) (pa : Nat), Alone s → Settled s → full s f.sources → BarrierAt s (f.ea s) pa →
      ∃ t, exec i s = .next t ∧ Arrived (s.bar pa) (if f.b = 0 then 1 else ((regs s).sv f.b).toNat) err (t.bar pa) ∧
        t.cctx.point = onward s.cur ∧ Keeps (memStrike s (f.ea s) pa 22) s t [] [] []) ∧
  (∀ (i : Instr) (f : BarForm), expectForm i = some f →
    ∀ (s : State) (pa : Nat), Alone s → Settled s → full s f.sources → BarrierAt s (f.ea s) pa →
      ∃ t, exec i s = .next t ∧ Expected (s.bar pa) ((regs s).sv f.b).toNat (t.bar pa) ∧
        t.cctx.point = onward s.cur ∧ Keeps (memStrike s (f.ea s) pa 22) s t [] [] [])

open Classical in
/-- R153, R301: BTEST sends S[d] the status word, with bit 63 set where the phase has completed; BWAIT sends it where the phase has
completed, and blocks otherwise. -/
def Sys2Proof.Rules.BarrierReads : Prop :=
  ∀ (i : Instr) (f : BarForm) (d : BitVec 6) (waits : Bool), phaseForm i = some (f, d, waits) →
    ∀ (s : State) (pa : Nat), Alone s → Settled s → full s f.sources → BarrierRead s (f.ea s) pa →
      let p := ((regs s).sv f.b).toNat % 2 ^ 32
      let sends := fun (v : Word64) => ∃ t, exec i s = .next t ∧ Awaits s t d v ∧ t.cctx.point = onward s.cur ∧
        Keeps { ctx := noMark ∘ noArrivals } s t [d] [] []
      (waits = false → sends (statusWord (s.bar pa) + if Passed (s.bar pa) p then ofN (2 ^ 63) else 0)) ∧
      (waits = true → Passed (s.bar pa) p → sends (statusWord (s.bar pa))) ∧
      (waits = true → ¬ Passed (s.bar pa) p → s.cctx.state = .running → Blocks s i (.barrier (f.ea s) p))

/-- R153: the barrier forms. The model's choice: that the access is performed at the issue (log 5). -/
def Obligations.BarrierResult : Prop := BarrierUpdates ∧ BarrierReads

/-- R154: TKGET takes the data task that has been dispatched to its context, and blocks where there is none. -/
def Sys2Proof.Rules.TkgetResult : Prop :=
  ∀ (r : Tkget) (s : State), Alone s →
    (∀ va, s.cctx.given = some va →
      ∃ t, exec (.tkget r) s = .next t ∧ t.cctx.live.sv r.d = (if r.d = 0 then 0 else va) ∧ t.cctx.ctl.tkrec = va ∧
        t.cctx.given = none ∧ t.cctx.point = onward s.cur ∧
        Keeps { ctx := fun c => noMark { c with given := none, ctl := { c.ctl with tkrec := 0 } } } s t [r.d] [] []) ∧
    (s.cctx.given = none → s.cctx.state = .running → Blocks s (.tkget r) .task)

/-- R32, R154: TKPOST posts a record to the scheduler of the die that holds it, which takes it as READY where its DEP is 0, and as
WAITING otherwise, and writes its STATE; while the scheduler's queue is full it blocks. -/
def Sys2Proof.Rules.TkpostResult : Prop :=
  ∀ (r : Tkpost) (s : State), Alone s → full s [srcS r.a r.wa] →
    let va := (regs s).sv r.a
    let asid := s.asidOf s.cur.x
    let d := s.ownerDie va
    let rq := schedReq asid d
    let queued := (s.msgs.filter fun m => m.held = false ∧ m.die = d).length
    va.toNat % 64 = 0 →
    (Routed s va → Config.schedRoom d < queued → s.cctx.state = .running → Blocks s (.tkpost r) (.post d)) ∧
    ∀ (pa : Nat) (g : Region), Settled s → queued ≤ Config.schedRoom d →
      Translated s (s.reqOf s.cur.x 0 0) accRead va pa → Translated s rq accRead va pa →
      Translated s rq accWrite va pa → Postable s asid va pa g s.cctx.region →
      let ready := field s pa 0x18 4 = 0
      ∃ (t : State) (e : TaskRec), exec (.tkpost r) s = .next t ∧ t.tasks = s.tasks ++ [e] ∧ e.va = va ∧ e.asid = asid ∧
        e.region = g.id ∧ (e.data = true ↔ field s pa 0 8 = 0) ∧ e.height = field s pa 0x1C 2 ∧
        e.pri = (if field s pa 0x1E 1 < 8 then field s pa 0x1E 1 else g.pri) ∧
        (ready → e.state = .ready ∧ t.byte (pa + 0x2C) = 2) ∧ (¬ ready → e.state = .waiting ∧ t.byte (pa + 0x2C) = 1) ∧
        t.cctx.point = onward s.cur ∧
        Keeps { ctx := noMark, machine := fun u => { noMem u with tasks := [], nextId := 0, regions := [] }
                bytes := recTouched s pa 0x2C 1 } s t [] [] []

/-- R34, R154: TKDONE completes a RUNNING record with status S[b][15:0]: STATUS and then STATE are written, the record's DONE barrier
gets its arrival and its successors their messages, and tkrec becomes 0 where it named the record. A record that is not RUNNING is left as it is. -/
def Sys2Proof.Rules.TkdoneResult : Prop :=
  ∀ (r : Tkdone) (s : State), Alone s → Settled s → full s [srcS r.a r.wa, srcS r.b r.wb] →
    let va := (regs s).sv r.a
    let asid := s.asidOf s.cur.x
    let st := ((regs s).sv r.b).toNat % 2 ^ 16
    Routed s va →
    (∀ (pa pb y : Nat) (ps : Nat → Nat) (e : TaskRec), s.taskAt asid va = some e → e.state = .running y → e.id ≠ 0 →
      Completes (Translated s (schedReq asid e.die)) s e pa pb ps → (st = 4 → domainTask s e.region) →
      ∃ t, exec (.tkdone r) s = .next t ∧ Completed s t e st pa pb ps ∧
        t.cctx.ctl.tkrec = (if s.cctx.ctl.tkrec = va then 0 else s.cctx.ctl.tkrec) ∧ t.cctx.point = onward s.cur ∧
        Keeps { ctx := fun c => noMark { c with task := 0, ctl := { c.ctl with tkrec := 0 } }
                machine := fun u => { noMem u with tasks := [], queue := [], msgs := [], nextId := 0 }
                bytes := doneTouched s pa pb } s t [] [] []) ∧
    ((∀ e y, s.taskAt asid va = some e → e.state ≠ .running y) →
      ∃ t, exec (.tkdone r) s = .next t ∧ t.cctx.point = onward s.cur ∧
        Keeps { ctx := noMark, machine := fun u => { u with dies := [] } } s t [] [] [])

/-- R154: TKGET, TKPOST and TKDONE. The model's choice: that the scheduler acts at the issue (log 5, log 31). -/
def Obligations.TaskResult : Prop := TkgetResult ∧ TkpostResult ∧ TkdoneResult

/-- R49, R50, R155: TRAP raises SWTRAP at its slot, with its immediate in tinfo, or 0 where it has none. -/
def Sys2Proof.Rules.TrapEntersHandler : Prop :=
  ∀ s : State, TrapReady s → Traps s .trap 15 0 ∧ ∀ r : TrapX, Traps s (.trapExt r) 15 (r.imm.zeroExtend 64)

/-- R53: a trap in handler mode, or where tv is 0, is a double trap: the context is HALTED where it stands, and the task that it runs
completes FAULTED. In handler mode the trap registers and sw keep their values; with tv = 0 they are written for the trap, and
handler mode is not entered. -/
def Sys2Proof.Rules.DoubleTrapHalts : Prop :=
  ∀ (s : State) (i : Instr) (info : Word64), (i = .trap ∧ info = 0) ∨ (∃ r : TrapX, i = .trapExt r ∧ info = r.imm.zeroExtend 64) →
    Alone s → s.cur.slot ≤ 8 → (s.cctx.handler = true ∨ s.cctx.ctl.tv = 0) →
    let halts := fun (t : State) => t.cctx.state = .halted ∧ t.cctx.handler = s.cctx.handler ∧
      (s.cctx.handler = true → t.cctx.ctl = s.cctx.ctl ∧ t.cctx.live.sw = s.cctx.live.sw) ∧
      (s.cctx.handler = false → t.cctx.ctl.tcause = ofN (15 + 2 ^ 8 * s.cur.slot) ∧ t.cctx.ctl.tinfo = info ∧
        t.cctx.ctl.tpc = s.cur.pc ∧ t.cctx.ctl.tsw = t.cctx.live.sw)
    (s.tasksOf s.cur.x = [] → ∃ t, exec i s = .next t ∧ halts t ∧ Keeps trapStrike s t [] [] []) ∧
    ∀ (e : TaskRec) (pa pb : Nat) (ps : Nat → Nat), s.tasksOf s.cur.x = [e] → s.seifOf s.cur.x = none →
      Completes (Translated s (schedReq e.asid e.die)) s e pa pb ps → domainTask s e.region →
      ∃ t, exec i s = .next t ∧ halts t ∧ Completed s t e 4 pa pb ps ∧
        Keeps { trapStrike with
                machine := fun u => { noMem u with dies := [], seifs := [], tasks := [], queue := [], msgs := [], nextId := 0 }
                bytes := doneTouched s pa pb } s t [] [] []

/-- R49, R50, R53, R155: trap entry and the double trap. The model's choice: that tsw takes the status word and that sw.SLOTRES
and sw.REPLEFT are written where tv = 0 (log 19), and readings of the completion of a task (log 31). -/
def Obligations.TrapEntry : Prop := TrapEntersHandler ∧ DoubleTrapHalts

/-- R48, R51, R53, R156: in handler mode, TRET with an acceptable tsw and a header at tpc restores sw with H clear and the banked
sticky state, and resumes at tpc in slot SLOTRES with REPLEFT issues still to come; at the end point of an end bundle the context
is DRAINING. Otherwise BADSTATUS re-enters the handler at tv, and with tv = 0 it is a double trap. A tpc that is no multiple of 4
holds no header. In task mode TRET raises ILLEGAL. The model's choice: readings of traps (log 19). -/
def Obligations.TretResumes : Prop :=
  ∀ s : State, Alone s → s.cctx.state = .running → s.ccore.istore = [] →
    let c := s.cctx
    let tsw := c.ctl.tsw.toNat
    let rest : Strike := { trapStrike with core := fun k => { k with istore := [] } }
    let back := ∃ t, exec .tret s = .next t ∧ t.cctx.ctl = { c.ctl with tcause := 3, tinfo := s.cur.pc } ∧
      t.cctx.live.sw = c.live.sw ∧ t.cctx.banked = c.banked ∧ t.cctx.point = atEntry c.ctl.tv ∧ t.cctx.state = .running ∧
      Keeps rest s t [] [] []
    let halted := ∃ t, exec .tret s = .next t ∧ t.cctx.state = .halted ∧ t.cctx.ctl = c.ctl ∧ t.cctx.live.sw = c.live.sw ∧
      t.cctx.banked = c.banked ∧ Keeps rest s t [] [] []
    (TrapReady s → Traps s .tret 1 (ofN ((Sys2Proof.encode .tret).headD 0))) ∧
    (c.handler = true → c.ctl.tpc.toNat % 4 ≠ 0 → (c.ctl.tv ≠ 0 → back) ∧ (c.ctl.tv = 0 → s.tasksOf s.cur.x = [] → halted)) ∧
    ∀ pa : Nat, c.handler = true → c.ctl.tpc.toNat % 4 = 0 → classify c.ctl.tpc ≠ .hole →
      Resolved s (s.reqOf s.cur.x 6 0) accFetch (ofN (c.ctl.tpc.toNat / 4096 * 4096)) pa → Sound s pa 4096 →
      let hdr := number 4 fun i => s.byte (pa + c.ctl.tpc.toNat % 4096 + i)
      let ok := tsw / 2 ^ 24 = 0 ∧ bitAt tsw 2 = false ∧ fld tsw 16 13 ≤ 9 ∧ hdr / 2 ^ 28 = 15 ∧ fld tsw 20 17 ≤ fld hdr 18 15
      let ends := fld tsw 16 13 = 9 ∧ fld tsw 20 17 = 0 ∧ bitAt hdr 11 = true
      (ok →
        ∃ t, exec .tret s = .next t ∧ t.cctx.live.sw = c.ctl.tsw ∧ t.cctx.handler = false ∧
          (∀ n, n ≠ s.cur.slot → fget? t.cctx.live.armed n = fget? c.banked n) ∧ t.cctx.banked = [] ∧ t.cctx.ctl = c.ctl ∧
          (¬ ends → t.cctx.state = .running) ∧ (ends → t.cctx.state = .draining) ∧
          t.cctx.point.pc = c.ctl.tpc ∧ t.cctx.point.j = fld hdr 18 15 - fld tsw 20 17 ∧ t.cctx.point.slot = fld tsw 16 13 ∧
          (t.cctx.point.ended = true ↔ ends) ∧ t.cctx.point.jumped = false ∧ Keeps rest s t [] [] []) ∧
      (¬ ok → c.ctl.tv ≠ 0 → back) ∧ (¬ ok → c.ctl.tv = 0 → s.tasksOf s.cur.x = [] → halted)

/-- R46, R157: CRD reads a listed register; a task-mode read of tkeep0 or tkeep1 raises PRIV, and a number not listed ILLEGAL. -/
def Sys2Proof.Rules.ControlRegisterRead : Prop :=
  ∀ (r : Crd) (s : State),
    (∀ v, controlValue s r.cr.toNat = some v → Plain s → (r.cr = 6 ∨ r.cr = 7 → s.cctx.handler = true) → WritesS s (.crd r) r.d v) ∧
    (TrapReady s → r.cr = 6 ∨ r.cr = 7 → Traps s (.crd r) 14 (ofN r.cr.toNat)) ∧
    (TrapReady s → controlValue s r.cr.toNat = none → Traps s (.crd r) 1 (ofN (((Sys2Proof.encode (.crd r)).headD 0))))

open Classical in
/-- R46, R47, R157: CWR writes the register it names, and every other control register reads as before; a task-mode write of a
register marked handler raises PRIV, and a number not listed ILLEGAL. -/
def Sys2Proof.Rules.ControlRegisterWrite : Prop :=
  ∀ (r : Cwr) (s : State), full s [srcS r.a r.wa] →
    (∀ old, controlValue s r.cr.toNat = some old → Alone s → (handlerOnly r.cr.toNat → s.cctx.handler = true) →
      ∃ t, exec (.cwr r) s = .next t ∧
        (∀ cr v, controlValue s cr = some v →
          controlValue t cr = some (if cr = r.cr.toNat then written cr v ((regs s).sv r.a) else v)) ∧
        (r.cr = 8 → t.cctx.live.ctr = 0) ∧ (r.cr ≠ 8 → t.cctx.live.ctr = s.cctx.live.ctr) ∧
        (r.cr = 9 → t.ccore.hbTimer = 0) ∧ (r.cr ≠ 9 → t.ccore.hbTimer = s.ccore.hbTimer) ∧
        t.cctx.point = onward s.cur ∧ Keeps controlStrike s t [] [] []) ∧
    (TrapReady s → handlerOnly r.cr.toNat → Traps s (.cwr r) 14 (ofN r.cr.toNat)) ∧
    (TrapReady s → controlValue s r.cr.toNat = none → Traps s (.cwr r) 1 (ofN (((Sys2Proof.encode (.cwr r)).headD 0))))

/-- R157: CRD and CWR. -/
def Obligations.ControlRegisterResult : Prop := ControlRegisterRead ∧ ControlRegisterWrite

namespace Sys2Proof.Rules

open Sys2Proof.Machine Sys2Proof.Safety

/-! ### Vector forms -/

/-- Lane i of n bytes of a register (R159). -/
def lane (n : Nat) (v : VReg) (i : Nat) : Nat := v.toNat / 2 ^ (8 * n * i) % 2 ^ (8 * n)

/-- The lane width of a form, in bytes (R159): b 1, h 2, w 4, d 8. -/
def wid (w : BitVec 2) : Nat := [1, 2, 4, 8].getD w.toNat 0

/-- Lane i of n bytes is active under p_r (R159). -/
def act (s : State) (p : BitVec 4) (n i : Nat) : Bool := ((regs s).pv p).getLsbD (n * i)

/-- A form that writes V[d], full, with a value that `P` describes, and nothing else but what `e` strikes out. -/
def WritesVX (e : Strike) (s : State) (i : Instr) (d : BitVec 9) (P : State → VReg → Prop) : Prop :=
  ∃ t, exec i s = .next t ∧ P t (t.cctx.live.vv d) ∧ fget? t.cctx.live.vWait d.toNat = none ∧
    t.cctx.point = onward s.cur ∧ Keeps e s t [] [d] []

/-- Every lane of a register: the active ones take `g`, modulo the lane's width, and the inactive ones keep what V[d] held. -/
def PerLane (s : State) (p : BitVec 4) (n : Nat) (d : BitVec 9) (g : Nat → Nat) (v : VReg) : Prop :=
  ∀ i, i < 128 / n → lane n v i = if act s p n i then g i % 2 ^ (8 * n) else lane n ((regs s).vv d) i

/-- The signed value of an m-bit number. -/
def signedBits (m v : Nat) : Int := if 2 * v < 2 ^ m then v else (v : Int) - (2 ^ m : Nat)

/-- The low m bits of an integer, in two's complement. -/
def lowBits (m : Nat) (i : Int) : Nat := (i % (2 ^ m : Nat)).toNat

/-- An integer held to the signed range of m bits. -/
def clampS (m : Nat) (i : Int) : Int := max (-(2 ^ (m - 1) : Nat)) (min ((2 ^ (m - 1) : Nat) - 1) i)

/-- An integer held to the unsigned range of m bits. -/
def clampU (m : Nat) (i : Int) : Int := max 0 (min ((2 ^ m : Nat) - 1) i)

/-- A sum or difference (R162): wrapped, or saturated to the signed range or, with U, to the unsigned one. -/
def satSum (r : VF) (op : Int → Int → Int) (m a b : Nat) : Nat :=
  if r.sat then
    if r.sub.getLsbD 0 then lowBits m (clampU m (op a b))
    else lowBits m (clampS m (op (signedBits m a) (signedBits m b)))
  else lowBits m (op a b)

/-- The two-operand lane results of R162, for lanes of m bits. -/
def vecInteger (i : Instr) : Option (VF × (Nat → Nat → Nat → Nat)) :=
  match i with
  | .vadd r => some (r, satSum r (· + ·))
  | .vsub r => some (r, satSum r (· - ·))
  | .vmul r => some (r, fun m a b => a * b % 2 ^ m)
  | .vmulh r => some (r, fun m a b =>
      if r.sub.getLsbD 0 then a * b / 2 ^ m else lowBits m (signedBits m a * signedBits m b / (2 ^ m : Nat)))
  | .vmin r => some (r, fun m a b =>
      if r.sub.getLsbD 0 then min a b else lowBits m (min (signedBits m a) (signedBits m b)))
  | .vmax r => some (r, fun m a b =>
      if r.sub.getLsbD 0 then max a b else lowBits m (max (signedBits m a) (signedBits m b)))
  | .vand r => some (r, fun _ a b => a &&& b)
  | .vor r => some (r, fun _ a b => a ||| b)
  | .vxor r => some (r, fun _ a b => a ^^^ b)
  | .vandn r => some (r, fun m a b => a &&& (2 ^ m - 1 - b))
  | .vshl r => some (r, fun m a b => a * 2 ^ (b % m))
  | .vshr r => some (r, fun m a b => a / 2 ^ (b % m))
  | .vsra r => some (r, fun m a b => lowBits m (signedBits m a / (2 ^ (b % m) : Nat)))
  | _ => none

/-- The enables of sw.FEN, in the order NV 16, DZ 8, OF 4, UF 2, NX 1 (R47). -/
def enabled (s : State) : Nat := s.cctx.live.sw.toNat / 2 ^ 8 % 32

/-- sw with flags raised (R47, R67). -/
def raised (s : State) (flags : Nat) : Word64 := s.cctx.live.sw ||| ofN (flags % 32 * 2 ^ 3)

/-- The flags of the active lanes. -/
def flagsOver (s : State) (p : BitVec 4) (n : Nat) (g : Nat → Nat) : Nat :=
  (List.range (128 / n)).foldl (fun acc i => if act s p n i then acc ||| g i else acc) 0

/-- Strikes out sw. -/
def swStrike : Strike := { live := fun l => { l with sw := 0 } }

/-- An FP form's result and flags (R67): the flags are raised, and where none is enabled the result is written; otherwise FPX is
taken with the flags in tinfo, and nothing is written. -/
def FpVector (s : State) (i : Instr) (d : BitVec 9) (flags : Nat) (P : State → VReg → Prop) : Prop :=
  (flags &&& enabled s = 0 → WritesVX swStrike s i d fun t v => t.cctx.live.sw = raised s flags ∧ P t v) ∧
  (flags &&& enabled s ≠ 0 → TrapReady s → TrapsSw s i 11 (ofN flags) (raised s flags))

/-- The format of an FP form (R163): w is FP32, and h is FP16, or BF16 with Sub[0]. -/
def fpFormat (r : VF) : Fmt := if r.w = 2 then fp32 else if r.sub.getLsbD 0 then bf16 else fp16

/-- The value of lane i of a source, with FI (R66). -/
def fpLane (s : State) (r : VF) (a : BitVec 9) (i : Nat) : FVal := (fpFormat r).valI r.fi (lane (wid r.w) ((regs s).vv a) i)

/-- The rounding mode of sw.RM (R47). -/
def mode (s : State) : Nat := s.cctx.live.sw.toNat % 4

/-- The results of the FP forms (R163, R164), with their sources: each is the model's correctly rounded operation of its format. -/
def vecFloat (i : Instr) (s : State) : Option (VF × List Source × (Nat → Flagged)) :=
  match i with
  | .vfadd r => some (r, [srcV r.a r.wa, srcV r.b r.wb], fun i =>
      (fpFormat r).add r.fo (mode s) (fpLane s r r.a i) (fpLane s r r.b i))
  | .vfsub r => some (r, [srcV r.a r.wa, srcV r.b r.wb], fun i =>
      (fpFormat r).add r.fo (mode s) (fpLane s r r.a i) (fpLane s r r.b i).negate)
  | .vfmul r => some (r, [srcV r.a r.wa, srcV r.b r.wb], fun i =>
      (fpFormat r).mul r.fo (mode s) (fpLane s r r.a i) (fpLane s r r.b i))
  | .vfma r => some (r, [srcV r.a r.wa, srcV r.b r.wb, srcV r.c r.wc], fun i =>
      (fpFormat r).fma r.fo (mode s) (fpLane s r r.a i) (fpLane s r r.b i) (fpLane s r r.c i))
  | .vfms r => some (r, [srcV r.a r.wa, srcV r.b r.wb, srcV r.c r.wc], fun i =>
      (fpFormat r).fma r.fo (mode s) (fpLane s r r.a i) (fpLane s r r.b i) (fpLane s r r.c i).negate)
  | .vfmin r => some (r, [srcV r.a r.wa, srcV r.b r.wb], fun i =>
      (fpFormat r).minmax false r.fo (mode s) (fpLane s r r.a i) (fpLane s r r.b i))
  | .vfmax r => some (r, [srcV r.a r.wa, srcV r.b r.wb], fun i =>
      (fpFormat r).minmax true r.fo (mode s) (fpLane s r r.a i) (fpLane s r r.b i))
  | .vrcp r => some (r, [srcV r.a r.wa], fun i => (fpFormat r).rcp r.fo (mode s) (fpLane s r r.a i))
  | .vrsq r => some (r, [srcV r.a r.wa], fun i => (fpFormat r).rsq r.fo (mode s) (fpLane s r r.a i))
  | .vexp2 r => some (r, [srcV r.a r.wa], fun i => (fpFormat r).exp2 r.fo (mode s) (fpLane s r r.a i))
  | .vlog2 r => some (r, [srcV r.a r.wa], fun i => (fpFormat r).log2 r.fo (mode s) (fpLane s r r.a i))
  | _ => none

/-- The float condition codes of R130. -/
def fccHolds (cc : BitVec 4) (a b : FVal) : Prop :=
  let un := a.isNan = true ∨ b.isNan = true
  (cc = 0 ∧ ¬ un ∧ cmpVal a b = 0) ∨ (cc = 1 ∧ (un ∨ cmpVal a b ≠ 0)) ∨ (cc = 2 ∧ ¬ un ∧ cmpVal a b < 0) ∨
    (cc = 3 ∧ ¬ un ∧ cmpVal a b ≤ 0) ∨ (cc = 4 ∧ ¬ un ∧ 0 < cmpVal a b) ∨ (cc = 5 ∧ ¬ un ∧ 0 ≤ cmpVal a b) ∨
    (cc = 6 ∧ un) ∨ (cc = 7 ∧ ¬ un)

/-- The p register that a 9-bit field names. -/
def pOf (r : BitVec 9) : BitVec 4 := r.truncate 4
/-- The s register that a 9-bit field names. -/
def sOf (r : BitVec 9) : BitVec 6 := r.truncate 6

/-- A form that writes P[d] with a value that `P` describes, where d is not 0, and nothing else but what `e` strikes out. -/
def WritesPX (e : Strike) (s : State) (i : Instr) (d : BitVec 4) (P : State → PReg → Prop) : Prop :=
  ∃ t, exec i s = .next t ∧ (d ≠ 0 → P t (t.cctx.live.pv d)) ∧ t.cctx.point = onward s.cur ∧ Keeps e s t [] [] [d]

/-- Every lane's bits of a predicate: an active lane's are all `c`, an inactive lane's keep what P[d] held (R159). -/
def PerPred (s : State) (p : BitVec 4) (n : Nat) (d : BitVec 4) (c : Nat → Prop) (q : PReg) : Prop :=
  ∀ i j, i < 128 / n → j < n →
    (act s p n i = true → (q.getLsbD (n * i + j) = true ↔ c i)) ∧
    (act s p n i = false → q.getLsbD (n * i + j) = ((regs s).pv d).getLsbD (n * i + j))

/-- The lanes that a predicate sets, below a bound. -/
def setLanes (p : PReg) (n : Nat) : List Nat := (List.range (128 / n)).filter fun i => p.getLsbD (n * i)

end Sys2Proof.Rules

/-- R159, R162: the integer vector forms write each active lane's result to V[d], and inactive lanes keep their value. -/
def Obligations.VectorIntegerResult : Prop :=
  (∀ (i : Instr) (r : VF) (f : Nat → Nat → Nat → Nat), vecInteger i = some (r, f) →
    ∀ s : State, Plain s → full s [srcV r.a r.wa, srcV r.b r.wb] →
      let n := wid r.w
      WritesVX {} s i r.d fun _ v => PerLane s r.p n r.d
        (fun j => f (8 * n) (lane n ((regs s).vv r.a) j) (lane n ((regs s).vv r.b) j)) v) ∧
  (∀ (r : VF) (s : State), Plain s → full s [srcV r.a r.wa] →
    let n := wid r.w
    WritesVX {} s (.vabs r) r.d fun _ v => PerLane s r.p n r.d
      (fun j =>
        let a := signedBits (8 * n) (lane n ((regs s).vv r.a) j)
        if r.sat then (clampS (8 * n) a.natAbs).toNat else a.natAbs) v)

/-- R67, R163, R164: the FP vector forms write each active lane's correctly rounded result, raise the flags of the active lanes,
and take FPX, writing nothing, where a raised flag is enabled. The model's choice: the results are those of the model's operations
on formats, and VEXP2 and VLOG2 those of its enclosures (log 10). -/
def Obligations.VectorFloatResult : Prop :=
  ∀ (i : Instr) (s : State) (r : VF) (l : List Source) (g : Nat → Flagged), vecFloat i s = some (r, l, g) →
    i.wellFormed = true → Plain s → full s l →
      FpVector s i r.d (flagsOver s r.p (wid r.w) fun j => (g j).2) fun _ v => PerLane s r.p (wid r.w) r.d (fun j => (g j).1) v

/-- R130, R159, R165: VCMP and VFCMP set all bits of an active lane where its condition holds and clear them where it does not; a
signalling NaN raises NV. -/
def Sys2Proof.Rules.VectorCompareResult : Prop :=
  (∀ (cc : BitVec 4) (r : VF) (s : State), (Instr.vcmp cc r).wellFormed = true → Plain s →
    full s [srcV r.a r.wa, srcV r.b r.wb] →
    let n := wid r.w
    let a := fun j => lane n ((regs s).vv r.a) j
    let b := fun j => lane n ((regs s).vv r.b) j
    WritesPX {} s (.vcmp cc r) (pOf r.d) fun _ q => PerPred s r.p n (pOf r.d)
      (fun j => ccHolds cc (signedBits (8 * n) (a j)) (signedBits (8 * n) (b j)) (a j) (b j)) q) ∧
  (∀ (cc : BitVec 4) (r : VF) (s : State), (Instr.vfcmp cc r).wellFormed = true → Plain s →
    full s [srcV r.a r.wa, srcV r.b r.wb] →
    let n := wid r.w
    let a := fpLane s r r.a
    let b := fpLane s r r.b
    let flags := flagsOver s r.p n fun j => if (a j).isSig || (b j).isSig then 16 else 0
    (flags &&& enabled s = 0 →
      WritesPX swStrike s (.vfcmp cc r) (pOf r.d) fun t q =>
        t.cctx.live.sw = raised s flags ∧ PerPred s r.p n (pOf r.d) (fun j => fccHolds cc (a j) (b j)) q) ∧
    (flags &&& enabled s ≠ 0 → TrapReady s → TrapsSw s (.vfcmp cc r) 11 (ofN flags) (raised s flags)))

/-- R166: the predicate operations. -/
def Sys2Proof.Rules.PredicateOperationResult : Prop :=
  ∀ (r : VF) (s : State), Plain s →
    let a := (regs s).pv (pOf r.a)
    let b := (regs s).pv (pOf r.b)
    WritesPX {} s (.pand r) (pOf r.d) (fun _ q => ∀ n, q.getLsbD n = (a.getLsbD n && b.getLsbD n)) ∧
    WritesPX {} s (.por r) (pOf r.d) (fun _ q => ∀ n, q.getLsbD n = (a.getLsbD n || b.getLsbD n)) ∧
    WritesPX {} s (.pxor r) (pOf r.d) (fun _ q => ∀ n, q.getLsbD n = (a.getLsbD n ^^ b.getLsbD n)) ∧
    WritesPX {} s (.pnot r) (pOf r.d) (fun _ q => ∀ n, n < 128 → q.getLsbD n = !a.getLsbD n) ∧
    WritesS s (.ppop r) (sOf r.d) (ofN (setLanes a (wid r.w)).length) ∧
    WritesS s (.pfirst r) (sOf r.d) (ofN ((setLanes a (wid r.w)).headD (128 / wid r.w)))

/-- R165, R166: vector compares and predicate operations. -/
def Obligations.PredicateResult : Prop := VectorCompareResult ∧ PredicateOperationResult

namespace Sys2Proof.Rules

open Sys2Proof.Machine Sys2Proof.Safety

/-! ### Conversions and data movement -/

/-- Element i of m bits of a register. -/
def elem (m : Nat) (v : VReg) (i : Nat) : Nat := v.toNat / 2 ^ (m * i) % 2 ^ m

/-- The signed or unsigned value of lane j of a form's source as a 64-bit word, for an extract (R172). -/
def extracted (r : VF) (v : Nat) : Word64 := if r.sub.getLsbD 1 then ofI (signedBits (8 * wid r.w) v) else ofN v

/-- Lane i of the result of VSHUF (R171). -/
def shuffled (sub n : Nat) (a b : VReg) (i : Nat) : Nat :=
  let L := 128 / n
  let c := fun j => if j < L then lane n a j else lane n b (j - L)
  if sub = 0 then (if i % 2 = 0 then lane n a (i / 2) else lane n b (i / 2))
  else if sub = 1 then (if i % 2 = 0 then lane n a (i / 2 + L / 2) else lane n b (i / 2 + L / 2))
  else if sub = 2 then c (2 * i)
  else if sub = 3 then c (2 * i + 1)
  else lane n a (L - 1 - i)

/-- The active lanes of a form below lane i. -/
def activeBelow (s : State) (p : BitVec 4) (n i : Nat) : Nat := ((List.range i).filter fun j => act s p n j).length

/-! ### Selection (R174) -/

/-- The rank of a key of m bits: integers by value; floats by value with the two zeros equal, and a NaN below everything. -/
def rank (kind : Nat) (f : Fmt) (v : Nat) : Int :=
  if kind = 0 then signedBits f.bits v
  else if kind = 1 then v
  else if (f.val v).isNan then -(2 ^ f.bits : Nat)
  else if v / 2 ^ (f.bits - 1) % 2 = 1 then -((v % 2 ^ (f.bits - 1) : Nat) : Int) else (v % 2 ^ (f.bits - 1) : Nat)

/-- Lane i is chosen before lane j. -/
def ahead (kind : Nat) (f : Fmt) (a : VReg) (n i j : Nat) : Prop :=
  rank kind f (lane n a j) < rank kind f (lane n a i) ∨ (rank kind f (lane n a i) = rank kind f (lane n a j) ∧ i < j)

/-- The lanes chosen, in order: the active ones that stand ahead of every other active lane, at most k. -/
structure Chosen (s : State) (r : VF) (f : Fmt) (l : List Nat) : Prop where
  active : ∀ i ∈ l, i < 128 / wid r.w ∧ act s r.p (wid r.w) i = true
  order : l.Pairwise (ahead (r.sub.toNat % 4) f ((regs s).vv r.a) (wid r.w))
  count : l.length = min r.c.toNat (activeBelow s r.p (wid r.w) (128 / wid r.w))
  rest : ∀ i, i < 128 / wid r.w → act s r.p (wid r.w) i = true → i ∉ l →
    ∀ j ∈ l, ahead (r.sub.toNat % 4) f ((regs s).vv r.a) (wid r.w) j i

end Sys2Proof.Rules

/-- R167, R168: VCVT converts M = 1,024 / wide elements, the narrower side lying in the part that Sub names; elements outside the
written range, and those that the predicate does not select, keep their values. -/
def Obligations.VectorConvertResult : Prop :=
  ∀ (r : VF) (s : State), (Instr.vcvt r).wellFormed = true → Plain s → full s [srcV r.a r.wa] →
    let c := convOf r.c.toNat
    let wide := max c.src c.dst
    let m := 1024 / wide
    let at' := fun (bits j : Nat) => if bits = wide then j else r.sub.toNat * m + j
    let on := fun j => act s r.p (wide / 8) j
    let res := fun j => c.run r.fi r.fo r.sat (mode s) (elem c.src ((regs s).vv r.a) (at' c.src j))
    let flags := (List.range m).foldl (fun acc j => if on j then acc ||| (res j).2 else acc) 0
    FpVector s (.vcvt r) r.d flags fun _ v =>
      (∀ j, j < m → on j = true → elem c.dst v (at' c.dst j) = (res j).1 % 2 ^ c.dst) ∧
      (∀ i, i < 1024 / c.dst → (∀ j, j < m → on j = true → i ≠ at' c.dst j) →
        elem c.dst v i = elem c.dst ((regs s).vv r.d) i)

/-- R62, R64, R169: VSXPACK packs 32 FP32 lanes into two blocks of the format, which take the bytes that the part names; VSXUNPACK
writes the values of two blocks to 32 FP32 lanes. The model's choice: the part number at the limit that the rule gives (log 26).
-/
def Obligations.SharedExponentResult : Prop :=
  ∀ (r : VF) (s : State), Plain s → full s [srcV r.a r.wa] → r.w.toNat ≤ 2 →
    let size := 8 * [18, 12, 8].getD r.w.toNat 0
    (r.sub.toNat + 1) * (2 * size) ≤ 1024 →
    let xs := fun h => (List.range 16).map fun i => fp32.val (lane 4 ((regs s).vv r.a) (16 * h + i))
    let b0 := sxPack r.w.toNat (mode s) (xs 0)
    let b1 := sxPack r.w.toNat (mode s) (xs 1)
    FpVector s (.vsxpack r) r.d (b0.2 ||| b1.2) (fun _ v =>
      elem size v (2 * r.sub.toNat) = b0.1 % 2 ^ size ∧ elem size v (2 * r.sub.toNat + 1) = b1.1 % 2 ^ size ∧
      ∀ n, (n < 2 * size * r.sub.toNat ∨ 2 * size * (r.sub.toNat + 1) ≤ n) → v.getLsbD n = ((regs s).vv r.d).getLsbD n) ∧
    WritesVX {} s (.vsxunpack r) r.d fun _ v => ∀ h i, h < 2 → i < 16 →
      lane 4 v (16 * h + i) =
        (fp32.deliver false RNE (sxVal r.w.toNat (elem size ((regs s).vv r.a) (2 * r.sub.toNat + h)) i)).1 % 2 ^ 32

/-- R170, R171: VPERM, VSHUF, VBCAST, VSEL, VCOMPRESS and VEXPAND; VSHUF.rev reads one source. -/
def Sys2Proof.Rules.VectorLanesMoved : Prop :=
  ∀ (r : VF) (s : State), Plain s →
    let n := wid r.w
    let L := 128 / n
    let a := (regs s).vv r.a
    let b := (regs s).vv r.b
    (full s [srcV r.a r.wa, srcV r.b r.wb] →
      WritesVX {} s (.vperm r) r.d (fun _ v => PerLane s r.p n r.d (fun i => lane n a (lane n b i % L)) v) ∧
      WritesVX {} s (.vshuf r) r.d (fun _ v => PerLane s r.p n r.d (shuffled r.sub.toNat n a b) v) ∧
      WritesVX {} s (.vsel r) r.d (fun _ v => PerLane s r.p n r.d
        (fun i => if act s (pOf r.c) n i then lane n a i else lane n b i) v)) ∧
    (full s [srcS (sOf r.a) r.wa] →
      WritesVX {} s (.vbcast r) r.d (fun _ v => PerLane s r.p n r.d (fun _ => ((regs s).sv (sOf r.a)).toNat) v)) ∧
    (full s [srcV r.a r.wa] →
      (r.sub = 4 → WritesVX {} s (.vshuf r) r.d (fun _ v => PerLane s r.p n r.d (fun i => lane n a (L - 1 - i)) v)) ∧
      WritesVX {} s (.vcompress r) r.d (fun _ v =>
        (∀ i, i < L → act s r.p n i = true → lane n v (activeBelow s r.p n i) = lane n a i) ∧
        ∀ i, activeBelow s r.p n L ≤ i → i < L → lane n v i = 0) ∧
      WritesVX {} s (.vexpand r) r.d (fun _ v => PerLane s r.p n r.d (fun i => lane n a (activeBelow s r.p n i)) v))

/-- R172: VMOVS inserts one lane into V[d], or extracts one into S[d], the lane index taken modulo the number of lanes. -/
def Sys2Proof.Rules.VectorScalarMoveResult : Prop :=
  ∀ (r : VF) (s : State), Plain s →
    let n := wid r.w
    let j := ((regs s).sv (sOf r.b)).toNat % (128 / n)
    (r.sub.getLsbD 0 = true → full s [srcV r.a r.wa, srcS (sOf r.b) r.wb] →
      WritesS s (.vmovs r) (sOf r.d) (extracted r (lane n ((regs s).vv r.a) j))) ∧
    (r.sub.getLsbD 0 = false → full s [srcS (sOf r.a) r.wa, srcS (sOf r.b) r.wb] →
      WritesVX {} s (.vmovs r) r.d fun _ v => ∀ i, i < 128 / n →
        lane n v i = if i = j then ((regs s).sv (sOf r.a)).toNat % 2 ^ (8 * n) else lane n ((regs s).vv r.d) i)

/-- R170 to R172: the forms that move lanes. -/
def Obligations.VectorMovementResult : Prop := VectorLanesMoved ∧ VectorScalarMoveResult

/-- R81, R173: VRED writes lane 0 of V[d] with the reduction of the active lanes, and VSCAN each active lane with the reduction of
the active lanes up to it, a NaN as the canonical one; for the integer operations they are the sum modulo 2^n, the minimum and the
maximum. The model's choice: the flags that VSCAN raises (log 26). -/
def Obligations.ReductionResult : Prop :=
  ∀ (r : VF) (s : State), (Instr.vred r).wellFormed = true → Plain s → full s [srcV r.a r.wa] →
    let n := wid r.w
    let m := 8 * n
    let start := redLanes r ((regs s).pv r.p) ((regs s).vv r.a)
    let red := (redTree (redStep r (mode s)) 7 start).headD (0, 0)
    let scan := scanFrom (redStep r (mode s)) (Nat.log2 (128 / n)) 1 start
    let f := if r.w = 2 then fp32 else fp16
    let out := fun v => if 5 ≤ r.sub.toNat ∧ (f.val v).isNan = true then f.nanCode else v
    let upto := fun k => ((List.range k).filter fun i => act s r.p n i).map fun i => lane n ((regs s).vv r.a) i
    let total := fun (l : List Nat) =>
      if r.sub = 0 then l.sum % 2 ^ m
      else if r.sub = 1 then lowBits m (l.foldr (fun v acc => min (signedBits m v) acc) ((2 ^ (m - 1) : Nat) - 1))
      else if r.sub = 2 then lowBits m (l.foldr (fun v acc => max (signedBits m v) acc) (-(2 ^ (m - 1) : Nat)))
      else if r.sub = 3 then l.foldr min (2 ^ m - 1)
      else l.foldr max 0
    FpVector s (.vred r) r.d red.2 (fun _ v => lane n v 0 = red.1 % 2 ^ m ∧
      (r.sub.toNat ≤ 4 → lane n v 0 = total (upto (128 / n))) ∧
      ∀ i, 0 < i → i < 128 / n → lane n v i = lane n ((regs s).vv r.d) i) ∧
    FpVector s (.vscan r) r.d (scan.foldl (fun acc v => acc ||| v.2) 0) fun _ v =>
      PerLane s r.p n r.d (fun i => out (scan.getD i (0, 0)).1) v ∧
      (r.sub.toNat ≤ 4 → PerLane s r.p n r.d (fun i => total (upto (i + 1))) v)

/-- R174: VTOPK writes the k largest keys of the active lanes in descending order, equal keys by the lower lane first, and beside
each the lane it came from, or that lane of V[b]; where fewer lanes are active, the kind's lowest key and an index of all ones.
Its widths are h and w, its kinds three, its k (word 1 [21:13]) 1 to the number of lanes, its d even, and without X its b zero. -/
def Obligations.TopKResult : Prop :=
  (∀ r : VF, (Instr.vtopk r).wellFormed = true →
    (r.w = 1 ∨ r.w = 2) ∧ r.sub.toNat % 4 < 3 ∧ 1 ≤ r.c.toNat ∧ r.c.toNat ≤ 128 / wid r.w ∧ r.d.toNat % 2 = 0 ∧
      (r.sub.getLsbD 2 = false → r.b = 0) ∧ (encode (.vtopk r)).getD 1 0 / 2 ^ 13 % 2 ^ 9 = r.c.toNat) ∧
  ∀ (r : VF) (s : State), (Instr.vtopk r).wellFormed = true → Plain s →
    full s (srcV r.a r.wa :: if r.sub.getLsbD 2 then [srcV r.b r.wb] else []) →
    let n := wid r.w
    let f := if r.w = 2 then fp32 else fp16
    let kind := r.sub.toNat % 4
    let a := (regs s).vv r.a
    let key := fun i => if kind = 2 ∧ (f.val (lane n a i)).isNan = true then f.nanCode else lane n a i
    let lowest := if kind = 0 then 2 ^ (8 * n - 1) else if kind = 1 then 0 else f.infinity true
    ∃ (t : State) (l : List Nat), exec (.vtopk r) s = .next t ∧ Chosen s r f l ∧
      (∀ m (h : m < l.length), lane n (t.cctx.live.vv r.d) m = key l[m] ∧
        lane n (t.cctx.live.vv (r.d + 1)) m = if r.sub.getLsbD 2 then lane n ((regs s).vv r.b) l[m] else l[m]) ∧
      (∀ m, l.length ≤ m → m < r.c.toNat → lane n (t.cctx.live.vv r.d) m = lowest ∧
        lane n (t.cctx.live.vv (r.d + 1)) m = 2 ^ (8 * n) - 1) ∧
      (∀ m, r.c.toNat ≤ m → m < 128 / n → lane n (t.cctx.live.vv r.d) m = lane n ((regs s).vv r.d) m ∧
        lane n (t.cctx.live.vv (r.d + 1)) m = lane n ((regs s).vv (r.d + 1)) m) ∧
      t.cctx.point = onward s.cur ∧ Keeps {} s t [] [r.d, r.d + 1] []

namespace Sys2Proof.Rules

open Sys2Proof.Machine Sys2Proof.Safety

/-! ### LP forms -/

/-- The mask of the active LP lanes of which `bad` holds (R80). -/
def lpMaskOf (s : State) (p : BitVec 4) (bad : Nat → Bool) : Nat :=
  ((List.range 16).map fun i => if act s p 8 i && bad i then 2 ^ i else 0).sum

/-- An LP form with a result in each lane (R177): LPRANGE, with the mask of the active lanes that have none, and nothing written;
otherwise the results are written. -/
def LpVector (s : State) (i : Instr) (r : VF) (g : Nat → Option Nat) (P : State → VReg → Prop) : Prop :=
  let m := lpMaskOf s r.p fun j => (g j).isNone
  (m = 0 → WritesVX {} s i r.d P) ∧ (m ≠ 0 → TrapReady s → Traps s i 9 (ofN m))

/-- The LP operations of two operands (R77, R78). -/
def vecLp (i : Instr) : Option (VF × (Nat → Nat → Option Nat)) :=
  match i with
  | .vlpmul r => some (r, lpMul)
  | .vlpadd r => some (r, fun a b => lpSum [a, b])
  | .vlpmax r => some (r, fun a b => some (lpMax a b))
  | .vlpdiv r => some (r, lpDiv)
  | _ => none

/-- The w-lanes 16h + i of V[d] for the active LP lanes i; the other w-lanes keep their values (R178). -/
def PerHalf (s : State) (p : BitVec 4) (h : Nat) (d : BitVec 9) (g : Nat → Nat) (v : VReg) : Prop :=
  ∀ j, j < 32 → lane 4 v j =
    if j / 16 = h ∧ act s p 8 (j % 16) = true then g (j % 16) % 2 ^ 32 else lane 4 ((regs s).vv d) j

/-! ### Random bits -/

/-- A word of the generator of R181, in arithmetic modulo 2^64. -/
def randomWord (seed ctr i : Nat) : Nat :=
  let M := 2 ^ 64
  let z := (seed + (16 * ctr + i + 1) * 0x9E3779B97F4A7C15) % M
  let z := (Nat.xor z (z / 2 ^ 30)) * 0xBF58476D1CE4E5B9 % M
  let z := (Nat.xor z (z / 2 ^ 27)) * 0x94D049BB133111EB % M
  Nat.xor z (z / 2 ^ 31)

/-- Byte b of the 1,024 bits of a draw. -/
def randomByte (seed ctr b : Nat) : Nat := randomWord seed ctr (b / 8) / 2 ^ (8 * (b % 8)) % 256

/-! ### Vector memory -/

/-- The base address of a form with a displacement and a stride, both in units of 8 bytes (R118, R175). -/
def vectorEa (s : State) (r : VM) : Word64 := (regs s).sv r.s + ofI (8 * r.disp.toInt) + ofI (8 * (s.cur.k * r.stride.toInt))

/-- Where the element of lane i stands, for the vector memory forms, and the width of a lane (R175). -/
structure VecForm where
  v : BitVec 9
  p : BitVec 4
  n : Nat
  cls : Nat
  sources : List Source
  addr : Nat → Word64
  /-- The address whose hole and alignment are checked whatever the predicate holds, and what it must be a multiple of. -/
  whole : Option (Word64 × Nat)

/-- The loads. -/
def vectorLoad (s : State) (i : Instr) : Option VecForm :=
  match i with
  | .vld r => some { v := r.v, p := r.p, n := wid r.w, cls := r.cls.toNat, sources := [srcS r.s r.wb],
                     addr := fun i => vectorEa s r + ofN (wid r.w * i), whole := some (vectorEa s r, 64) }
  | .vlds r => some { v := r.v, p := r.p, n := wid r.w, cls := r.cls.toNat, sources := [srcS r.s r.wb, srcS (r.s + 1) r.wb],
                      addr := fun i => vectorEa s r + ofN i * (regs s).sv (r.s + 1), whole := none }
  | .vgath r => some { v := r.v, p := r.p, n := wid r.w, cls := r.cls.toNat, sources := [srcS r.s r.wb, srcV r.x r.wx],
                       addr := fun i => (regs s).sv r.s + ofN (lane (wid r.w) ((regs s).vv r.x) i * wid r.w), whole := none }
  | .vldb r => some { v := r.v, p := r.p, n := wid r.w, cls := r.cls.toNat, sources := [srcS r.s r.wb],
                      addr := fun _ => vectorEa s r, whole := some (vectorEa s r, wid r.w) }
  | _ => none

/-- The stores. -/
def vectorStore (s : State) (i : Instr) : Option VecForm :=
  match i with
  | .vst r => some { v := r.v, p := r.p, n := wid r.w, cls := r.cls.toNat, sources := [srcS r.s r.wb, srcV r.v r.wv],
                     addr := fun i => vectorEa s r + ofN (wid r.w * i), whole := some (vectorEa s r, 64) }
  | .vsts r => some { v := r.v, p := r.p, n := wid r.w, cls := r.cls.toNat
                      sources := [srcS r.s r.wb, srcS (r.s + 1) r.wb, srcV r.v r.wv]
                      addr := fun i => vectorEa s r + ofN i * (regs s).sv (r.s + 1), whole := none }
  | .vscat r => some { v := r.v, p := r.p, n := wid r.w, cls := r.cls.toNat
                       sources := [srcS r.s r.wb, srcV r.x r.wx, srcV r.v r.wv]
                       addr := fun i => (regs s).sv r.s + ofN (lane (wid r.w) ((regs s).vv r.x) i * wid r.w), whole := none }
  | _ => none

/-- The addresses of a form are acceptable (R175): the base where the form checks it, and each active lane's. -/
def VecForm.aligned (f : VecForm) (s : State) : Prop :=
  (∀ w, f.whole = some w → classify w.1 ≠ .hole ∧ w.1.toNat % w.2 = 0) ∧
    ∀ i, i < 128 / f.n → act s f.p f.n i = true → classify (f.addr i) ≠ .hole ∧ (f.addr i).toNat % f.n = 0

/-- Each active lane's element resolves to memory that can be read. -/
def Readable (s : State) (f : VecForm) (pa : Nat → Nat) : Prop :=
  ∀ i, i < 128 / f.n → act s f.p f.n i = true →
    Resolved s (s.reqOf s.cur.x 1 f.cls) accRead (f.addr i) (pa i) ∧ Clean s (f.addr i) (pa i) f.n

/-- V[d] is empty and waits for a value on its way, which is the only one to have been sent (R135, R176). -/
def AwaitsV (s t : State) (d : BitVec 9) (P : VReg → Prop) : Prop :=
  ∃ a, t.cctx.arrivals = s.cctx.arrivals ++ [a] ∧ a.isV = true ∧ a.reg = d.toNat ∧ P a.val ∧ a.poison = false ∧
    fget? t.cctx.live.vWait d.toNat = some a.tok

/-- The byte that a gate's writes give an address, the later ones first. -/
def lastWrite (g : GateEnt) (a : Word64) : Option Byte := (g.byte a).map (·.1)

end Sys2Proof.Rules

/-- R77, R78, R80, R177: the LP forms write the LP result of each active lane, or raise LPRANGE with the lanes concerned in tinfo
and write nothing. -/
def Obligations.LpArithmeticResult : Prop :=
  ∀ (i : Instr) (r : VF) (f : Nat → Nat → Option Nat), vecLp i = some (r, f) →
    ∀ s : State, Plain s → full s [srcV r.a r.wa, srcV r.b r.wb] →
      let g := fun j => f (lane 8 ((regs s).vv r.a) j) (lane 8 ((regs s).vv r.b) j)
      LpVector s i r g fun _ v => PerLane s r.p 8 r.d (fun j => (g j).getD 0) v

/-- R68, R76, R178: VLPCVT in its four directions. -/
def Sys2Proof.Rules.LpConvertResult : Prop :=
  ∀ (r : VF) (s : State), Plain s → full s [srcV r.a r.wa] →
    let h := r.sub.toNat % 2
    let w := fun j => lane 4 ((regs s).vv r.a) (16 * h + j)
    let d := fun j => lane 8 ((regs s).vv r.a) j
    (r.sub.toNat / 2 = 0 → FpVector s (.vlpcvt r) r.d (flagsOver s r.p 8 fun j => (lpOfFloat (fp32.val (w j))).2)
      fun _ v => PerLane s r.p 8 r.d (fun j => (lpOfFloat (fp32.val (w j))).1) v) ∧
    (r.sub.toNat / 2 = 1 → FpVector s (.vlpcvt r) r.d (flagsOver s r.p 8 fun j => (lpToFloat (mode s) (d j)).2)
      fun _ v => PerHalf s r.p h r.d (fun j => (lpToFloat (mode s) (d j)).1) v) ∧
    (r.sub.toNat / 2 = 2 → WritesVX {} s (.vlpcvt r) r.d fun _ v => PerLane s r.p 8 r.d (fun j => lp32To (w j)) v) ∧
    (r.sub.toNat / 2 = 3 → LpVector s (.vlpcvt r) r (fun j => lpTo32 (d j))
      fun _ v => PerHalf s r.p h r.d (fun j => (lpTo32 (d j)).getD 0) v)

/-- R179, R180: VLPSPLIT writes 16 BF16 mantissas to the part of V[d] and the shared exponent to the part of V[c]; where these are one
register it takes both, the exponent last. VLPJOIN rebuilds LP words from FP32 lanes and a shared exponent. -/
def Sys2Proof.Rules.LpSplitJoinResult : Prop :=
  ∀ (r : VF) (s : State), Plain s →
    let a := fun j => lane 8 ((regs s).vv r.a) j
    let live := (List.range 16).filter fun j => !lpZ (a j) && !lpIsN (a j)
    let x : Int := ((live.map fun j => lpE (a j)).max?).getD 0
    let part := r.sub.toNat % 4
    let mant := fun j =>
      if lpIsN (a j) then 0x7FC0 else if lpZ (a j) then 0
      else (bf16.round RNE (lpS (a j)) (2 ^ 32 + lpF (a j)) (max (lpE (a j) - x) (-400) - 32) false).1
    (full s [srcV r.a r.wa] →
      ∃ t, exec (.vlpsplit r) s = .next t ∧
        (∀ i, i < 64 → (r.d = r.c → i / 2 ≠ part) → lane 2 (t.cctx.live.vv r.d) i =
          if i / 16 = part then mant (i % 16) % 2 ^ 16 else lane 2 ((regs s).vv r.d) i) ∧
        lane 4 (t.cctx.live.vv r.c) part = lowBits 32 x ∧
        (r.d ≠ r.c → ∀ i, i < 32 → i ≠ part → lane 4 (t.cctx.live.vv r.c) i = lane 4 ((regs s).vv r.c) i) ∧
        t.cctx.point = onward s.cur ∧ Keeps {} s t [] [r.d, r.c] []) ∧
    (full s [srcV r.a r.wa, srcV r.b r.wb] →
      let h := r.sub.toNat % 2
      let y := signedBits 32 (lane 4 ((regs s).vv r.b) h)
      let g := fun j =>
        match fp32.val (lane 4 ((regs s).vv r.a) (16 * h + j)) with
        | .fin n m e => if m = 0 then some 0x8000000000000000 else lpOfMag n m (e + y)
        | _ => some 0x2000000000000000
      LpVector s (.vlpjoin r) r g fun _ v => PerLane s r.p 8 r.d (fun j => (g j).getD 0) v)

/-- R178 to R180: conversions of log-probability words. The model's choice: that VLPSPLIT with d = vc writes the shared exponent
after the mantissas (log 26). -/
def Obligations.LpConversionResult : Prop := LpConvertResult ∧ LpSplitJoinResult

/-- R181: VRAND gives the active lanes the bits of the context's generator, or with Sub[0] uniform FP32 values, and takes one
counter step whatever the predicate holds. -/
def Obligations.RandomDrawResult : Prop :=
  ∀ (r : VF) (s : State), (Instr.vrand r).wellFormed = true → Plain s →
    let seed := s.cctx.live.rseed.toNat
    let ctr := s.cctx.live.ctr.toNat
    let n := wid r.w
    let raw := fun k b => ((List.range k).map fun j => randomByte seed ctr (b + j) * 256 ^ j).sum
    WritesVX { live := fun l => { l with ctr := 0 } } s (.vrand r) r.d fun t v =>
      t.cctx.live.ctr = s.cctx.live.ctr + 1 ∧
      PerLane s r.p n r.d (fun i =>
        if r.sub.getLsbD 0 then (fp32.round RNE false (raw 4 (4 * i) / 256) (-24) false).1 else raw n (n * i)) v

/-- R175, R176: a vector load whose addresses are acceptable and resolved marks V[d] empty and sends it the elements of the active
lanes, inactive lanes keeping their values. The model's choice: that the bytes read are those at the issue (log 5, log 18). -/
def Obligations.VectorLoadResult : Prop :=
  ∀ (i : Instr) (s : State) (f : VecForm), vectorLoad s i = some f →
    ∀ pa : Nat → Nat, Plain s → Settled s → full s f.sources → f.aligned s → Readable s f pa →
      ∃ t, exec i s = .next t ∧ AwaitsV s t f.v (PerLane s f.p f.n f.v fun j => number f.n (seen s (f.addr j) (pa j))) ∧
        t.cctx.point = onward s.cur ∧ Keeps { ctx := noArrivals } s t [] [f.v] []

/-- R126, R176: a vector store enters the gate as one entry, whose bytes are those of the active lanes at their addresses; where
two lanes name one byte, the higher lane's remains. The model's choice: the order in which a gate performs (log 5). -/
def Obligations.VectorStoreEntersGate : Prop :=
  ∀ (i : Instr) (s : State) (f : VecForm), vectorStore s i = some f →
    Plain s → Settled s → full s f.sources → f.aligned s →
      ∃ (t : State) (g : GateEnt), exec i s = .next t ∧ t.cctx.gate = s.cctx.gate ++ [g] ∧ g.cls = f.cls ∧ g.ready = true ∧
        (∀ a b, lastWrite g a = some b ↔
          ∃ j, j < 128 / f.n ∧ act s f.p f.n j = true ∧ (a - f.addr j).toNat < f.n ∧
            b = BitVec.ofNat 8 (lane f.n ((regs s).vv f.v) j / 256 ^ (a - f.addr j).toNat) ∧
            ∀ j', j < j' → j' < 128 / f.n → act s f.p f.n j' = true → f.n ≤ (a - f.addr j').toNat) ∧
        t.cctx.point = onward s.cur ∧
        Keeps { ctx := noGate, machine := fun u => { u with nextId := 0 } } s t [] [] []

/-- R18, R175: an active lane in the hole above the scratchpad raises ACCESS, and otherwise a misaligned one ALIGN, with the address of
the lowest such lane; VLD, VST and VLDB check their base address first, whatever the predicate holds. -/
def Sys2Proof.Rules.VectorAddressTraps : Prop :=
  ∀ (i : Instr) (s : State) (f : VecForm), vectorLoad s i = some f ∨ vectorStore s i = some f →
    TrapReady s → full s f.sources →
      let first := fun (q : Word64 → Prop) (j : Nat) => j < 128 / f.n ∧ act s f.p f.n j = true ∧ q (f.addr j) ∧
        ∀ j', j' < j → act s f.p f.n j' = true → ¬ q (f.addr j')
      let base := ∀ w, f.whole = some w → classify w.1 ≠ .hole ∧ w.1.toNat % w.2 = 0
      (∀ w, f.whole = some w →
        (classify w.1 = .hole → Traps s i 7 w.1) ∧ (classify w.1 ≠ .hole → w.1.toNat % w.2 ≠ 0 → Traps s i 13 w.1)) ∧
      (base → ∀ j, first (fun a => classify a = .hole) j → Traps s i 7 (f.addr j)) ∧
      (base → (∀ j, j < 128 / f.n → act s f.p f.n j = true → classify (f.addr j) ≠ .hole) →
        ∀ j, first (fun a => a.toNat % f.n ≠ 0) j → Traps s i 13 (f.addr j))

/-- R134, R144, R175: the address checks of scalar and vector accesses. The model's choice: that ACCESS comes before ALIGN (log
23). -/
def Obligations.AddressTraps : Prop := MisalignedOrHoleTraps ∧ VectorAddressTraps

namespace Sys2Proof.Rules

open Sys2Proof.Machine Sys2Proof.Safety

/-! ### What the fibre unit reads -/

/-- The bytes [a, a + n) can be read ahead at once (R134, R260): none lies in the hole, those that are not core-local have arrived,
each is resolved, contiguous within its 64-byte line, and correct. -/
structure Ahead (s : State) (pa : Word64 → Nat) (a : Word64) (n : Nat) : Prop where
  byte : ∀ i, i < n → let b := a + ofN i
    (isVirt b = true → s.cctx.arrived = true) ∧ Resolved s (s.reqOf s.cur.x 2 0) accRead b (pa b) ∧
      Sound s (pa b) 1 ∧ (gateByte s.cctx.gate b).all (fun g => !g.2) = true
  line : ∀ i j, i + j < n → (a + ofN i).toNat % 64 + j < 64 → pa (a + ofN (i + j)) = pa (a + ofN i) + j

/-- Which ranges the fibre unit can read, and the numbers that it finds there (R261). -/
structure Reader where
  ok : Word64 → Nat → Prop
  num : Word64 → Nat → Nat

/-- As an F operation of the issuing context reads. -/
def reader (s : State) (pa : Word64 → Nat) : Reader :=
  { ok := Ahead s pa, num := fun a n => number n fun i => seen s (a + ofN i) (pa (a + ofN i)) 0 }

/-- No copy of the context is active. -/
def NoCopies (s : State) : Prop := ∀ p ∈ s.ccore.copies, p.x ≠ s.cur.x

/-- No command of the context is in the matrix engine. -/
def NoRun (s : State) : Prop := ∀ m, s.ccore.mrun = some m → m.x ≠ s.cur.x

/-! ### Levels (R253 to R256) -/

/-- A level as its descriptor gives it (R253). -/
def levelAt (m : Reader) (d : Word64) : Level :=
  let w := m.num d 12
  { desc := d, kind := w / 2 ^ 30 % 4, t := w / 2 ^ 29 % 2 == 1, x := w / 2 ^ 28 % 2 == 1, extent := w % 2 ^ 28
    seg := d + ofI (signedBits 32 (w / 2 ^ 32 % 2 ^ 32)), pos := d + ofI (signedBits 32 (w / 2 ^ 64 % 2 ^ 32)) }

/-- A descriptor that can be read and is not malformed (R253). -/
structure LevelOk (m : Reader) (d : Word64) : Prop where
  read : m.ok d 12
  marks : (levelAt m d).t = true ∨ (levelAt m d).x = true → (levelAt m d).kind = 1
  dense : (levelAt m d).kind = 0 → (levelAt m d).seg = d
  plain : (levelAt m d).kind = 0 ∨ (levelAt m d).kind = 3 → (levelAt m d).pos = d
  words : (levelAt m d).kind = 1 ∨ (levelAt m d).kind = 3 → (levelAt m d).seg.toNat % 4 = 0

/-- The level over which an IN or HELD register is walked: the descriptor still says what the register copied from it, and a
register that is not at END stands inside its extent. A dense one needs no descriptor. -/
def LevelFor (m : Reader) (v : Stream) (lv : Level) : Prop :=
  (v.atEnd = true ∨ v.coord.toNat < v.extent.toNat) ∧
    (v.kind ≠ 0 → LevelOk m v.desc ∧ lv = levelAt m v.desc ∧ lv.kind = v.kind.toNat ∧ lv.extent = v.extent.toNat)

/-- Entry k of a skip table: its address and size (R256). -/
def skipAt (lv : Level) (k : Nat) : Word64 × Nat :=
  if lv.x then (lv.desc + 12 + ofN (8 * k), 8) else (lv.desc + 12 + ofN (4 * k), 4)

/-- Its coordinate, and its byte offset. -/
def skipCoord (m : Reader) (lv : Level) (k : Nat) : Nat := m.num (skipAt lv k).1 (skipAt lv k).2 % 2 ^ 32
def skipByte (m : Reader) (lv : Level) (k : Nat) : Nat := if lv.x then m.num (skipAt lv k).1 8 / 2 ^ 32 else 64 * k

/-- The length and the delta of the position at byte offset b (R255). -/
def posLen (m : Reader) (lv : Level) (b : Nat) : Nat := if m.num (lv.pos + ofN b) 1 = 255 then 5 else 1
def posDelta (m : Reader) (lv : Level) (b : Nat) : Nat :=
  let d := m.num (lv.pos + ofN b) 1
  if d = 255 then m.num (lv.pos + ofN (b + 1)) 4 else d

/-- The entry of a compressed level at byte offset b, after one of coordinate `prev` where there is one, has coordinate c, and none
of the conditions of R257 holds of it. -/
structure EntryIs (m : Reader) (lv : Level) (entry b bend : Nat) (last : Prop) (prev : Option Nat) (c : Nat) : Prop where
  read : m.ok (lv.pos + ofN b) 1
  short : lv.x = false → m.num (lv.pos + ofN b) 1 ≠ 255
  escape : m.num (lv.pos + ofN b) 1 = 255 → m.ok (lv.pos + ofN (b + 1)) 4
  inside : lv.x = true → b + posLen m lv b ≤ bend ∧ (last → b + posLen m lv b = bend)
  sum : c = prev.getD 0 + posDelta m lv b
  rises : prev.isSome = true → 0 < posDelta m lv b
  below : c < lv.extent
  table : lv.t = true → entry % 64 = 0 →
    m.ok (skipAt lv (entry / 64)).1 (skipAt lv (entry / 64)).2 ∧ skipCoord m lv (entry / 64) = c

/-- Bit b of segment g of a bitmap level can be read (R254). -/
def BitOk (m : Reader) (lv : Level) (g b : Nat) : Prop := m.ok (lv.seg + ofN ((g * lv.extent + b) / 8)) 1

/-- It is set. -/
def bitSet (m : Reader) (lv : Level) (g b : Nat) : Bool :=
  m.num (lv.seg + ofN ((g * lv.extent + b) / 8)) 1 / 2 ^ ((g * lv.extent + b) % 8) % 2 == 1

/-! ### Opening (R254, R255, R264) -/

/-- Where a register stands when a segment is opened; no coordinate means END. -/
structure Placed where
  entry : Nat
  hi : Nat
  byte : Option Nat := none
  bend : Option Nat := none
  coord : Option Nat
deriving DecidableEq

/-- Segment g of a level, opened as an input, stands at `o`. -/
def Opening (m : Reader) (lv : Level) (g : Nat) (o : Placed) : Prop :=
  match lv.kind with
  | 0 =>
    o = { entry := g * lv.extent, hi := g * lv.extent + lv.extent, coord := if lv.extent = 0 then none else some 0 }
  | 1 =>
    let n := if lv.x then 8 else 4
    let a := lv.seg + ofN (n * g)
    let b := lv.seg + ofN (n * (g + 1))
    let off := fun c => if lv.x then m.num c 8 / 2 ^ 32 else m.num c 4
    m.ok a n ∧ m.ok b n ∧ o.entry = m.num a n % 2 ^ 32 ∧ o.hi = m.num b n % 2 ^ 32 ∧ o.entry ≤ o.hi ∧ off a ≤ off b ∧
      o.byte = some (off a) ∧ o.bend = (if lv.x then some (off b) else none) ∧
      (o.entry = o.hi → o.coord = none) ∧
      (o.entry ≠ o.hi →
        ∃ c, o.coord = some c ∧ EntryIs m lv o.entry (off a) (off b) (o.entry + 1 = o.hi) none c)
  | 2 =>
    m.ok (lv.pos + ofN (4 * g)) 4 ∧ (∀ b, b < lv.extent → BitOk m lv g b) ∧ o.entry = m.num (lv.pos + ofN (4 * g)) 4 ∧
      o.hi = o.entry + ((List.range lv.extent).filter (bitSet m lv g)).length ∧ o.byte = none ∧ o.bend = none ∧
      o.coord = (List.range lv.extent).find? (bitSet m lv g)
  | _ =>
    m.ok (lv.seg + ofN (4 * g)) 4 ∧ m.num (lv.seg + ofN (4 * g)) 4 < lv.extent ∧
      o = { entry := g, hi := g + 1, coord := some (m.num (lv.seg + ofN (4 * g)) 4) }

/-- A register opened as an input at `o`, with COUNT and FLAGS clear. -/
structure OpenedIn (lv : Level) (g : Nat) (o : Placed) (v : Stream) : Prop where
  state : v.state = 1
  level : v.desc = lv.desc ∧ v.kind = BitVec.ofNat 2 lv.kind ∧ v.extent = BitVec.ofNat 32 lv.extent
  segment : v.segment = BitVec.ofNat 32 g
  entry : v.entry = BitVec.ofNat 32 o.entry ∧ v.hi = BitVec.ofNat 32 o.hi
  byte : (∀ b, o.byte = some b → v.byte = BitVec.ofNat 32 b) ∧ ∀ b, o.bend = some b → v.bend = BitVec.ofNat 32 b
  coord : v.atEnd = o.coord.isNone ∧ ∀ c, o.coord = some c → v.coord = BitVec.ofNat 32 c
  clear : v.count = 0 ∧ v.px = false ∧ v.py = false ∧ v.escw = false ∧ v.bad = false

/-- A register opened as an output at entry g. -/
structure OpenedOut (lv : Level) (g : Nat) (base : Word64) (v : Stream) : Prop where
  state : v.state = 2
  level : v.desc = lv.desc ∧ v.extent = BitVec.ofNat 32 lv.extent
  entry : v.entry = BitVec.ofNat 32 g ∧ v.byte = BitVec.ofNat 32 g ∧ v.vbase = base
  none : v.coord = 0xFFFFFFFF ∧ v.offered = 0xFFFFFFFF ∧ v.count = 0 ∧ v.escw = false ∧ v.bad = false

/-! ### Walking (R265, R266) -/

/-- A register advanced by one entry. -/
def Next (m : Reader) (lv : Level) (v w : Stream) : Prop :=
  v.bad = false ∧
    if v.atEnd then w = v
    else
      let u := { v with entry := v.entry + 1, count := v.count + 1 }
      match v.kind.toNat with
      | 0 =>
        w = if v.coord.toNat + 1 < v.extent.toNat then { u with coord := v.coord + 1 } else { u with atEnd := true }
      | 1 =>
        let len := if lv.x then posLen m lv v.byte.toNat else 1
        let u := { u with byte := v.byte + BitVec.ofNat 32 len }
        (lv.x = true → m.ok (lv.pos + ofN v.byte.toNat) 1) ∧
          ((u.entry = u.hi ∧ w = { u with atEnd := true }) ∨
           (u.entry ≠ u.hi ∧ ∃ c, w = { u with coord := BitVec.ofNat 32 c } ∧
             EntryIs m lv u.entry.toNat u.byte.toNat u.bend.toNat ((u.entry + 1 : BitVec 32) = u.hi) (some v.coord.toNat) c))
      | 2 =>
        let g := v.segment.toNat
        (∃ b, v.coord.toNat < b ∧ b < v.extent.toNat ∧ bitSet m lv g b = true ∧ w = { u with coord := BitVec.ofNat 32 b } ∧
          (∀ c, v.coord.toNat < c → c ≤ b → BitOk m lv g c) ∧ ∀ c, v.coord.toNat < c → c < b → bitSet m lv g c = false) ∨
        (w = { u with atEnd := true } ∧
          ∀ c, v.coord.toNat < c → c < v.extent.toNat → BitOk m lv g c ∧ bitSet m lv g c = false)
      | _ => w = { u with atEnd := true }

/-- A register advanced by n entries. -/
def Moves (m : Reader) (lv : Level) : Nat → Stream → Stream → Prop
  | 0, v, w => w = v
  | n + 1, v, w => ∃ u, Next m lv v u ∧ Moves m lv n u w

/-- A register at END or at a coordinate of at least c. -/
def past (c : Nat) (v : Stream) : Prop := v.atEnd = true ∨ c ≤ v.coord.toNat

/-- A register advanced entry by entry to the first coordinate of at least c. -/
def Reaches (m : Reader) (lv : Level) (c : Nat) (v w : Stream) : Prop :=
  ∃ n, Moves m lv n v w ∧ past c w ∧ ∀ k u, k < n → Moves m lv k v u → ¬ past c u

/-- Two registers that agree in all but, at END, the coordinate. -/
def Agree (v w : Stream) : Prop := if w.atEnd then { v with coord := 0 } = { w with coord := 0 } else v = w

/-- Where FSKIP decodes on from: with a table, at its last entry beyond the current one and below HI whose coordinate is at most c,
where there is one (R265). -/
def FromTable (m : Reader) (lv : Level) (c : Nat) (v u : Stream) : Prop :=
  let between := fun k => v.entry.toNat / 64 < k ∧ k ≤ (v.hi.toNat - 1) / 64
  (∀ k, between k → m.ok (skipAt lv k).1 (skipAt lv k).2) ∧
    (((∀ k, between k → c < skipCoord m lv k) ∧ u = v) ∨
     ∃ k, between k ∧ skipCoord m lv k ≤ c ∧ (∀ j, between j → k < j → c < skipCoord m lv j) ∧
       v.coord.toNat < skipCoord m lv k ∧ skipCoord m lv k < v.extent.toNat ∧
       u = { v with entry := BitVec.ofNat 32 (64 * k), byte := BitVec.ofNat 32 (skipByte m lv k)
                    count := v.count + BitVec.ofNat 32 (64 * k - v.entry.toNat)
                    coord := BitVec.ofNat 32 (skipCoord m lv k) })

/-- FSKIP on a register. -/
def Skips (m : Reader) (lv : Level) (c : Nat) (tab : Bool) (v w : Stream) : Prop :=
  (past c v ∧ w = v) ∨
  (¬ past c v ∧ v.bad = false ∧ ∃ u w', Agree w w' ∧ Reaches m lv c u w' ∧
    (if v.kind = 1 ∧ tab = true ∧ lv.t = true then FromTable m lv c v u else u = v))

/-- A register with its inputs; those of one that is not joint do not matter. -/
structure Trio where
  v : Stream
  x : Stream
  y : Stream
deriving DecidableEq

/-- The levels of a trio's registers. -/
structure Levels where
  lv : Level
  lx : Level
  ly : Level

/-- Register f with its inputs. -/
def trio (l : Live) (f : Nat) : Trio :=
  { v := l.stream f, x := l.stream (l.stream f).x.toNat, y := l.stream (l.stream f).y.toNat }

/-- The levels can be walked. -/
def LevelsFor (m : Reader) (c : Trio) (e : Levels) : Prop :=
  if c.v.joint then LevelFor m c.x e.lx ∧ LevelFor m c.y e.ly else LevelFor m c.v e.lv

/-- The resynchronisation of an ISECT: x and y end as x' and y'. -/
inductive Meets (m : Reader) (lx ly : Level) : Stream → Stream → Stream → Stream → Prop where
  | done (x y : Stream) (h : x.atEnd = true ∨ y.atEnd = true ∨ x.coord = y.coord) : Meets m lx ly x y x y
  | left (x y x₁ x' y' : Stream) (hx : x.atEnd = false) (hy : y.atEnd = false) (h : x.coord.toNat < y.coord.toNat)
      (r : Reaches m lx y.coord.toNat x x₁) (n : Meets m lx ly x₁ y x' y') : Meets m lx ly x y x' y'
  | right (x y y₁ x' y' : Stream) (hx : x.atEnd = false) (hy : y.atEnd = false) (h : y.coord.toNat < x.coord.toNat)
      (r : Reaches m ly x.coord.toNat y y₁) (n : Meets m lx ly x y₁ x' y') : Meets m lx ly x y x' y'

/-- The position of a UNION over its inputs; at END its coordinate is not stated. -/
def unionOf (v x y : Stream) : Stream :=
  let c := if x.atEnd then y.coord else if y.atEnd then x.coord else if x.coord.toNat ≤ y.coord.toNat then x.coord else y.coord
  { v with atEnd := x.atEnd && y.atEnd, coord := c, px := !x.atEnd && x.coord == c && !(x.atEnd && y.atEnd),
           py := !y.atEnd && y.coord == c && !(x.atEnd && y.atEnd) }

/-- A joint stream positioned anew over inputs x and y. -/
def Resyncs (m : Reader) (e : Levels) (v x y : Stream) (c : Trio) : Prop :=
  if v.state = 3 then
    Meets m e.lx e.ly x y c.x c.y ∧ c.v = { v with atEnd := c.x.atEnd || c.y.atEnd, coord := c.x.coord }
  else c.x = x ∧ c.y = y ∧ c.v = unionOf v x y

/-- A trio advanced by one element. -/
def Advances (m : Reader) (e : Levels) (c d : Trio) : Prop :=
  if c.v.joint = false then Next m e.lv c.v d.v ∧ d.x = c.x ∧ d.y = c.y
  else if c.v.atEnd then c.v.bad = false ∧ d = c
  else
    c.v.bad = false ∧ ∃ x y, (if c.v.state = 3 ∨ c.v.px = true then Next m e.lx c.x x else x = c.x) ∧
      (if c.v.state = 3 ∨ c.v.py = true then Next m e.ly c.y y else y = c.y) ∧
      Resyncs m e { c.v with count := c.v.count + 1 } x y d

/-- A trio advanced by n elements. -/
def AdvancesBy (m : Reader) (e : Levels) : Nat → Trio → Trio → Prop
  | 0, c, d => d = c
  | n + 1, c, d => ∃ b, Advances m e c b ∧ AdvancesBy m e n b d

/-- After the operation, register f and, for a joint one, its inputs stand as in `c`, and every other is unchanged. -/
def Stands (s t : State) (f : Nat) (c : Trio) : Prop :=
  let j := (s.cctx.live.stream f).joint
  let x := (s.cctx.live.stream f).x.toNat
  let y := (s.cctx.live.stream f).y.toNat
  Agree (t.cctx.live.stream f) c.v ∧
    (j = true → Agree (t.cctx.live.stream x) c.x ∧ Agree (t.cctx.live.stream y) c.y) ∧
    ∀ g, g ≠ f → (j = true → g ≠ x ∧ g ≠ y) → t.cctx.live.stream g = s.cctx.live.stream g

/-- A joint register's inputs are two other registers. -/
def Distinct (s : State) (f : Nat) : Prop :=
  let v := s.cctx.live.stream f
  v.joint = true → v.x.toNat ≠ f ∧ v.y.toNat ≠ f ∧ v.x ≠ v.y

/-- A register that an operation can walk (R259). -/
def Walkable (s : State) (f : Nat) : Prop := (s.cctx.live.stream f).state ∈ ([1, 3, 4] : List (BitVec 3))

/-- What an F operation on stream registers strikes out. -/
def streamStrike : Strike := { live := fun l => { l with f := [] }, machine := fun u => { u with fresh := 0 } }

/-- An F operation acts at its issue: nothing of the context is queued before it, and no copy is active. -/
structure FReady (s : State) : Prop where
  plain : Plain s
  settled : Settled s
  copies : NoCopies s

/-- The descriptor address of FOPEN (R264). -/
def openAt (s : State) (r : Fopen) : Word64 := (regs s).sv r.a + ofI (4 * r.disp.toInt)

/-- FOPEN opens segment g, as an input or as an output with the value base given. -/
def Opens (s : State) (i : Instr) (r : Fopen) (g : Nat) (base : Word64) : Prop :=
  ∀ pa : Word64 → Nat,
    let m := reader s pa
    let a := openAt s r
    let lv := levelAt m a
    (s.cctx.live.stream r.f.toNat).state ∈ ([0, 1, 2] : List (BitVec 3)) → classify a ≠ .hole → a.toNat % 4 = 0 →
    LevelOk m a → (r.o = true → lv.kind = 1) → ∀ o, (r.o = false → Opening m lv g o) →
      ∃ t, exec i s = .next t ∧
        (r.o = false → OpenedIn lv g o (t.cctx.live.stream r.f.toNat)) ∧
        (r.o = true → OpenedOut lv g base (t.cctx.live.stream r.f.toNat)) ∧
        (∀ h, h ≠ r.f.toNat → t.cctx.live.stream h = s.cctx.live.stream h) ∧
        t.cctx.point = onward s.cur ∧ Keeps streamStrike s t [] [] []

end Sys2Proof.Rules

/-- R254, R255, R262, R264, R271, R272: FOPEN opens a segment of any level as an input, or a compressed level as an output; FREST
takes a register from the 64 bytes of an image, and FCLOSE closes one, a joint one's inputs returning to IN. The model's choice:
the fields of a stream that the spec does not set are free (log 7), and a closed stream has every field zero (log 27). -/
def Obligations.StreamsOpenAndClose : Prop :=
  (∀ (r : Fopen) (s : State), FReady s → full s [srcS r.a r.wa] → Opens s (.fopen r) r 0 0) ∧
  (∀ (r : Fopen) (e : FopenX) (s : State), FReady s →
    full s (srcS r.a r.wa :: srcS e.b e.wb :: if r.o then [srcS (e.b + 1) e.wb] else []) →
    Opens s (.fopenExt r e) r ((((regs s).sv e.b).toNat + e.segi.toNat) % 2 ^ 32) ((regs s).sv (e.b + 1))) ∧
  (∀ (r : Fimg) (s : State) (pa : Word64 → Nat), FReady s → full s [srcS r.a r.wa] →
    let a := (regs s).sv r.a
    let w := (reader s pa).num a 64
    let held := fun g => (s.cctx.live.stream g).state = 5 ∧ ∀ h, h < 16 → h ≠ r.f.toNat →
      (s.cctx.live.stream h).joint = true → (s.cctx.live.stream h).x.toNat ≠ g ∧ (s.cctx.live.stream h).y.toNat ≠ g
    (s.cctx.live.stream r.f.toNat).state ∈ ([0, 1, 2] : List (BitVec 3)) → a.toNat % 64 = 0 → Ahead s pa a 64 →
    w / 2 ^ 64 % 256 ≤ 5 → w / 2 ^ 80 % 256 ≤ 3 → w / 2 ^ 448 = 0 →
    (w / 2 ^ 64 % 256 = 3 ∨ w / 2 ^ 64 % 256 = 4 → held (w / 2 ^ 88 % 16) ∧ held (w / 2 ^ 92 % 16)) →
    ∃ t, exec (.frest r) s = .next t ∧ (t.cctx.live.stream r.f.toNat).image = toBytes 64 w ∧
      (∀ h, h ≠ r.f.toNat → t.cctx.live.stream h = s.cctx.live.stream h) ∧
      t.cctx.point = onward s.cur ∧ Keeps streamStrike s t [] [] []) ∧
  (∀ (r : Fclose) (s : State), Plain s → (∀ c ∈ s.ccore.fq, c.x ≠ s.cur.x) →
    let v := s.cctx.live.stream r.f.toNat
    v.state.toNat ≤ 4 →
    ∃ t, exec (.fclose r) s = .next t ∧ t.cctx.live.stream r.f.toNat = Stream.closed ∧
      (∀ g, g ≠ r.f.toNat → t.cctx.live.stream g =
        if v.joint = true ∧ (g = v.x.toNat ∨ g = v.y.toNat) then { s.cctx.live.stream g with state := 1 }
        else s.cctx.live.stream g) ∧
      t.cctx.point = onward s.cur ∧ Keeps { live := fun l => { l with f := [] } } s t [] [] [])

/-- R254 to R257, R265, R266: FNEXT advances a stream by n elements, and starts a new segment of an output; FSKIP moves to the
first coordinate of at least S[b], through the skip table where it is asked to; FISECT and FUNION join two inputs and position the
joint stream. The model's choice: readings of what a joint stream keeps (log 7, log 27). -/
def Obligations.StreamsAdvanceAndJoin : Prop :=
  (∀ (r : Fnext) (s : State) (pa : Word64 → Nat) (e : Levels) (c : Trio), FReady s → Walkable s r.f.toNat →
    Distinct s r.f.toNat → LevelsFor (reader s pa) (trio (regs s) r.f.toNat) e →
    AdvancesBy (reader s pa) e (r.nm1.toNat + 1) (trio (regs s) r.f.toNat) c →
    ∃ t, exec (.fnext r) s = .next t ∧ Stands s t r.f.toNat c ∧ t.cctx.point = onward s.cur ∧
      Keeps streamStrike s t [] [] []) ∧
  (∀ (r : Fnext) (s : State), FReady s → (s.cctx.live.stream r.f.toNat).state = 2 → r.nm1 = 0 →
    ∃ t, exec (.fnext r) s = .next t ∧
      t.cctx.live.stream r.f.toNat =
        { s.cctx.live.stream r.f.toNat with coord := 0xFFFFFFFF, offered := 0xFFFFFFFF, count := 0 } ∧
      (∀ g, g ≠ r.f.toNat → t.cctx.live.stream g = s.cctx.live.stream g) ∧
      t.cctx.point = onward s.cur ∧ Keeps streamStrike s t [] [] []) ∧
  (∀ (r : Fskip) (s : State) (pa : Word64 → Nat) (e : Levels) (d : Trio), FReady s → Walkable s r.f.toNat →
    Distinct s r.f.toNat → full s [srcS r.b r.wb] →
    let m := reader s pa
    let c := trio (regs s) r.f.toNat
    let n := ((regs s).sv r.b).toNat
    LevelsFor m c e →
    (c.v.joint = false → Skips m e.lv n r.t c.v d.v) →
    (c.v.joint = true → (past n c.v ∧ d = c) ∨ (¬ past n c.v ∧ c.v.bad = false ∧
      ∃ x y, Skips m e.lx n r.t c.x x ∧ Skips m e.ly n r.t c.y y ∧ Resyncs m e c.v x y d)) →
    ∃ t, exec (.fskip r) s = .next t ∧ Stands s t r.f.toNat d ∧ t.cctx.point = onward s.cur ∧
      Keeps streamStrike s t [] [] []) ∧
  (∀ (r : Fjoin) (s : State) (pa : Word64 → Nat) (e : Levels) (d : Trio), FReady s →
    let x := (regs s).stream r.x.toNat
    let y := (regs s).stream r.y.toNat
    x.state = 1 → y.state = 1 → r.x ≠ r.y → r.d ≠ r.x → r.d ≠ r.y →
    ((regs s).stream r.d.toNat).state ∈ ([0, 1, 2] : List (BitVec 3)) →
    LevelFor (reader s pa) x e.lx → LevelFor (reader s pa) y e.ly →
    ∀ (i : Instr) (st : BitVec 3), (i = .fisect r ∧ st = 3) ∨ (i = .funion r ∧ st = 4) →
      (∃ v, v.state = st ∧ Resyncs (reader s pa) e v x y d) →
      ∃ t, exec i s = .next t ∧
        (let v := t.cctx.live.stream r.d.toNat
         v.state = st ∧ v.x = r.x ∧ v.y = r.y ∧ v.count = 0 ∧ v.atEnd = d.v.atEnd ∧
           (d.v.atEnd = false → v.coord = d.v.coord) ∧ (st = 4 → v.px = d.v.px ∧ v.py = d.v.py)) ∧
        Agree (t.cctx.live.stream r.x.toNat) { d.x with state := 5 } ∧
        Agree (t.cctx.live.stream r.y.toNat) { d.y with state := 5 } ∧
        (∀ g, g ≠ r.d.toNat → g ≠ r.x.toNat → g ≠ r.y.toNat → t.cctx.live.stream g = s.cctx.live.stream g) ∧
        t.cctx.point = onward s.cur ∧ Keeps streamStrike s t [] [] [])

namespace Sys2Proof.Rules

open Sys2Proof.Machine Sys2Proof.Safety

/-! ### Delivering and emitting (R267 to R271) -/

/-- The element at which a trio stands: its coordinate, and the entry of each input that has it. -/
def element (c : Trio) : MergeElem :=
  if c.v.joint = false then { coord := c.v.coord.toNat, ex := some c.v.entry.toNat, ey := none }
  else
    { coord := c.v.coord.toNat, ex := if c.v.state = 3 ∨ c.v.px = true then some c.x.entry.toNat else none
      ey := if c.v.state = 3 ∨ c.v.py = true then some c.y.entry.toNat else none }

/-- Up to n elements from where a trio stands; `move` steps past the last of them. -/
def Takes (m : Reader) (e : Levels) (move : Bool) : Nat → Trio → List MergeElem → Trio → Prop
  | 0, c, l, d => l = [] ∧ d = c
  | n + 1, c, l, d =>
    if c.v.atEnd then l = [] ∧ d = c
    else
      c.v.bad = false ∧
        if n = 0 ∧ move = false then l = [element c] ∧ d = c
        else ∃ b l', Advances m e c b ∧ Takes m e move n b l' d ∧ l = element c :: l'

/-- The lanes of a fibre width (R267). -/
def lanesE (w : BitVec 2) : Nat := if w = 3 then 16 else 32

/-- The fibre queue has room, and takes a command of the issuing context. -/
def Queued (s t : State) (o : FOp) : Prop := t.ccore.fq = s.ccore.fq ++ [{ x := s.cur.x, pc := s.cur.pc, op := o }]

/-- What a queued F operation strikes out. -/
def fibreStrike (e : Strike) : Strike :=
  { e with ctx := fun c => noGate (noArrivals c), core := fun k => { k with fq := [] }
           machine := fun u => { u with fresh := 0, nextId := 0 } }

/-- A gate entry reserved for data that has still to form (R261). -/
def Reserved (s t : State) (g : Nat) : Prop :=
  ∃ en : GateEnt, t.cctx.gate = s.cctx.gate ++ [en] ∧ en.id = g ∧ en.ready = false ∧ en.cls = 0

end Sys2Proof.Rules

/-- R260, R267, R270: FLDV and FCRD take up to E elements, move past them unless K is set, mark V[vd] empty, and enter the fibre
queue with the addresses of the values or with the coordinates; FSTAT marks S[d] empty and enters the queue. The model's choice:
readings of what the queue holds (log 27). -/
def Obligations.StreamsDeliver : Prop :=
  (∀ (r : Fldv) (s : State) (pa : Word64 → Nat) (e : Levels) (l : List MergeElem) (d : Trio), FReady s →
    Walkable s r.f.toNat → Distinct s r.f.toNat → full s [srcS r.a r.wa] → s.ccore.fq.length < 4 →
    let n := wid r.w
    let base := (regs s).sv r.a
    let m := reader s pa
    let addrs := l.map fun u => (if r.side then u.ey else u.ex).map fun k => base + ofN (n * k)
    base.toNat % n = 0 → (r.side = true → (s.cctx.live.stream r.f.toNat).state ≠ 1) →
    LevelsFor m (trio (regs s) r.f.toNat) e → Takes m e (!r.k) (lanesE r.w) (trio (regs s) r.f.toNat) l d →
    (∀ a, some a ∈ addrs → classify a ≠ .hole) →
    ∃ (t : State) (tok : Nat), exec (.fldv r) s = .next t ∧ Queued s t (.fldv tok r.vd.toNat n addrs) ∧
      fget? t.cctx.live.vWait r.vd.toNat = some tok ∧ t.cctx.arrivals = s.cctx.arrivals ∧ t.cctx.gate = s.cctx.gate ∧
      Stands s t r.f.toNat (if r.k then trio (regs s) r.f.toNat else d) ∧ t.cctx.point = onward s.cur ∧
      Keeps (fibreStrike streamStrike) s t [] [r.vd] []) ∧
  (∀ (r : Fcrd) (s : State) (pa : Word64 → Nat) (e : Levels) (l : List MergeElem) (d : Trio), FReady s →
    (Instr.fcrd r).wellFormed = true → Walkable s r.f.toNat → Distinct s r.f.toNat → s.ccore.fq.length < 4 →
    let n := wid r.w
    let m := reader s pa
    LevelsFor m (trio (regs s) r.f.toNat) e → Takes m e (!r.k) (lanesE r.w) (trio (regs s) r.f.toNat) l d →
    ∃ (t : State) (tok : Nat) (v : VReg), exec (.fcrd r) s = .next t ∧ Queued s t (.fcrd tok r.vd.toNat v) ∧
      (∀ i, i < 128 / n → lane n v i = ((l.map (·.coord)).getD i 0) % 2 ^ (8 * n)) ∧
      fget? t.cctx.live.vWait r.vd.toNat = some tok ∧ t.cctx.arrivals = s.cctx.arrivals ∧ t.cctx.gate = s.cctx.gate ∧
      Stands s t r.f.toNat (if r.k then trio (regs s) r.f.toNat else d) ∧ t.cctx.point = onward s.cur ∧
      Keeps (fibreStrike streamStrike) s t [] [r.vd] []) ∧
  (∀ (r : Fstat) (s : State), Plain s → s.ccore.fq.length < 4 →
    ∃ (t : State) (tok : Nat), exec (.fstat r) s = .next t ∧ Queued s t (.fstat tok r.d.toNat r.f.toNat r.sel.toNat) ∧
      (r.d ≠ 0 → fget? t.cctx.live.sWait r.d.toNat = some tok) ∧ t.cctx.arrivals = s.cctx.arrivals ∧
      t.cctx.gate = s.cctx.gate ∧ t.cctx.point = onward s.cur ∧ Keeps (fibreStrike {}) s t [r.d] [] [])

/-- R261, R268, R269, R271: FEMIT offers the selected lanes, whose coordinates rise from the last one offered and lie below the
extent; FMERGE takes up to 32 elements of a union; each, and FSAVE, reserves one gate entry and enters the fibre queue. The
model's choice: readings of what the gate entry holds (log 27). -/
def Obligations.StreamsEmit : Prop :=
  (∀ (r : Femit) (s : State) (pa : Word64 → Nat), FReady s → NoRun s → full s [srcV r.v r.wv, srcV (r.v + 1) r.wv] →
    s.ccore.fq.length < 4 →
    let v := s.cctx.live.stream r.f.toNat
    let n := wid r.w
    let m := reader s pa
    let l := ((List.range (lanesE r.w)).filter fun i => ((regs s).pv r.p).getLsbD (4 * i)).map fun i =>
      (lane 4 ((regs s).vv r.v) i, lane n ((regs s).vv (r.v + 1)) i)
    let cs := l.map (·.1)
    v.state = 2 → LevelOk m v.desc → cs.Pairwise (· < ·) → (∀ c ∈ cs, c < v.extent.toNat) →
    (v.offered ≠ 0xFFFFFFFF → ∀ c ∈ cs, v.offered.toNat < c) →
    ∃ (t : State) (g : Nat), exec (.femit r) s = .next t ∧ Queued s t (.femit r.f.toNat n (levelAt m v.desc).pos l g) ∧
      Reserved s t g ∧ t.cctx.arrivals = s.cctx.arrivals ∧
      t.cctx.live.stream r.f.toNat = { v with offered := (cs.getLast?.map (BitVec.ofNat 32 ·)).getD v.offered } ∧
      (∀ h, h ≠ r.f.toNat → t.cctx.live.stream h = s.cctx.live.stream h) ∧
      t.cctx.point = onward s.cur ∧ Keeps (fibreStrike streamStrike) s t [] [] []) ∧
  (∀ (r : Fmerge) (s : State) (pa : Word64 → Nat) (e : Levels) (l : List MergeElem) (d : Trio), FReady s → NoRun s →
    full s [srcS r.a r.wa, srcS r.b r.wb] → s.ccore.fq.length < 4 → Distinct s r.fu.toNat →
    let v := s.cctx.live.stream r.fo.toNat
    let c := trio (regs s) r.fu.toNat
    let n := if r.fmt.toNat ≤ 1 then 4 else 2
    let a := (regs s).sv r.a
    let b := (regs s).sv r.b
    let m := reader s pa
    v.state = 2 → c.v.state = 4 → a.toNat % n = 0 → b.toNat % n = 0 → LevelOk m v.desc → LevelsFor m c e →
    c.v.x ≠ r.fo → c.v.y ≠ r.fo →
    Takes m e true 32 c l d → (∀ u ∈ l, u.coord < v.extent.toNat) →
    (∀ u ∈ l, ∀ k, (u.ex = some k → classify (a + ofN (n * k)) ≠ .hole) ∧ (u.ey = some k → classify (b + ofN (n * k)) ≠ .hole)) →
    ∃ (t : State) (g : Nat), exec (.fmerge r) s = .next t ∧
      Queued s t (.fmerge r.fo.toNat r.fmt.toNat (levelAt m v.desc).pos r.z l a b (mode s) g) ∧ Reserved s t g ∧
      t.cctx.arrivals = s.cctx.arrivals ∧
      t.cctx.live.stream r.fo.toNat =
        { v with offered := if l = [] then v.offered else BitVec.ofNat 32 ((l.map (·.coord)).foldl max 0) } ∧
      Agree (t.cctx.live.stream r.fu.toNat) d.v ∧ Agree (t.cctx.live.stream c.v.x.toNat) d.x ∧
      Agree (t.cctx.live.stream c.v.y.toNat) d.y ∧
      (∀ h, h ≠ r.fo.toNat → h ≠ r.fu.toNat → h ≠ c.v.x.toNat → h ≠ c.v.y.toNat →
        t.cctx.live.stream h = s.cctx.live.stream h) ∧
      t.cctx.point = onward s.cur ∧ Keeps (fibreStrike streamStrike) s t [] [] []) ∧
  (∀ (r : Fimg) (s : State), FReady s → NoRun s → full s [srcS r.a r.wa] → s.ccore.fq.length < 4 →
    let a := (regs s).sv r.a
    classify a ≠ .hole → a.toNat % 64 = 0 →
    ∃ (t : State) (g : Nat), exec (.fsave r) s = .next t ∧ Queued s t (.fsave r.f.toNat a g) ∧ Reserved s t g ∧
      t.cctx.arrivals = s.cctx.arrivals ∧ t.cctx.live.f = s.cctx.live.f ∧ t.cctx.point = onward s.cur ∧
      Keeps (fibreStrike {}) s t [] [] [])

namespace Sys2Proof.Rules

open Sys2Proof.Machine Sys2Proof.Safety

/-! ### Shape registers (R211 to R214) -/

/-- The address of HLD and HST: S[a] + 64 x (disp + k x stride). -/
def shapeEa (s : State) (r : Hmem) (disp : BitVec 16) (stride : BitVec 15) : Word64 :=
  (regs s).sv r.a + ofI (64 * disp.toInt) + ofI (s.cur.k * (64 * stride.toInt))

/-- The number of the issue in the context's mode (R113). -/
def issueOf (s : State) : Nat := if s.cctx.handler then s.cctx.live.nHandler else s.cctx.live.nTask

/-- A write of a shape register that takes effect at the start of the third issue from this one (R213). -/
def inThree (s : State) (h : BitVec 3) (whole : Bool) (field : Nat) (v : HReg) : HWrite :=
  { h := h.toNat, whole := whole, field := field, val := v, due := issueOf s + 3, handler := s.cctx.handler }

/-- What an H operation strikes out. -/
def hStrike : Strike := { live := fun l => { l with hPend := [] }, core := fun k => { k with rcache := [] } }

/-- HLD of a record. -/
def LoadsShape (s : State) (i : Instr) (r : Hmem) (disp : BitVec 16) (stride : BitVec 15) : Prop :=
  let ea := shapeEa s r disp stride
  classify ea ≠ .hole → ea.toNat % 64 = 0 →
    (∀ v, fget? s.ccore.rcache ea.toNat = some v →
      ∃ t, exec i s = .next t ∧ t.cctx.live.hPend = [inThree s r.h true 0 v] ∧ t.ccore.rcache = s.ccore.rcache ∧
        t.cctx.point = onward s.cur ∧ Keeps hStrike s t [] [] []) ∧
    ∀ pa, fget? s.ccore.rcache ea.toNat = none → s.ccore.rcache.length < 64 → Settled s →
      Resolved s (s.reqOf s.cur.x 3 0) accRead ea pa → Clean s ea pa 64 →
      let v : HReg := BitVec.ofNat 512 (number 64 (seen s ea pa))
      ∃ t, exec i s = .next t ∧ t.cctx.live.hPend = [inThree s r.h true 0 v] ∧
        (∀ k, fget? t.ccore.rcache k = if k = ea.toNat then some v else fget? s.ccore.rcache k) ∧
        t.cctx.point = onward s.cur ∧ Keeps hStrike s t [] [] []

/-- HST of a record: it enters the store gate. -/
def StoresShape (s : State) (i : Instr) (r : Hmem) (disp : BitVec 16) (stride : BitVec 15) : Prop :=
  let ea := shapeEa s r disp stride
  let v := (regs s).hv r.h
  classify ea ≠ .hole → ea.toNat % 64 = 0 →
    ∃ (t : State) (g : GateEnt), exec i s = .next t ∧ t.cctx.gate = s.cctx.gate ++ [g] ∧
      g.writes = [(ea, toBytes 64 v.toNat)] ∧ g.hst = some (ea, v) ∧ g.ready = true ∧ t.cctx.point = onward s.cur ∧
      Keeps { ctx := noGate, machine := fun u => { u with nextId := 0 } } s t [] [] []

/-- The record that a pending write makes (R213). -/
def recordAfter (l : Live) (w : HWrite) : HReg :=
  if w.whole then w.val else hputField (fget 0 l.h w.h) w.field w.val.toNat

end Sys2Proof.Rules

/-- R211 to R214: HLD and HSET schedule a write that takes effect at the start of the third issue from theirs; HLD reads through
the record cache; HST stores a record; HFENCE empties the cache, or drops one entry; and a pending write that is due takes effect
where its record passes the checks of R210. The model's choice: that an HLD miss takes the bytes at the issue, seen through the
gate of its context (log 5, log 18), and holds the record at once (log 29). -/
def Obligations.ShapeRegisterEffects : Prop :=
  (∀ (r : Hmem) (s : State), Plain s → full s [srcS r.a r.wa] →
    LoadsShape s (.hld r) r 0 0 ∧ ∀ e : HmemX, LoadsShape s (.hldExt r e) r e.disp e.stride) ∧
  (∀ (r : Hmem) (s : State), Plain s → Settled s → full s [srcS r.a r.wa] →
    StoresShape s (.hst r) r 0 0 ∧ ∀ e : HmemX, StoresShape s (.hstExt r e) r e.disp e.stride) ∧
  (∀ (r : Hset) (s : State), Plain s → full s [srcS r.a r.wa] →
    ∃ t, exec (.hset r) s = .next t ∧
      t.cctx.live.hPend = [inThree s r.h false r.field.toNat (((regs s).sv r.a).zeroExtend 512)] ∧
      t.cctx.point = onward s.cur ∧ Keeps { live := fun l => { l with hPend := [] } } s t [] [] []) ∧
  (∀ (r : Hfence) (s : State), Plain s →
    let ea := (regs s).sv r.a
    (r.one = true → full s [srcS r.a r.wa] ∧ ea.toNat % 64 = 0) →
    ∃ t, exec (.hfence r) s = .next t ∧
      (∀ k, fget? t.ccore.rcache k = if r.one = true ∧ k ≠ ea.toNat then fget? s.ccore.rcache k else none) ∧
      t.cctx.point = onward s.cur ∧ Keeps { core := fun k => { k with rcache := [] } } s t [] [] []) ∧
  (∀ (s₀ : State) (w : HWrite), Plain s₀ →
    let s := s₀.modCtx s₀.cur.x fun c => { c with live := { c.live with hPend := [w] } }
    w.handler = s₀.cctx.handler → w.due ≤ issueOf s₀ → (∀ n, n ∈ List.range 8 → (shapeOf (recordAfter s₀.cctx.live w)).fails n = false) →
    ∃ t, exec .sNop s = .next t ∧ t.cctx.live.hPend = [] ∧ fget 0 t.cctx.live.h w.h = recordAfter s₀.cctx.live w ∧
      (∀ h, h ≠ w.h → fget 0 t.cctx.live.h h = fget 0 s₀.cctx.live.h h) ∧ t.cctx.point = onward s.cur ∧
      Keeps { live := fun l => { l with h := [], hPend := [] } } s t [] [] [])

namespace Sys2Proof.Rules

open Sys2Proof.Machine Sys2Proof.Safety

/-! ### The matrix engine (R182 to R206) -/

/-- The issuing context owns a bank, or holds a grant of it (R183). -/
def Owns (s : State) (b : Nat) : Prop := (s.ccore.bank b).owned = true ∧ (s.ccore.bank b).owner = s.cur.x % 4
def MayRead (s : State) (b : Nat) : Prop :=
  (s.ccore.bank b).owned = true ∧
    ((s.ccore.bank b).owner = s.cur.x % 4 ∨ (s.ccore.bank b).grants.getLsbD (s.cur.x % 4) = true)

/-- It owns a counter set (R195). -/
def OwnsSet (s : State) (n : Nat) : Prop := (s.ccore.cset n).owned = true ∧ (s.ccore.cset n).owner = s.cur.x % 4

/-- It owns ring g, of generation n, which holds tiles of t bytes (R189). -/
def RingIs (s : State) (g t n : Nat) : Prop :=
  fget? s.ccore.ringOf g = some n ∧ (s.ccore.ringGen n).owner = s.cur.x % 4 ∧ t ≤ (s.ccore.ringGen n).size

/-- The two rings of a product; one ring that serves as both holds the two tiles (R189). -/
def RingsAre (s : State) (ga gb : BitVec 3) (ta tb na nb : Nat) : Prop :=
  if ga = gb then RingIs s ga.toNat (ta + tb) na ∧ nb = na else RingIs s ga.toNat ta na ∧ RingIs s gb.toNat tb nb

/-- The command that an operation hands to the engine. -/
def command (s : State) (o : MOp) (p : Option PortEntry) : MCmd :=
  { seq := s.ccore.seq, x := s.cur.x, pc := s.cur.pc, slot := s.cur.slot, op := o, port := p }

/-- What the operations of slot M strike out: the queue, and the issued state of banks, counter sets and rings. -/
def engineStrike : Strike :=
  { ctx := fun c => noMark { c with tokNext := 0, ports := [], portsH := [] }
    core := fun k => { k with mq := [], seq := 0, banks := [], csets := [], rings := [], ringOf := [], ringNext := 0 }
    machine := fun u => { u with nextId := 0 } }

/-- The banks are unchanged but for bank b. -/
def BankIs (s t : State) (b : Nat) (v : Bank) : Prop := ∀ c, t.ccore.bank c = if c = b then v else s.ccore.bank c
def SameBanks (s t : State) : Prop := ∀ c, t.ccore.bank c = s.ccore.bank c

/-- The counter sets are unchanged but for set n. -/
def SetIs (s t : State) (n : Nat) (v : CSet) : Prop := ∀ c, t.ccore.cset c = if c = n then v else s.ccore.cset c
def SameSets (s t : State) : Prop := ∀ c, t.ccore.cset c = s.ccore.cset c

/-- The rings are unchanged. -/
def SameRings (s t : State) : Prop := t.ccore.rings = s.ccore.rings ∧ t.ccore.ringOf = s.ccore.ringOf

/-- The ports are unchanged. -/
def SamePorts (s t : State) : Prop := t.cctx.ports = s.cctx.ports ∧ t.cctx.portsH = s.cctx.portsH

/-- A form of slot M: the commands `l` enter the engine's queue at the mark that ends the issue, and `P` holds of the next state. -/
def Engine (s : State) (i : Instr) (l : List MCmd) (ds : List (BitVec 6)) (dv : List (BitVec 9)) (P : State → Prop) : Prop :=
  ∃ t, exec i s = .next t ∧ t.ccore.mq = s.ccore.mq ++ l ∧ P t ∧ SameRings s t ∧ t.cctx.point = onward s.cur ∧
    Keeps engineStrike s t ds dv []

/-- An M operation can act: its issue stands alone, and its tile predicate lets it. -/
def MReady (s : State) (i : Instr) : Prop := Alone s ∧ tileOn s i

/-- The half-row at an issue index (R185). -/
def halfAt (s : State) (row : BitVec 5) (h : Bool) (stride : BitVec 15) : Nat :=
  (2 * row.toNat + (if h then 1 else 0) + s.cur.k * stride.toNat) % 64

/-- The status word of a bank (R187). -/
def bankWord (v : Bank) : Word64 :=
  ofN (v.poison.toNat + (if v.owned then v.fmt else 3) * 2 ^ 32 +
    (if v.owned then v.owner * 2 ^ 34 + v.grants.toNat * 2 ^ 36 else 0) + (if v.wv then 2 ^ 40 else 0))

/-- The forms of MMA, by their minor. -/
def mmaForm (i : Instr) : Option (Mma × Nat) :=
  match i with
  | .mmaBf16 r => some (r, 0)
  | .mmaFp16 r => some (r, 1)
  | .mmaE4m3 r => some (r, 2)
  | .mmaE5m2 r => some (r, 3)
  | .mmaInt8 r => some (r, 4)
  | .mmaSx8 r => some (r, 5)
  | .mmaSx5 r => some (r, 6)
  | .mmaSx3 r => some (r, 7)
  | _ => none

/-- The tiles of a product form by bank format (R190): bytes of A and of B; none where they do not go together. -/
def tilesOf (f bfmt k : Nat) : Option (Nat × Nat) :=
  if bfmt = 2 then (if f ≤ 1 ∧ k = 16 then some (1024, 1024) else none)
  else if f = 4 then (if bfmt = 1 then some (32 * k, 64 * k) else none)
  else if bfmt ≠ 0 then none
  else if f ≤ 1 then some (64 * k, 128 * k)
  else if f ≤ 3 then some (32 * k, 64 * k)
  else if f = 5 then some (576, 1152)
  else if f = 6 then some (384, 768)
  else some (256, 512)

/-- The forms of MCNT, with the format of the counter set. -/
def countForm (i : Instr) : Option (Mcnt × Nat) :=
  match i with
  | .mcntInt4 r => some (r, 1)
  | .mcntE2m1 r => some (r, 2)
  | _ => none

/-- The port of the context's mode, and the entry that an X operation uses (R201). -/
def portOf (s : State) : List PortEntry := if s.cctx.handler then s.cctx.portsH else s.cctx.ports
def boundTo (s : State) (e : Option PortEntry) : Prop := (portOf s).find? (fun p => p.tag + 6 == issueOf s) = e

/-- A form of slot X: its command is held until the next mark (R202). -/
def Holds (s : State) (i : Instr) (o : MOp) (p : Option PortEntry) (P : State → Prop) : Prop :=
  ∃ t, exec i s = .next t ∧ t.cctx.heldX = s.cctx.heldX ++ [command s o p] ∧ t.ccore.seq = s.ccore.seq + 1 ∧ P t ∧
    t.cctx.point = onward s.cur ∧
    Keeps { ctx := fun c => { c with heldX := [] }, core := fun k => { k with seq := 0, banks := [] } } s t [] [] []

end Sys2Proof.Rules

/-- R119, R183 to R188: a bank is allocated and cleared, freed, granted, zeroed, read, and written by the context that has the
right; ACRD.st reads its status word; RGSET makes a ring, or releases it; and an operation whose tile predicate is 0 performs
nothing. The model's choice: that ACFREE, ACGRANT and RGSET act at the issue and take no place in the queue, and that they block
on a full queue (log 29). -/
def Obligations.BankAndRingEffects : Prop :=
  (∀ (r : Acalloc) (s : State), MReady s (.acalloc r) → MRoom s → (s.ccore.bank r.b.toNat).owned = false →
    (s.ccore.banks.filter fun v => v.2.owned).length < s.bankBudget s.cur.x →
    Engine s (.acalloc r) [command s (.clear r.b.toNat r.fmt.toNat) none] [] [] fun t =>
      BankIs s t r.b.toNat
        { s.ccore.bank r.b.toNat with owned := true, owner := s.cur.x % 4, grants := 0, fmt := r.fmt.toNat } ∧
      SameSets s t ∧ SamePorts s t) ∧
  (∀ (r : Acfree) (s : State), MReady s (.acfree r) → MRoom s → Owns s r.b.toNat →
    Engine s (.acfree r) [] [] [] fun t =>
      BankIs s t r.b.toNat { s.ccore.bank r.b.toNat with owned := false, grants := 0 } ∧ SameSets s t ∧ SamePorts s t) ∧
  (∀ (r : Acgrant) (s : State), MReady s (.acgrant r) → MRoom s → Owns s r.b.toNat →
    Engine s (.acgrant r) [] [] [] fun t =>
      (∀ c, (t.ccore.bank r.b.toNat).grants.getLsbD c =
        if c = r.ctx.toNat ∧ c ≠ s.cur.x % 4 then !r.r else (s.ccore.bank r.b.toNat).grants.getLsbD c) ∧
      BankIs s t r.b.toNat { s.ccore.bank r.b.toNat with grants := (t.ccore.bank r.b.toNat).grants } ∧ SameSets s t ∧
      SamePorts s t) ∧
  (∀ (r : Aczero) (s : State), MReady s (.aczero r) → MRoom s → Owns s r.b.toNat →
    Engine s (.aczero r) [command s (.clear r.b.toNat (s.ccore.bank r.b.toNat).fmt) none] [] [] fun t =>
      SameBanks s t ∧ SameSets s t ∧ SamePorts s t) ∧
  (∀ (r : Acrd) (s : State), MReady s (.acrd r) → MRoom s → MayRead s r.b.toNat →
    ∃ tok, Engine s (.acrd r) [command s (.read r.b.toNat (halfAt s r.row r.h r.stride) tok r.vd.toNat) none] [] [r.vd] fun t =>
      fget? t.cctx.live.vWait r.vd.toNat = some tok ∧ t.cctx.tokNext = tok + 1 ∧ SameBanks s t ∧ SameSets s t ∧
      SamePorts s t) ∧
  (∀ (r : AcrdSt) (s : State), MReady s (.acrdSt r) → s.ccore.mq = [] → s.ccore.mrun = none →
    WritesSX marks s (.acrdSt r) r.sd (bankWord (s.ccore.bank r.b.toNat))) ∧
  (∀ (r : Acwr) (s : State), MReady s (.acwr r) → MRoom s → Owns s r.b.toNat → full s [srcV r.vs r.wv] →
    Engine s (.acwr r) [command s (.write r.b.toNat (halfAt s r.row r.h r.stride) ((regs s).vv r.vs)) none] [] [] fun t =>
      SameBanks s t ∧ SameSets s t ∧ SamePorts s t) ∧
  (∀ (r : Rgset) (s : State), MReady s (.rgset r) → MRoom s →
    (∀ n, fget? s.ccore.ringOf r.g.toNat = some n → (s.ccore.ringGen n).owner = s.cur.x % 4) →
    ∃ t, exec (.rgset r) s = .next t ∧ (r.size = 0 → fget? t.ccore.ringOf r.g.toNat = none) ∧
      (r.size ≠ 0 → ∃ n, fget? t.ccore.ringOf r.g.toNat = some n ∧
        t.ccore.ringGen n = { g := r.g.toNat, owner := s.cur.x % 4, base := 64 * r.base.toNat, size := 512 * r.size.toNat
                              head := 0, tail := 0, fill := 0 }) ∧
      (∀ g, g ≠ r.g.toNat → fget? t.ccore.ringOf g = fget? s.ccore.ringOf g) ∧
      (∀ n, n ≠ s.ccore.ringNext → fget? t.ccore.rings n = fget? s.ccore.rings n) ∧ t.cctx.point = onward s.cur ∧
      Keeps { ctx := noMark, core := fun k => { k with rings := [], ringOf := [], ringNext := 0 } } s t [] [] []) ∧
  (∀ (i : Instr) (s : State), Alone s → s.cctx.live.tileOff i s.cur.k = true → PassesByX marks s i)

/-- R189 to R191, R195 to R206: the products, the counting operations and the operations of the scale port check their banks,
sets, rings and images at issue, and hand their command to the engine: those of slot M at once, those of slot X at the next mark.
The model's choice: readings of the engine (log 29). -/
def Obligations.MatrixCommands : Prop :=
  (∀ (i : Instr) (r : Mma) (f : Nat), mmaForm i = some (r, f) →
    ∀ (s : State) (ta tb na nb : Nat), MReady s i → MRoom s → Owns s r.b.toNat →
      let v := s.ccore.bank r.b.toNat
      let k := 16 * (r.km.toNat + 1)
      let pushes := 5 ≤ f ∨ v.fmt = 2
      let e : PortEntry := { tag := issueOf s, id := s.nextId, bank := r.b.toNat, lpx := v.fmt == 2, wit := r.wit, data := none }
      tilesOf f v.fmt k = some (ta, tb) → RingsAre s r.ga r.gb ta tb na nb →
      Engine s i [command s (.mma f r.b.toNat v.fmt na nb r.ka r.kb r.wit k s.nextId) none] [] [] fun t =>
        SameBanks s t ∧ SameSets s t ∧ (¬ pushes → SamePorts s t) ∧
        (pushes → portOf t = (portOf s ++ [e]).drop ((portOf s).length + 1 - 7) ∧
          (s.cctx.handler = true → t.cctx.ports = s.cctx.ports) ∧ (s.cctx.handler = false → t.cctx.portsH = s.cctx.portsH))) ∧
  (∀ (i : Instr) (r : Mcnt) (f : Nat), countForm i = some (r, f) →
    ∀ (s : State) (na nb : Nat), MReady s i → MRoom s → OwnsSet s r.n.toNat →
      let v := s.ccore.cset r.n.toNat
      let k := 16 * (r.km.toNat + 1)
      (v.fmt = 0 ∨ v.fmt = f) → RingsAre s r.ga r.gb (16 * k) (32 * k) na nb → v.depth + k ≤ 524287 →
      Engine s i [command s (.mcnt f r.n.toNat na nb r.ka r.kb k) none] [] [] fun t =>
        SetIs s t r.n.toNat { v with fmt := f, depth := v.depth + k } ∧ SameBanks s t ∧ SamePorts s t) ∧
  (∀ (r : Nclr) (s : State), MReady s (.nclr r) → MRoom s →
    let v := s.ccore.cset r.n.toNat
    (v.owned = true → v.owner = s.cur.x % 4) →
    Engine s (.nclr r) [command s (.nclr r.n.toNat) none] [] [] fun t =>
      SetIs s t r.n.toNat { v with owned := true, owner := s.cur.x % 4, fmt := 0, depth := 0 } ∧ SameBanks s t ∧
      SamePorts s t) ∧
  (∀ (r : Nimg) (s : State) (pa : Nat), Alone s → Settled s → MRoom s → OwnsSet s r.n.toNat → full s [srcS r.a r.wa] →
    let v := s.ccore.cset r.n.toNat
    let a := (regs s).sv r.a
    let depth := number 4 fun j => s.byte (pa + j)
    let fmt := (s.byte (pa + 4)).toNat
    a.toNat % 64 = 0 → a.toNat + 262208 ≤ 0x300000 → Resolved s (s.reqOf s.cur.x 7 0) accRead a pa →
    (tileOn s (.ndump r) → Engine s (.ndump r) [command s (.ndump r.n.toNat a.toNat) none] [] [] fun t =>
      SameSets s t ∧ SameBanks s t ∧ SamePorts s t) ∧
    (NoCopies s → Sound s pa 8 → fmt ≤ 2 → (v.fmt = 0 ∨ v.fmt = fmt) → depth ≤ 524287 →
      (tileOn s (.nload r) → Engine s (.nload r) [command s (.nload r.n.toNat a.toNat) none] [] [] fun t =>
        SetIs s t r.n.toNat { v with depth := depth, fmt := fmt } ∧ SameBanks s t ∧ SamePorts s t) ∧
      (tileOn s (.nmerge r) → v.depth + depth ≤ 524287 →
        Engine s (.nmerge r) [command s (.nmerge r.n.toNat a.toNat) none] [] [] fun t =>
          SetIs s t r.n.toNat { v with depth := v.depth + depth, fmt := if v.fmt = 0 then fmt else v.fmt } ∧
          SameBanks s t ∧ SamePorts s t))) ∧
  (∀ (r : Ndrain) (s : State), MReady s (.ndrain r) → MRoom s → Owns s r.b.toNat → (s.ccore.bank r.b.toNat).fmt = 1 →
    OwnsSet s r.n.toNat →
    let v := s.ccore.cset r.n.toNat
    Engine s (.ndrain r) [command s (.ndrain r.b.toNat r.n.toNat r.c r.r) none] [] [] fun t =>
      SetIs s t r.n.toNat { v with depth := if r.c then 0 else v.depth, owned := !r.r } ∧ SameBanks s t ∧ SamePorts s t) ∧
  (∀ (r : Nchk) (s : State), MReady s (.nchk r) → MRoom s → OwnsSet s r.n.toNat →
    ∃ tok, Engine s (.nchk r) [command s (.nchk r.n.toNat tok r.d.toNat) none] [r.d] [] fun t =>
      (r.d ≠ 0 → fget? t.cctx.live.sWait r.d.toNat = some tok) ∧ t.cctx.tokNext = tok + 1 ∧ SameSets s t ∧ SameBanks s t ∧
      SamePorts s t) ∧
  (∀ (r : Xscale) (s : State), Plain s → full s [srcS r.a r.wa] →
    (boundTo s none → PassesBy s (.xscale r)) ∧
    ∀ e, boundTo s (some e) → Owns s e.bank → (s.ccore.bank e.bank).fmt = 0 →
      Holds s (.xscale r) (.xscale e.bank ((regs s).sv r.a).toInt) (some e) (SameBanks s)) ∧
  (∀ (r : Xexpv) (s : State), Plain s → full s [srcV r.va r.wa] →
    (boundTo s none → PassesBy s (.xexpv r)) ∧
    ∀ e, boundTo s (some e) → Owns s e.bank → (s.ccore.bank e.bank).fmt = 2 →
      Holds s (.xexpv r) (.xexpv e.bank ((regs s).vv r.va)) (some e) (SameBanks s)) ∧
  (∀ (r : Xfix) (s : State) (n : Nat), Plain s → full s [srcS r.a r.wa] → Owns s r.b.toNat →
    (s.ccore.bank r.b.toNat).fmt = 1 →
    let k := 16 * (r.km.toNat + 1)
    let a := (regs s).sv r.a
    RingIs s r.g.toNat (32 * k) n → a.toNat < 0x300000 → a.toNat % 8 = 0 →
    Holds s (.xfix r) (.xfix r.b.toNat n a k r.pop) none (SameBanks s)) ∧
  (∀ (r : Xcvt) (s : State), (Instr.xcvt r).wellFormed = true → Plain s → Owns s r.b.toNat →
    (s.ccore.bank r.b.toNat).fmt = (if r.mode = 0 then 1 else 0) →
    Holds s (.xcvt r) (.xcvt r.b.toNat r.mode.toNat r.e.toInt) none fun t =>
      BankIs s t r.b.toNat { s.ccore.bank r.b.toNat with fmt := if r.mode = 0 then 0 else 1 })

namespace Sys2Proof.Rules

open Sys2Proof.Machine Sys2Proof.Safety

/-! ### The copy unit (R209, R210, R215 to R226) -/

/-- The record of an h register, its BASE stepped by k x stride in units of 64 bytes (R215). -/
def stepped (s : State) (h : BitVec 3) (stride : BitVec 15) : HReg :=
  let v := (regs s).hv h
  hputField v 0 (v.truncate 64 + ofI (s.cur.k * (64 * stride.toInt)) : Word64).toNat

/-- A record that passes the checks of R210 that concern it alone. -/
def RecordOk (v : HReg) : Prop := ∀ n, 1 ≤ n → n ≤ 7 → (shapeOf v).fails n = false

/-- The bitmap of a completion slot at issue (R217): of n chunks in groups of ceil(n / 64), the bits that cover a chunk are clear. -/
def startBits (n : Nat) (b : Word64) : Prop :=
  let g := (n + 63) / 64
  ∀ j, j < 64 → (b.getLsbD j = true ↔ (n + g - 1) / g ≤ j)

/-- A copy-unit form with two records (R215, R219). -/
structure CopyForm where
  hd : BitVec 3
  hs : BitVec 3
  cid : BitVec 5
  ds : Bool := false
  stride : BitVec 15 := 0
  bar : Option (BitVec 6 × Bool) := none
  idx : Option (BitVec 6 × Bool) := none
  kind : CopyKind
  /-- What the form asks of the two records. -/
  ok : Shape → Shape → Prop

/-- The records agree, and the destination has no broadcast dimension (R219). -/
def Agreeing (d s : Shape) : Prop :=
  d.fmt = s.fmt ∧ d.rank = s.rank ∧ d.ext = s.ext ∧ ∀ n, 1 ≤ n → n < d.rank → n < 4 → ¬ (d.stride n = 0 ∧ 1 < d.extent n)

/-- A record that a dirty copy allows (R224). -/
def DirtyRecord (s : Shape) : Prop := s.space = 0 ∧ s.rank = 1 ∧ s.base % 65536 = 0 ∧ s.span % 65536 = 0

/-- The records of COPYT (R219). -/
def Transposing (d s : Shape) : Prop :=
  2 ≤ d.rank ∧ d.rank = s.rank ∧ d.fmt = s.fmt ∧ d.bits ∈ [4, 8, 16, 32] ∧ d.extent 0 = s.extent 1 ∧ d.extent 1 = s.extent 0 ∧
    d.extent 2 = s.extent 2 ∧ d.extent 3 = s.extent 3 ∧ d.extent 0 % (256 / d.bits) = 0 ∧ d.extent 1 % (256 / d.bits) = 0 ∧
    (∀ n, 1 ≤ n → n < d.rank → n < 4 → ¬ (d.stride n = 0 ∧ 1 < d.extent n)) ∧ d.space ≠ 2

/-- The records of CGATH and CSCAT. -/
def RowsAgreeing (d s : Shape) : Prop :=
  d.rank ≤ 2 ∧ s.rank ≤ 2 ∧ d.fmt = s.fmt ∧ d.extent 0 = s.extent 0 ∧ ¬ (1 < d.rank ∧ d.stride 1 = 0 ∧ 1 < d.extent 1) ∧
    d.space ≠ 2

/-- What COPY asks. -/
def copyOk (dirty : Bool) (d s : Shape) : Prop :=
  Agreeing d s ∧ d.space ≠ 2 ∧ (dirty = true → DirtyRecord d ∧ DirtyRecord s)

/-- What CRED asks. -/
def reduceOk (d s : Shape) : Prop := Agreeing d s ∧ d.space = 0 ∧ d.fmt ∈ [0x01, 0x02, 0x03, 0x07]

/-- The barrier of an extension word. -/
def barOf (e : CopyX) : Option (BitVec 6 × Bool) := if e.ba then some (e.a, e.wa) else none

/-- The forms with two records; `x` is the value of the index register of CGATH and CSCAT. -/
def copyForm2 (i : Instr) (x : BitVec 6 → Word64) : Option CopyForm :=
  match i with
  | .copy r => some { hd := r.hd, hs := r.hs, cid := r.cid, ds := r.ds, kind := .copy r.dt, ok := copyOk r.dt }
  | .copyExt r e => some { hd := r.hd, hs := r.hs, cid := r.cid, ds := r.ds, stride := e.stride, bar := barOf e
                           kind := .copy r.dt, ok := copyOk r.dt }
  | .copyt r => some { hd := r.hd, hs := r.hs, cid := r.cid, ds := r.ds, kind := .copyt, ok := Transposing }
  | .copytExt r e => some { hd := r.hd, hs := r.hs, cid := r.cid, ds := r.ds, stride := e.stride, bar := barOf e
                            kind := .copyt, ok := Transposing }
  | .cgath r => some { hd := r.hd, hs := r.hs, cid := r.cid, stride := r.stride
                       bar := if r.ba then some (r.a, r.wa) else none, idx := some (r.x, r.wx), kind := .gather (x r.x)
                       ok := RowsAgreeing }
  | .cscat r => some { hd := r.hd, hs := r.hs, cid := r.cid, stride := r.stride
                       bar := if r.ba then some (r.a, r.wa) else none, idx := some (r.x, r.wx), kind := .scatter (x r.x)
                       ok := RowsAgreeing }
  | .cred r => some { hd := r.hd, hs := r.hs, cid := r.cid, ds := r.ds, kind := .reduce r.sr, ok := reduceOk }
  | .credExt r e => some { hd := r.hd, hs := r.hs, cid := r.cid, ds := r.ds, stride := e.stride, bar := barOf e
                           kind := .reduce r.sr, ok := reduceOk }
  | _ => none

/-- The forms of CRING: its fields, stride and barrier. -/
def ringForm (i : Instr) : Option (Cring × BitVec 15 × Option (BitVec 6 × Bool)) :=
  match i with
  | .cring r => some (r, 0, none)
  | .cringExt r e => some (r, e.stride, barOf e)
  | _ => none

/-- A register operand that may be absent. -/
def operand (o : Option (BitVec 6 × Bool)) : List Source := (o.map fun p => srcS p.1 p.2).toList

/-- An address operand that may be absent is acceptable: not in the hole, and a multiple of n. -/
def AddressOk (s : State) (o : Option (BitVec 6 × Bool)) (n : Nat) : Prop :=
  ∀ p, o = some p → classify ((regs s).sv p.1) ≠ .hole ∧ ((regs s).sv p.1).toNat % n = 0

/-- A source record in an accumulator bank: the context may read the bank, and FMT is that of its cells (R183, R210, R218). -/
def SourceOk (s : State) (v : Shape) : Prop :=
  v.space = 2 → MayRead s v.base ∧ v.fmt = [0x01, 0x07].getD (s.ccore.bank v.base).fmt 0x0D

/-- What a copy-unit form strikes out. -/
def copyStrike : Strike :=
  { ctx := fun c => noMark { c with bitmaps := [] }
    core := fun k => { k with copies := [], seq := 0, mq := [], rings := [] } }

/-- The bitmap of a completion slot. -/
def bitmap (s : State) (cid : BitVec 5) : Word64 := fget (BitVec.allOnes 64) s.cctx.bitmaps cid.toNat

/-- A command becomes active for slot cid with `size` bytes of destination (R216, R217), and a drain copy queues the read of its
bank (R184); with no element it completes at once. -/
def Starts (s : State) (i : Instr) (cid : BitVec 5) (kind : CopyKind) (dst src : HReg) (size : Nat) (empty : Bool)
    (bar : Option Word64) (P : State → Prop) : Prop :=
  ∃ t, exec i s = .next t ∧
    (empty = true → bitmap t cid = BitVec.allOnes 64 ∧ t.ccore.copies = s.ccore.copies ∧ t.ccore.mq = s.ccore.mq) ∧
    (empty = false → startBits ((size + 511) / 512) (bitmap t cid) ∧
      ∃ p : CopyCmd, t.ccore.copies = s.ccore.copies ++ [p] ∧ p.x = s.cur.x ∧ p.cid = cid.toNat ∧ p.kind = kind ∧ p.dst = dst ∧
        p.src = src ∧ p.chunks = (size + 511) / 512 ∧ p.done = [] ∧ p.bar = bar ∧ p.parked = false ∧ p.lost = false ∧
        (if (shapeOf src).space = 2 then
          ∃ m : MCmd, t.ccore.mq = s.ccore.mq ++ [m] ∧ m.x = s.cur.x ∧ m.op = .drain p.id (shapeOf src).base
         else t.ccore.mq = s.ccore.mq)) ∧
    (∀ c, c ≠ cid → bitmap t c = bitmap s c) ∧ P t ∧ t.cctx.point = onward s.cur ∧ Keeps copyStrike s t [] [] []

end Sys2Proof.Rules

/-- R210, R215 to R220, R224: a copy whose records pass the checks becomes active in its completion slot, or, with no element,
completes at once; CRING reserves its bytes at the ring's tail. -/
def Obligations.CopiesStart : Prop :=
  (∀ (i : Instr) (s : State) (f : CopyForm), copyForm2 i (regs s).sv = some f → MReady s i →
    full s (operand f.bar ++ operand f.idx) → CopyRoom s f.cid →
    let d := stepped s f.hd (if f.ds then f.stride else 0)
    let v := stepped s f.hs f.stride
    RecordOk d → RecordOk v → f.ok (shapeOf d) (shapeOf v) → SourceOk s (shapeOf v) → AddressOk s f.bar 32 →
    AddressOk s f.idx 4 →
    Starts s i f.cid f.kind d v (shapeOf d).size ((shapeOf d).size == 0 || (shapeOf v).size == 0)
      (f.bar.map fun p => (regs s).sv p.1) fun t => SameRings s t) ∧
  (∀ (i : Instr) (r : Cring) (stride : BitVec 15) (bar : Option (BitVec 6 × Bool)), ringForm i = some (r, stride, bar) →
    ∀ (s : State) (n : Nat), MReady s i → full s (operand bar) → CopyRoom s r.cid →
      let v := stepped s r.hs stride
      let t := (shapeOf v).size
      let g := s.ccore.ringGen n
      RecordOk v → SourceOk s (shapeOf v) → RingIs s r.g.toNat t n → AddressOk s bar 32 →
      Starts s i r.cid (.ring n g.tail) 0 v t (t == 0) (bar.map fun p => (regs s).sv p.1) fun u =>
        u.ccore.ringOf = s.ccore.ringOf ∧
        ∀ m, fget? u.ccore.rings m =
          if m = n ∧ t ≠ 0 then some { g with tail := (g.tail + t) % g.size } else fget? s.ccore.rings m)

/-- R223, R225, R226: CWAIT goes on once the chunks of its mask are done, and blocks until then; CTEST reads a bitmap; PUBLISH and
UPD become active, and UPD reads its descriptor at issue. The model's choice: UPD reads its descriptor at the issue (log 5). -/
def Obligations.CopyWaitsAndUpdates : Prop :=
  (∀ (r : Cwait) (s : State), Alone s → (r.a ≠ 0 → full s [srcS r.a r.wa]) →
    let m := if r.a = 0 then BitVec.allOnes 64 else (regs s).sv r.a
    (bitmap s r.cid &&& m = m → PassesByX marks s (.cwait r)) ∧
    (bitmap s r.cid &&& m ≠ m → s.cctx.state = .running → Blocks s (.cwait r) (.chunks r.cid.toNat m))) ∧
  (∀ (r : Ctest) (s : State), Alone s → WritesSX marks s (.ctest r) r.d (bitmap s r.cid)) ∧
  (∀ (r : Publish) (s : State), Alone s → CopyRoom s r.cid →
    let v := stepped s r.h 0
    let w := shapeOf v
    let lo := (w.base : Int) + w.reach.1
    let hi := (w.base : Int) + w.reach.2
    RecordOk v → w.sh = true → w.space = 0 → (w.size ≠ 0 → 0 ≤ lo ∧ lo / 2 ^ 49 = hi / 2 ^ 49 ∧ hi < 2 ^ 64) →
    Starts s (.publish r) r.cid .publish v 0 w.size (w.size == 0) none fun t => SameRings s t) ∧
  (∀ (r : Upd) (s : State) (p₀ p₁ : Nat), Alone s → Settled s → NoCopies s → CopyRoom s r.cid → (∀ p ∈ s.ccore.copies, p.id < s.ccore.seq) →
    full s (srcS r.a r.wa :: if r.g = 0 then [] else [srcS r.g r.wg]) →
    let v := stepped s r.h 0
    let a := (regs s).sv r.a
    let g := (regs s).sv r.g
    let desc := (List.range 64).map (fun j => s.byte (p₀ + j)) ++ (List.range 64).map fun j => s.byte (p₁ + j)
    RecordOk v → (shapeOf v).space = 0 → classify a ≠ .hole → a.toNat % 128 = 0 →
    (r.g ≠ 0 → classify g ≠ .hole ∧ g.toNat % 32 = 0) →
    Resolved s (s.reqOf s.cur.x 7 0) accRead a p₀ → Resolved s (s.reqOf s.cur.x 7 0) accRead (a + 64) p₁ →
    Sound s p₀ 64 → Sound s p₁ 64 →
    Starts s (.upd r) r.cid (.upd a desc (if r.g = 0 then none else some g)) v 0 (shapeOf v).size ((shapeOf v).size == 0) none
      fun t => SameRings s t)

namespace Sys2Proof.Rules

open Sys2Proof.Machine Sys2Proof.Safety

/-! ### The tree engine (R231, R232, R238 to R250) -/

/-- An address that a T operation may name (R231). -/
def TreeAt (s : State) (ea : Word64) : Prop := s.treeAddr s.cur.x ea = true

/-- What a T operation strikes out. -/
def treeStrike : Strike :=
  { ctx := fun c => noMark { c with tokNext := 0 }, core := fun k => { k with tq := [], seq := 0 } }

/-- A T operation enters the engine's queue at the mark that ends its issue, `P` holding of the next state. -/
def QueuesTree (s : State) (i : Instr) (o : TOp) (ds : List (BitVec 6)) (P : State → Prop) : Prop :=
  ∃ t, exec i s = .next t ∧
    t.ccore.tq = s.ccore.tq ++ [{ seq := s.ccore.seq, x := s.cur.x, pc := s.cur.pc, slot := s.cur.slot, op := o }] ∧
    t.ccore.seq = s.ccore.seq + 1 ∧ P t ∧ t.cctx.point = onward s.cur ∧ Keeps treeStrike s t ds [] []

/-- A T operation can act: its issue stands alone, its tile predicate lets it, and the queue has room. -/
structure TReady (s : State) (i : Instr) : Prop where
  alone : Alone s
  tile : tileOn s i
  room : s.ccore.tq.length < 8

/-- The record address of TFWD and TREV (R238). -/
def recordEa (s : State) (a : BitVec 6) (disp : BitVec 16) (stride : BitVec 15) : Word64 :=
  (regs s).sv a + ofI (64 * disp.toInt) + ofI (s.cur.k * (64 * stride.toInt))

/-- The window of a phase allows it at issue (R244). -/
def PhaseOk (s : State) (w : BitVec 4) (ph kind : Nat) : Prop :=
  let st := (fget Win.empty s.cctx.tree.wins w.toNat).st.toNat
  if ph = 1 then st ≠ 2 ∧ kind ≠ 2 else ¬ (st = 0 ∧ kind = 1 ∧ s.cctx.tree.mode ≠ 3)

/-- TFWD with its displacement and stride: PH = 0 is queued as it stands; a phase is checked against its window first. -/
def Forward (s : State) (i : Instr) (r : Tfwd) (disp : BitVec 16) (stride : BitVec 15) : Prop :=
  let ea := recordEa s r.a disp stride
  TReady s i → full s [srcS r.a r.wa] → ea.toNat % 64 = 0 → TreeAt s ea →
    (r.ph = 0 → QueuesTree s i (.tfwd ea 0 0) [] fun _ => True) ∧
    ∀ pa, r.ph ≠ 0 → Settled s → NoCopies s → Resolved s (s.reqOf s.cur.x 5 0) accRead ea pa → Sound s pa 1 →
      PhaseOk s r.w r.ph.toNat (s.byte pa).toNat → QueuesTree s i (.tfwd ea r.ph.toNat r.w.toNat) [] fun _ => True

/-- TREV with its displacement and stride. -/
def Backward (s : State) (i : Instr) (r : Trev) (disp : BitVec 16) (stride : BitVec 15) : Prop :=
  let ea := recordEa s r.a disp stride
  TReady s i → full s [srcS r.a r.wa] → ea.toNat % 64 = 0 → TreeAt s ea → QueuesTree s i (.trev ea) [] fun _ => True

end Sys2Proof.Rules

/-- R231, R232, R238 to R241, R244, R245, R247 to R250: the T operations check their bases at issue and enter the engine's queue;
TSEED seeds the generator at once, and a TSAMP with STATE = 0 takes a counter value. -/
def Obligations.TreeCommands : Prop :=
  (∀ (r : Tmode) (s : State), TReady s (.tmode r) → Settled s → full s [srcS r.a r.wa, srcS r.b r.wb] →
    let vb := (regs s).sv r.a
    let rb := (regs s).sv r.b
    vb.toNat % 32 = 0 → rb.toNat % 64 = 0 → TreeAt s vb → TreeAt s rb →
    (∀ w, w < 16 → (fget Win.empty s.cctx.tree.wins w).st = 0) → QueuesTree s (.tmode r) (.tmode r.mode.toNat vb rb) [] fun _ => True) ∧
  (∀ (r : Tevid) (s : State), TReady s (.tevid r) → full s [srcS r.a r.wa, srcS r.b r.wb] →
    let e := (regs s).sv r.a
    let n := (regs s).sv r.b
    e.toNat % 2 = 0 → TreeAt s e → n.toNat ≤ 2 ^ 24 → QueuesTree s (.tevid r) (.tevid e n) [] fun _ => True) ∧
  (∀ (r : Tseed) (s : State), TReady s (.tseed r) → full s [srcS r.a r.wa] →
    ∃ t, exec (.tseed r) s = .next t ∧ t.cctx.live.rseed = (regs s).sv r.a ∧ t.cctx.live.ctr = 0 ∧
      t.cctx.point = onward s.cur ∧
      Keeps { live := fun l => { l with rseed := 0, ctr := 0 }, ctx := noMark } s t [] [] []) ∧
  (∀ (r : Tfwd) (s : State), Forward s (.tfwd r) r 0 0 ∧ ∀ e : TrecX, Forward s (.tfwdExt r e) r e.disp e.stride) ∧
  (∀ (r : Trev) (s : State), Backward s (.trev r) r 0 0 ∧ ∀ e : TrecX, Backward s (.trevExt r e) r e.disp e.stride) ∧
  (∀ (r : Trev) (s : State) (pa : Nat), Alone s → s.ccore.tq.length < 8 → full s [srcS r.a r.wa] →
    let ea := (regs s).sv r.a
    ea.toNat % 64 = 0 → ea.toNat < 0x300000 →
    (tileOn s (.targm r) → QueuesTree s (.targm r) (.walk false ea none) [] fun _ => True) ∧
    (tileOn s (.tsamp r) → Settled s → NoCopies s → Resolved s (s.reqOf s.cur.x 5 0) accRead (ea + 4) pa → Sound s pa 1 →
      (s.byte pa ≠ 0 → QueuesTree s (.tsamp r) (.walk true ea none) [] fun t => t.cctx.live.ctr = s.cctx.live.ctr) ∧
      (s.byte pa = 0 →
        ∃ t, exec (.tsamp r) s = .next t ∧ t.cctx.live.ctr = s.cctx.live.ctr + 1 ∧
          (∃ m : TCmd, t.ccore.tq = s.ccore.tq ++ [m] ∧ m.x = s.cur.x ∧
            m.op = .walk true ea (some (ofN (randomWord s.cctx.live.rseed.toNat s.cctx.live.ctr.toNat 0)))) ∧
          t.cctx.point = onward s.cur ∧
          Keeps { treeStrike with live := fun l => { l with ctr := 0 } } s t [] [] []))) ∧
  (∀ (r : Tratio) (s : State), TReady s (.tratio r) → full s [srcS r.a r.wa, srcS r.b r.wb, srcS r.c r.wc] →
    let a := (regs s).sv r.a
    let b := (regs s).sv r.b
    let c := (regs s).sv r.c
    a.toNat % 8 = 0 → b.toNat % 8 = 0 → c.toNat % 8 = 0 → TreeAt s a → TreeAt s b → TreeAt s c →
    QueuesTree s (.tratio r) (.tratio c a b) [] fun _ => True) ∧
  (∀ (r : Twclr) (s : State), TReady s (.twclr r) → QueuesTree s (.twclr r) (.twclr r.all r.w.toNat) [] fun _ => True) ∧
  (∀ (r : Tstat) (s : State), TReady s (.tstat r) →
    ∃ tok, QueuesTree s (.tstat r) (.tstat tok r.d.toNat r.sel.toNat) [r.d] fun t =>
      (r.d ≠ 0 → fget? t.cctx.live.sWait r.d.toNat = some tok) ∧ t.cctx.tokNext = tok + 1)

namespace Sys2Proof.Rules

open Sys2Proof.Machine Sys2Proof.Safety

/-! ### Events of a context (R32, R33, R37 to R41, R45, R49, R52, R55, R87, R125 to R127, R135) -/

/-- A state without its contexts and cores. -/
def sansUnits (s : State) : State := { s with ctxs := [], cores := [] }

/-- From `s` to `t` context x is unchanged but for what `f` strikes out, its core but for what `g` does, and the rest of the machine
but for what `m` does; the other contexts of its core may only have been handed issue. -/
structure Frame (x : Nat) (f : Ctx → Ctx) (g : Core → Core) (m : State → State) (s t : State) : Prop where
  self : f (t.ctx x) = f (s.ctx x)
  peers : ∀ y, y ≠ x → coreOf y = coreOf x → ctxStill (t.ctx y) = ctxStill (s.ctx y)
  others : ∀ y, coreOf y ≠ coreOf x → t.ctx y = s.ctx y
  core : g (coreRest (t.core (coreOf x))) = g (coreRest (s.core (coreOf x)))
  cores : ∀ k, k ≠ coreOf x → t.core k = s.core k
  rest : m (sansUnits t) = m (sansUnits s)

/-- Contexts and cores are unchanged, and the rest but for what `m` strikes out. -/
structure Outside (m : State → State) (s t : State) : Prop where
  ctxs : ∀ y, t.ctx y = s.ctx y
  cores : ∀ k, t.core k = s.core k
  rest : m (sansUnits t) = m (sansUnits s)

/-- Every byte of memory that `p` does not allow is unchanged. -/
def BytesBut (p : Nat → Prop) (s t : State) : Prop := ∀ a, ¬ p a → t.byte a = s.byte a

/-- Strikes out whether a context issues. -/
def noState (c : Ctx) : Ctx := { c with state := .idle, why := .none }

/-- A context that may issue: READY, or RUNNING. -/
def Goes (c : Ctx) : Prop := (c.state = .ready ∨ c.state = .running) ∧ c.why = .none

/-- What a blocked context waits for holds (R37, R40, R152, R153, R154, R216, R223). -/
def WaitOver (s : State) (x : Nat) : Prop :=
  let c := s.ctx x
  let k := s.core (coreOf x)
  match c.why with
  | .none => True
  | .queue n =>
    if n = 0 then ((k.mq ++ c.heldX).filter fun m => m.slot == 6).length < 8 else if n = 1 then k.tq.length < 8
    else if n = 2 then k.fq.length < 4 else k.copies.length < 32
  | .cid n => ∀ p ∈ k.copies, ¬ (p.x = x ∧ p.lost = false ∧ p.cid = n)
  | .chunks cid mask => fget (BitVec.allOnes 64) c.bitmaps cid &&& mask = mask
  | .barrier ea phase =>
    ∃ pa, Resolved (s.select x) (s.reqOf x 0 0) accRead (ea + 16) (pa + 16) ∧ Sound s (pa + 16) 8 ∧
      Passed (s.bar pa) phase
  | .word ea value => ∃ pa, Resolved (s.select x) (s.reqOf x 0 0) accRead ea pa ∧ ofN (number 8 fun j => s.byte (pa + j)) = value
  | .task => c.given ≠ none
  | .empty isV reg => if isV then fget? c.live.vWait reg = none else fget? c.live.sWait reg = none
  | .yield => c.yielded = true ∨
      ∀ y, y ≠ x → coreOf y = coreOf x → (s.ctx y).state ≠ .running ∧ ¬ ((s.ctx y).state = .ready ∧ (s.ctx y).stopped = false)
  | .ahead => True
  | .rejoin => False
  | .member y => (s.ctx y).state ≠ .blocked
  | .post d => (s.msgs.filter fun m => m.held = false ∧ m.die = d).length ≤ Config.schedRoom d

/-- A wait of which `WaitOver` says all: its end does not hang on memory. -/
def plainWait (w : BlockWhy) : Prop :=
  (∃ n, w = .queue n) ∨ (∃ n, w = .cid n) ∨ (∃ n m, w = .chunks n m) ∨ w = .task ∨ (∃ v r, w = .empty v r) ∨ w = .rejoin ∨
    (∃ y, w = .member y) ∨ ∃ d, w = .post d

/-- A context of which a mark has nothing to do but to record. -/
structure Still (s : State) (x : Nat) : Prop where
  ungated : (s.ctx x).gate = []
  unheld : (s.ctx x).heldX = []
  unqueued : ∀ c ∈ (s.core (coreOf x)).fq, c.x ≠ x

/-- Nothing of a context is in its core's engines or on its way (R41). -/
structure Drained (s : State) (x : Nat) : Prop where
  state : (s.ctx x).state = .draining
  values : (s.ctx x).arrivals = []
  held : (s.ctx x).heldX = []
  matrix : ∀ m ∈ (s.core (coreOf x)).mq ++ (s.core (coreOf x)).mrun.toList, m.x ≠ x
  tree : ∀ m ∈ (s.core (coreOf x)).tq, m.x ≠ x
  fibre : ∀ m ∈ (s.core (coreOf x)).fq, m.x ≠ x
  copies : ∀ p ∈ (s.core (coreOf x)).copies, ¬ (p.x = x ∧ p.lost = false)
  traps : (s.ctx x).handler = true ∨ (s.ctx x).deferred = []

/-- What retirement leaves of a context and of what it owned (R41, R213, R230, R258). -/
structure Retired (s t : State) (x : Nat) : Prop where
  idle : (t.ctx x).state = .idle
  sticky : (t.ctx x).live.armed = []
  pending : (t.ctx x).live.hPend = []
  streams : (t.ctx x).live.f = []
  tree : (t.ctx x).tree = Tree.init
  free : (t.ctx x).region = 0 ∧ (t.ctx x).task = 0 ∧ (t.ctx x).seif = 0
  sKept : ∀ r, (t.ctx x).live.sv r = (s.ctx x).live.sv r
  vKept : ∀ r, (t.ctx x).live.vv r = (s.ctx x).live.vv r
  banks : ∀ b, ((s.core (coreOf x)).bank b).owned = true → ((s.core (coreOf x)).bank b).owner = x % 4 →
    ((t.core (coreOf x)).bank b).owned = false
  grants : ∀ b, ((t.core (coreOf x)).bank b).grants.getLsbD (x % 4) = false
  sets : ∀ n, ((s.core (coreOf x)).cset n).owned = true → ((s.core (coreOf x)).cset n).owner = x % 4 →
    ((t.core (coreOf x)).cset n).owned = false
  rings : ∀ g n, fget? (t.core (coreOf x)).ringOf g = some n → ((t.core (coreOf x)).ringGen n).owner ≠ x % 4

/-- The core's resources, which retirement releases. -/
def noOwned (k : Core) : Core := { k with banks := [], csets := [], ringOf := [], mq := [], tq := [], fq := [] }

/-- The translation of an address is held and leads outside the scratchpad windows: it hangs on nothing but the tables. -/
def Mapped (s : State) (rq : Req) (acc : Nat) (va : Word64) (pa : Nat) : Prop :=
  ∀ t, SameMaps s t → translate rq acc va t = .ok (.here pa) t

/-- The task record at an address stands in memory, and the scheduler of a die can read and write it: nothing is held for it
(R30, R361). -/
structure RecordAt (s : State) (asid die : Nat) (va : Word64) (pa : Nat) : Prop where
  reads : Mapped s (schedReq asid die) accRead va pa
  writes : Mapped s (schedReq asid die) accWrite va pa
  clean : Sound s pa 64
  apart : ∀ i, i < 64 → ∀ j, j < 64 → dirtyByte s (pa + i) ≠ pa + j
  unheld : ∀ m ∈ s.msgs, ¬ (m.held = true ∧ m.asid = asid ∧ m.record = va)

/-- Strikes out what a completion writes. -/
def noTask (s : State) : State := { noMem s with tasks := [], queue := [], cur := Cursor.init }

/-- And the messages that it sends. -/
def noDone (s : State) : State := { noTask s with msgs := [], nextId := 0 }

/-- Strikes out what the loss of a heartbeat writes beside the tasks that it ends: counters, strata records, and seifs. -/
def noLoss (s : State) : State := { s with dies := [], regs := [], hostOut := [], seifs := [] }

/-- The trap registers of a deferred trap (R48, R50). -/
structure TrapRegs (c t : Ctx) (d : Deferred) (slotRes left : Nat) : Prop where
  cause : t.ctl.tcause = ofN (d.cause + 2 ^ 8 * d.slot + 2 ^ 12)
  info : t.ctl.tinfo = d.info
  at_ : t.ctl.tpc = c.pc
  res : fld t.ctl.tsw.toNat 16 13 = slotRes
  rep : fld t.ctl.tsw.toNat 20 17 = left
  other : t.ctl.tsw &&& ~~~resumeBits = c.live.sw &&& ~~~resumeBits
  handler : t.live.sw = t.ctl.tsw ||| 4
  banked : t.banked = c.live.armed ∧ t.live.armed = []
  rest : t.deferred = c.deferred.drop 1
  goes : t.point = atEntry c.ctl.tv

/-- Strikes out what a deferred trap writes. -/
def noTrap (c : Ctx) : Ctx :=
  noMark { noState c with ctl := Control.init, banked := [], live := { c.live with armed := [], sw := 0 }, deferred := [], fromEnd := false
                          pc := 0, j := 0, slot := 0, ended := false, jumped := false, arrived := false, blocked := false, vSince := [] }

/-- Strikes out the strata record, the seifs and the cursor. -/
def noStrata (s : State) : State := { s with dies := [], seifs := [], cur := Cursor.init }

end Sys2Proof.Rules

/-- R37 to R39, R87, R125 to R127, R135, R329: a BLOCKED context goes on when what it waits for holds, and not before; a gate
whose oldest store is 1,024 cycles old is performed in order by an implicit mark; a value on its way reaches its register; and a
context whose read is refused is PARKED as it stood at its last mark. The model's choice: that an event whose condition does not
hold leaves the state as it is (log 3). -/
def Obligations.ContextsWaitAndGoOn : Prop :=
  (∀ (x : Nat) (s : State), (s.ctx x).state = .blocked → WaitOver s x →
    ∃ t, exec (.blockRelease x) s = .next t ∧ Goes (t.ctx x) ∧
      (s.holdsCore (coreOf x) = true → (t.ctx x).state = .ready) ∧
      Frame x (fun c => { noState c with arrived := false }) id id s t) ∧
  (∀ (x : Nat) (s : State), (s.ctx x).state = .blocked → plainWait (s.ctx x).why → ¬ WaitOver s x →
    exec (.blockRelease x) s = .next s) ∧
  (∀ (x : Nat) (s : State) (g : GateEnt), ((s.ctx x).state = .running ∨ (s.ctx x).state = .ready) →
    (s.ctx x).gate.head? = some g → g.time + 1024 ≤ s.time → (∀ c ∈ (s.core (coreOf x)).fq, c.x ≠ x) →
    let base := scratchBase (coreOf x)
    GateLocal (s.ctx x) →
    ∃ t, exec (.gateTimeoutMark x) s = .next t ∧ Commits s t x ∧
      BytesBut (fun a => base ≤ a ∧ a < base + 0x300000) s t ∧ (t.ctx x).gate = [] ∧ (t.ctx x).vSince = [] ∧
      (t.ctx x).mark.pc = (s.ctx x).pc ∧ (t.ctx x).mark.j = (s.ctx x).j ∧ (t.ctx x).mark.slot = (s.ctx x).slot ∧
      Frame x (fun c => noMark { c with gate := [], vSince := [], heldX := [] }) (fun k => { k with mq := [], rcache := [] })
        (fun u => { u with mem := [], poison := [], soft := [], cur := Cursor.init }) s t) ∧
  (∀ (x tok : Nat) (s : State) (a : Arrival), (s.ctx x).arrivals.find? (·.tok == tok) = some a →
    ∃ t, exec (.loadArrival x tok) s = .next t ∧
      (a.isV = false → fget? (s.ctx x).live.sWait a.reg = some tok →
        fget 0 (t.ctx x).live.s a.reg = a.val.truncate 64 ∧ fget? (t.ctx x).live.sWait a.reg = none) ∧
      (a.isV = true → fget? (s.ctx x).live.vWait a.reg = some tok →
        fget 0 (t.ctx x).live.v a.reg = a.val ∧ fget? (t.ctx x).live.vWait a.reg = none) ∧
      (∀ r, a.isV = true ∨ r ≠ a.reg → fget 0 (t.ctx x).live.s r = fget 0 (s.ctx x).live.s r) ∧
      (∀ r, a.isV = false ∨ r ≠ a.reg → fget 0 (t.ctx x).live.v r = fget 0 (s.ctx x).live.v r) ∧
      (∀ b ∈ (t.ctx x).arrivals, b ∈ (s.ctx x).arrivals ∧ b.tok ≠ tok) ∧
      ((s.ctx x).state ≠ .idle → (t.ctx x).deferred =
        (s.ctx x).deferred ++ if a.poison then [{ cause := 12, info := a.pc, slot := a.slot, tok := a.tok }] else []) ∧
      Frame x (fun c => noMark { noState c with
        live := { c.live with s := [], sWait := [], v := [], vWait := [] }, arrivals := [], deferred := [] }) id id s t) ∧
  (∀ (x tok reason : Nat) (s : State) (a : Arrival), (s.ctx x).arrivals.find? (fun b => b.tok == tok && (s.ctx x).mark.tok ≤ b.tok) = some a →
    1 ≤ reason → reason ≤ 8 → (s.ctx x).heldX = [] →
    ∃ t, exec (.accessRefusal x tok reason) s = .next t ∧ (t.ctx x).state = .parked ∧ (t.ctx x).live = (s.ctx x).mark.live ∧
      (t.ctx x).ctl = (s.ctx x).mark.ctl ∧ (t.ctx x).deferred = (s.ctx x).deferred.filter (fun d => d.tok < (s.ctx x).mark.tok) ∧
      (t.ctx x).pc = (s.ctx x).mark.pc ∧ (t.ctx x).j = (s.ctx x).mark.j ∧ (t.ctx x).slot = (s.ctx x).mark.slot ∧
      (t.ctx x).gate = [] ∧ (t.ctx x).mark = (s.ctx x).mark ∧
      (∀ b ∈ (t.ctx x).arrivals, b.tok < (s.ctx x).mark.tok) ∧
      Frame x (fun c => noMark { noState c with
          live := Live.init, ctl := Control.init, gate := [], vSince := [], arrivals := [], deferred := [], pc := 0, j := 0, slot := 0
          ended := false, jumped := false, arrived := false, blocked := false })
        (fun k => { k with fq := [] })
        (fun u => { u with mem := [], poison := [], soft := [], regs := [], frSeq := 0, dies := [], seifs := [], hostOut := [] }) s t)

/-- R41, R45, R48 to R50: a deferred trap is taken before the next issue, or at the end bundle of a DRAINING context; the
heartbeat of a core halts its contexts at the second miss, and the task that one of them runs completes FAULTED; and a DRAINING
context with nothing outstanding retires, releases what it owned, and its entry task completes OK. The model's choice: that an
event whose condition does not hold leaves the state as it is (log 3). -/
def Obligations.ContextsTrapAndEnd : Prop :=
  (∀ (x : Nat) (s : State) (d : Deferred) (ds : List Deferred), (s.ctx x).state = .draining → (s.ctx x).handler = false →
    (s.ctx x).deferred = d :: ds → (s.ctx x).ctl.tv ≠ 0 → (s.ctx x).slot ≤ 9 → Still s x →
    ∃ t, exec (.deferredTrap x) s = .next t ∧ TrapRegs (s.ctx x) (t.ctx x) d (s.ctx x).slot 0 ∧ Goes (t.ctx x) ∧
      (t.ctx x).fromEnd = true ∧ Frame x noTrap id noStrata s t) ∧
  (∀ (x : Nat) (s u : State) (b : Bundle) (d : Deferred) (ds : List Deferred), s.issues x = true → (s.ctx x).handler = false →
    (s.ctx x).deferred = d :: ds → ((s.ctx x).slot = 0 ∨ (s.ctx x).blocked = true) → (s.ctx x).ended = false → (s.ctx x).ctl.tv ≠ 0 →
    (s.ctx x).slot ≤ 9 → fetchBundle x (s.ctx x).pc (s.ctx x).jumped (s.select x) = .ok b u → u.ctx x = s.ctx x →
    u.cur.x = x → u.cur.atEnd = none → Still u x →
    ∃ t, exec (.deferredTrap x) s = .next t ∧ TrapRegs (s.ctx x) (t.ctx x) d (s.ctx x).slot (b.rep - (s.ctx x).j) ∧
      (t.ctx x).state = .running ∧ Frame x noTrap id noStrata u t) ∧
  (∀ (k : Nat) (s : State), (s.core k).hbp ≠ 0 → (s.core k).hbp.toNat ≤ (s.core k).hbTimer →
    ((s.core k).hbMiss = 0 →
      ∃ t, exec (.heartbeatExpiry k) s = .next t ∧ t.core k = { s.core k with hbTimer := 0, hbMiss := 1 } ∧
        (∀ j, j ≠ k → t.core j = s.core j) ∧ (∀ y, t.ctx y = s.ctx y) ∧ sansUnits t = sansUnits s) ∧
    ((s.core k).hbMiss = 1 → (∀ i, i < 4 → (s.ctx (4 * k + i)).heldX = []) →
      let halts := fun (t : State) =>
        (∀ i, i < 4 → (t.ctx (4 * k + i)).state = if (s.ctx (4 * k + i)).state = .idle then .idle else .halted) ∧
        (∀ i, i < 4 → (t.ctx (4 * k + i)).live = (s.ctx (4 * k + i)).live ∧ (t.ctx (4 * k + i)).pc = (s.ctx (4 * k + i)).pc ∧
          (t.ctx (4 * k + i)).ctl = (s.ctx (4 * k + i)).ctl) ∧
        (t.core k).hbTimer = 0 ∧ (t.core k).hbMiss = 0 ∧ (∀ y, coreOf y ≠ k → t.ctx y = s.ctx y) ∧
        ∀ j, j ≠ k → t.core j = s.core j
      ((∀ i, i < 4 → s.tasksOf (4 * k + i) = []) →
        ∃ t, exec (.heartbeatExpiry k) s = .next t ∧ halts t ∧ noLoss (sansUnits t) = noLoss (sansUnits s)) ∧
      ∀ (n : Nat) (e : TaskRec) (pa pb : Nat) (ps : Nat → Nat), n < 4 → s.tasksOf (4 * k + n) = [e] →
        (s.ctx (4 * k + n)).state ∉ [.idle, .halted] → (∀ i, i < 4 → i ≠ n → s.tasksOf (4 * k + i) = []) →
        Completes (Mapped s (schedReq e.asid e.die)) s e pa pb ps → domainTask s e.region →
        ∃ t, exec (.heartbeatExpiry k) s = .next t ∧ halts t ∧ Completed s t e 4 pa pb ps ∧ BytesBut (doneTouched s pa pb) s t ∧
          noLoss (noDone (sansUnits t)) = noLoss (noDone (sansUnits s)))) ∧
  (∀ (x : Nat) (s : State), Drained s x → s.seifOf x = none →
    ((∀ e ∈ s.tasksOf x, e.data = true) →
      ∃ t, exec (.contextRetire x) s = .next t ∧ Retired s t x ∧
        Frame x (fun _ => Ctx.init) noOwned (fun u => { u with seifs := [] }) s t) ∧
    ∀ (e : TaskRec) (pa pb : Nat) (ps : Nat → Nat), (s.tasksOf x).filter (fun e => !e.data) = [e] → e.state = .running x →
      Completes (Mapped s (schedReq e.asid e.die)) s e pa pb ps →
      ∃ t, exec (.contextRetire x) s = .next t ∧ Retired s t x ∧ Completed s t e 0 pa pb ps ∧ BytesBut (doneTouched s pa pb) s t ∧
        Frame x (fun _ => Ctx.init) noOwned (fun u => { noDone u with seifs := [] }) s t)

namespace Sys2Proof.Rules

open Sys2Proof.Machine Sys2Proof.Safety

/-! ### The task scheduler and barriers (R30 to R34, R36, R54, R55) -/

/-- A record is dispatched before another (R33, R36): lower PRI, then higher HEIGHT, then posted first. -/
def Before (a b : TaskRec) : Prop :=
  a.pri < b.pri ∨ a.pri = b.pri ∧ (b.height < a.height ∨ b.height = a.height ∧ a.id < b.id)

/-- A record is the next of its die to be dispatched, and the next of its region, which lets its tasks run (R33, R36, R332). -/
structure NextRecord (s : State) (d : Nat) (e : TaskRec) (r : Region) : Prop where
  ready : e ∈ s.tasks ∧ e.state = .ready ∧ e.die = d
  live : s.taskAt e.asid e.va = some e
  first : ∀ u ∈ s.tasks, u.state = .ready → u.die = d ∨ u.region = e.region → u ≠ e → Before e u
  region : s.region? e.region = some r
  runs : (r.state = .admitted ∨ r.state = .swapped) ∧ r.stopping = false ∧ r.halting = false

/-- A context of a core on which a region is resident. -/
def Resident (s : State) (r : Region) (x : Nat) : Prop :=
  coreOf x < 216 ∧ coreOf x ∈ r.place ∧ (s.core (coreOf x)).region = r.id ∧ (s.core (coreOf x)).halting = false

/-- The lowest context of which `p` holds. -/
def Lowest (p : Nat → Prop) (x : Nat) : Prop := p x ∧ ∀ y, y < x → ¬ p y

/-- A message on its way, with nothing held for its record. -/
structure Message (s : State) (n : Nat) (op : SchedOp) (m : SchedMsg) (pa : Nat) : Prop where
  found : s.msgs.find? (fun u => u.id == n && !u.held) = some m
  op : m.op = op
  record : RecordAt s m.asid m.die m.record pa

/-- A record waits in the scheduler, and is the only one of its number. -/
def Waits (s : State) (m : SchedMsg) (e : TaskRec) : Prop :=
  s.taskAt m.asid m.record = some e ∧ e.state = .waiting ∧ e.asid = m.asid ∧ e.va = m.record ∧ ∀ u ∈ s.tasks, u.id = e.id → u = e

/-- A state once a message has arrived. -/
def arrivedMsg (s : State) (n : Nat) : State := { s with msgs := s.msgs.filter (·.id != n) }

/-- Contexts and cores, and the rest but for what a completion and a message write, are unchanged. -/
def Scheduled (s t : State) (n : Nat) : Prop :=
  t.msgs = (arrivedMsg s n).msgs ∧ Outside (fun u => { noTask u with msgs := [] }) s t

/-- The barrier at a physical address is in the vault part of a die that is active, or in the scratchpad of a core that has its power
and stands in no hardpan slot (R26, R54, R56). -/
def BarrierHome (s : State) (pa : Nat) : Prop :=
  pa % 32 = 0 ∧ pdieOf pa ≤ 8 ∧ (s.die (pdieOf pa)).lost = false ∧ s.dieActive (pdieOf pa) = true ∧ Sound s pa 24 ∧
    (inVault (offOf pa) = true ∨
      inWindow (offOf pa) = true ∧ (s.core (windowCore pa)).gated = false ∧ fget? s.hard (windowCore pa) = none)

end Sys2Proof.Rules

/-- R32 to R34, R36, R54, R55: a scheduler dispatches the READY record that comes first: an entry task to the lowest IDLE context
of its region's cores, which starts with PC, s1, s2, tkrec and tv as the record gives them, and a data task to the lowest context
that waits for one; a decrement lowers DEP, and at 0 makes a WAITING record READY; a cancellation gives a NEW record STATUS 3 and
completes a WAITING one, whose successors it reaches in turn; and an arrival from another module acts on its barrier. The model's
choice: when each event comes (log 3), and readings of the scheduler (log 31). -/
def Obligations.TaskAndBarrierEvents : Prop :=
  (∀ (d x pa : Nat) (s : State) (e : TaskRec) (r : Region), NextRecord s d e r → (∀ u ∈ s.tasks, u.id = e.id → u = e) →
    RecordAt s e.asid d e.va pa →
    (e.data = false → e.seif = 1 → s.ctxCount r.id < r.contexts →
      Lowest (fun y => Resident s r y ∧ (s.ctx y).state = .idle) x →
      ∃ t, exec (.taskDispatch d) s = .next t ∧ Goes (t.ctx x) ∧
        (t.ctx x).point = atEntry (ofN (field s pa 0 8)) ∧
        (∀ n, (t.ctx x).live.sv n = if n = 1 then ofN (field s pa 8 8) else if n = 2 then e.va else 0) ∧
        (∀ n, (t.ctx x).live.vv n = 0) ∧ (t.ctx x).live.sw = 0 ∧ (t.ctx x).live.sWait = [] ∧ (t.ctx x).live.vWait = [] ∧
        (t.ctx x).live.armed = [] ∧ (t.ctx x).live.f = [] ∧ (t.ctx x).tree = Tree.init ∧ (t.ctx x).ctl.tkrec = e.va ∧
        (t.ctx x).ctl.tv = (if field s pa 0x38 8 = 0 then r.tv else ofN (field s pa 0x38 8)) ∧ (t.ctx x).region = r.id ∧
        (t.ctx x).mark.live = (t.ctx x).live ∧ (t.ctx x).mark.pc = (t.ctx x).pc ∧
        t.byte (pa + 0x2C) = 3 ∧ BytesBut (recTouched s pa 0x2C 1) s t ∧
        { e with state := .running x, home := r.id } ∈ t.tasks ∧ t.tasks.length = s.tasks.length ∧
        Frame x (fun _ => Ctx.init) id noTask s t) ∧
    (e.data = true →
      Lowest (fun y => Resident s r y ∧ (s.ctx y).region = r.id ∧ (s.ctx y).state = .blocked ∧ (s.ctx y).why = .task ∧
        (s.ctx y).given = none) x →
      ∃ t, exec (.taskDispatch d) s = .next t ∧ Goes (t.ctx x) ∧ (t.ctx x).given = some e.va ∧ t.byte (pa + 0x2C) = 3 ∧
        BytesBut (recTouched s pa 0x2C 1) s t ∧
        { e with state := .running x, home := r.id } ∈ t.tasks ∧ t.tasks.length = s.tasks.length ∧
        Frame x (fun c => { noState c with given := none }) id noTask s t)) ∧
  (∀ (n pa sender : Nat) (s : State) (m : SchedMsg), Message s n (.decrement sender) m pa → 1 ≤ field s pa 0x18 4 →
    let dep := field s pa 0x18 4 - 1
    (∀ e, Waits s m e →
      ∃ t, exec (.taskDecrement n) s = .next t ∧ field t pa 0x18 4 = dep ∧
        (dep = 0 → t.byte (pa + 0x2C) = 2 ∧ { e with state := .ready } ∈ t.tasks ∧ t.tasks.length = s.tasks.length) ∧
        (dep ≠ 0 → t.byte (pa + 0x2C) = s.byte (pa + 0x2C) ∧ t.tasks = s.tasks) ∧
        BytesBut (fun a => recTouched s pa 0x18 4 a ∨ recTouched s pa 0x2C 1 a) s t ∧ Scheduled s t n) ∧
    (s.taskAt m.asid m.record = none → field s pa 0x2C 1 = 0 →
      ∃ t, exec (.taskDecrement n) s = .next t ∧ field t pa 0x18 4 = dep ∧ t.tasks = s.tasks ∧
        BytesBut (recTouched s pa 0x18 4) s t ∧ Scheduled s t n)) ∧
  (∀ (n pa sender : Nat) (s : State) (m : SchedMsg), Message s n (.cancel sender) m pa →
    (∀ (e : TaskRec) (pb : Nat) (ps : Nat → Nat), Waits s m e → e.die = m.die →
      Completes (Mapped s (schedReq e.asid e.die)) s e pa pb ps →
      ∃ t, exec (.taskCancellation n) s = .next t ∧ Completed (arrivedMsg s n) t e 3 pa pb ps ∧ BytesBut (doneTouched s pa pb) s t ∧
        Outside noDone s t) ∧
    (s.taskAt m.asid m.record = none → field s pa 0x2C 1 = 0 →
      ∃ t, exec (.taskCancellation n) s = .next t ∧ field t pa 0x2A 2 = 3 ∧ t.tasks = s.tasks ∧
        BytesBut (recTouched s pa 0x2A 2) s t ∧ Scheduled s t n)) ∧
  (∀ (pa : Nat) (s : State), BarrierHome s pa →
    (∀ (n : Word64) (err : Bool),
      ∃ t, exec (.barrierArrival pa (.arrive n err)) s = .next t ∧ Arrived (s.bar pa) n.toNat err (t.bar pa) ∧
        BytesBut (fun a => (pa ≤ a ∧ a < pa + 22) ∨ a = dirtyByte s pa) s t ∧ Outside noMem s t) ∧
    (∀ n : Word64,
      ∃ t, exec (.barrierArrival pa (.expect n)) s = .next t ∧ Expected (s.bar pa) n.toNat (t.bar pa) ∧
        BytesBut (fun a => (pa ≤ a ∧ a < pa + 22) ∨ a = dirtyByte s pa) s t ∧ Outside noMem s t))

namespace Sys2Proof.Rules

open Sys2Proof.Machine Sys2Proof.Safety

/-! ### The region scheduler and region commands (R28, R35, R39, R43, R127, R325, R331 to R335) -/

/-- A region is the only one of its number. -/
def Sole (s : State) (r : Region) : Prop := s.region? r.id = some r ∧ ∀ u ∈ s.regions, u.id = r.id → u = r

/-- The waiting region that is admitted next (R35): lowest priority value, then first posted. -/
structure FirstWaiting (s : State) (w : Region) : Prop where
  waits : w ∈ s.regions ∧ w.state = .waiting
  first : ∀ u ∈ s.regions, u.state = .waiting → u ≠ w → w.pri < u.pri ∨ w.pri = u.pri ∧ w.order < u.order
  sole : Sole s w

/-- The number of a STATE in an RCB (R325). -/
def stateCode (st : RegState) : Nat :=
  match st with
  | .waiting => 1
  | .admitted => 2
  | .swapped => 3
  | .held => 4
  | .released => 5

/-- The region is in a state, and its RCB in memory says so (R325); memory changed nowhere else but where `p` allows. -/
def Enters (s t : State) (r : Region) (st : RegState) (pa : Nat) (p : Nat → Prop) : Prop :=
  (∃ u ∈ t.regions, u.id = r.id ∧ u.state = st ∧ u.rcb = r.rcb ∧ u.rcbAsid = r.rcbAsid) ∧ (t.byte (pa + 0x0C)).toNat = stateCode st ∧
    BytesBut (fun a => recTouched s pa 0x0C 1 a ∨ p a) s t

/-- The RCB of a region can be written where it stands. -/
def RcbAt (s : State) (r : Region) (pa : Nat) : Prop :=
  Mapped s (schedReq r.rcbAsid 0) accWrite r.rcb pa ∧ dirtyByte s (pa + 0x0C) ≠ pa + 0x0C

/-- A core of a region's partition on a die. -/
def Part (s : State) (r d k : Nat) : Prop := k / 24 = d ∧ (s.core k).region = r

/-- A context whose halt point is a mark (R43). -/
def Halts (c : Ctx) : Prop := c.state = .running ∨ c.state = .ready ∨ c.state = .blocked ∨ c.state = .draining

/-- A context as it was, but for its mark. -/
def sansMark (c : Ctx) : Ctx := noMark { c with vSince := [] }

/-- The mark of a context is where it stands. -/
def MarkedHere (s t : State) (x : Nat) : Prop :=
  (t.ctx x).mark.live = (s.ctx x).live ∧ (t.ctx x).mark.pc = (s.ctx x).pc ∧ (t.ctx x).mark.j = (s.ctx x).j ∧
    (t.ctx x).mark.slot = (s.ctx x).slot

/-- The cores of which `p` holds halt: nothing else of them changes, and each context that is not PARKED takes a mark. -/
structure Halted (p : Nat → Prop) (s t : State) : Prop where
  cores : ∀ k, p k → t.core k = { s.core k with halting := true }
  otherCores : ∀ k, ¬ p k → t.core k = s.core k
  marks : ∀ x, p (coreOf x) → Halts (s.ctx x) → MarkedHere s t x
  ctxs : ∀ x, sansMark (t.ctx x) = sansMark (s.ctx x)
  others : ∀ x, ¬ p (coreOf x) → t.ctx x = s.ctx x

/-- The byte of a scratchpad, and of its copy in hardpan, of the cores of which `p` holds. -/
def scratchByte (p : Nat → Prop) (a : Nat) : Prop :=
  ∃ k o, p k ∧ o < 0x300000 ∧ (a = scratchBase k + o ∨ a = hardPhys k o)

/-- A byte of the hardpan slots of such cores. -/
def slotByte (p : Nat → Prop) (a : Nat) : Prop := ∃ k o, p k ∧ o < 0x400000 ∧ a = hardPhys k o

/-- A byte of their port spill areas (R333). -/
def spillArea (s : State) (p : Nat → Prop) (a : Nat) : Prop :=
  ∃ k o, p k ∧ o < 0x80000 ∧ a = physOf (k / 24) (s.regN (rSPILL (k / 24))) + 0x80000 * (k % 24) + o

/-- What the slot of a core is to hold beside the scratchpad lies beyond it in the slot, and its ports in their area (R333). -/
def SlotFits (s : State) (k : Nat) : Prop :=
  (∀ p ∈ HardSlot.parts { core := s.core k, ctxs := (List.range 4).map fun i => (i, s.ctx (4 * k + i)) },
    0x300000 ≤ p.1 ∧ p.1 + p.2.length ≤ 0x400000) ∧
  ∀ i, i < 4 → (s.ctx (4 * k + i)).ports.length ≤ 7 ∧ (s.ctx (4 * k + i)).portsH.length ≤ 7

/-- A partition has halted, nothing of it is in the matrix engine or on its way from the fibre unit, and no error lies in its arrays
(R43, R273, R345). -/
structure AtHalt (s : State) (k : Nat) : Prop where
  halting : (s.core k).halting = true
  engine : (s.core k).mrun = none ∧ (s.core k).fq = []
  free : fget? s.hard k = none
  values : ∀ i, i < 4 → ∀ a ∈ (s.ctx (4 * k + i)).arrivals, a.src ≠ 2
  fits : SlotFits s k

/-- What the load of an image may change beside the hardpan: the records that its contexts run enter the scheduler (R335). -/
def noAdopt (u : State → State) (s : State) : State :=
  { u s with tasks := [], dies := [], ldtCache := [], fabricOut := [] }

/-- The scratchpads of the cores of which `p` holds have gone to hardpan, apart from bytes that a later write to `q` touched. -/
def GoneOut (p q : Nat → Prop) (s t : State) : Prop :=
  ∀ k, p k →
    (∃ h : HardSlot, fget? t.hard k = some h ∧ h.core = s.core k ∧ ∀ i, i < 4 → fget Ctx.init h.ctxs i = s.ctx (4 * k + i)) ∧
    (∀ i, i < 4 → (t.ctx (4 * k + i)).state = .idle) ∧
    ∀ o, o < 0x300000 → ¬ q (hardPhys k o) → t.byte (hardPhys k o) = s.byte (scratchBase k + o)

/-- What a region command may change beside regions and memory: its register, the strata record, and messages to the host. -/
def noCommand (s : State) : State :=
  { noMem s with regions := [], regs := [], hostOut := [], cur := Cursor.init, hard := [], queue := [], nextId := 0, fresh := 0 }

/-- REGCMD names a region, and no command is under way (R332). -/
structure Commanded (s : State) (r : Region) : Prop where
  idle : bitAt (s.regN rREGCMD) 8 = false
  boot : s.bootState = 4
  named : r ∈ s.regions ∧ r.rcb = s.reg rREGRCB ∧ r.rcbAsid = s.regF rREGARG 11 0 ∧ r.state ≠ .released
  sole : Sole s r
  only : ∀ u ∈ s.regions, u.rcb = r.rcb → u.rcbAsid = r.rcbAsid → u.state ≠ .released → u = r
  quiet : ∀ u ∈ s.regions, u.halting = false ∧ u.stopping = false

/-- BUSY and RESULT of REGCMD (R332). -/
def CommandIs (t : State) (busy result : Nat) : Prop := t.regF rREGCMD 8 8 = busy ∧ t.regF rREGCMD 15 12 = result

/-- No other region is in the state asked for. -/
def Alone1 (s : State) (r : Region) (p : RegState → Prop) : Prop := ∀ u ∈ s.regions, p u.state → u = r

def liveState (st : RegState) : Prop := st = .admitted ∨ st = .swapped

/-- What STOPMARK asks of a context at a mark (R332). -/
structure StopClear (s : State) (x : Nat) : Prop where
  task : (s.ctx x).handler = false
  armed : (s.ctx x).live.armed = []
  pending : (s.ctx x).live.hPend = []
  ports : (s.ctx x).ports = []
  windows : ∀ w ∈ (s.ctx x).tree.wins, w.2.st = 0
  held : (s.ctx x).heldX = []
  matrix : ∀ m ∈ (s.core (coreOf x)).mq ++ (s.core (coreOf x)).mrun.toList, m.x ≠ x
  tree : ∀ m ∈ (s.core (coreOf x)).tq, m.x ≠ x
  copies : ∀ p ∈ (s.core (coreOf x)).copies, ¬ (p.x = x ∧ p.lost = false)

/-- A context that STOPMARK has still to stop. -/
def Unstopped (s : State) (r : Region) (y : Nat) : Prop :=
  coreOf y ∈ r.place ∧ (s.core (coreOf y)).region = r.id ∧ ((s.ctx y).state = .running ∨ (s.ctx y).state = .ready) ∧
    (s.ctx y).stopped = false

/-- The context that a RESUME value names (R331). -/
def named (v : Word64) : Nat := 96 * fld v.toNat 20 17 + 4 * fld v.toNat 15 11 + fld v.toNat 10 9

/-- A RESUME value names a context of the module. -/
def Names (v : Word64) : Prop := fld v.toNat 20 17 ≤ 8 ∧ fld v.toNat 15 11 < 24

/-- Copies that meet a test go on. -/
def unparked (l : List CopyCmd) (p : CopyCmd → Bool) : List CopyCmd :=
  l.map fun q => if p q then { q with parked := false } else q

/-- The sizes of the portable image (R333, R334), which has a core's slot without its context area. -/
def coreArea : Nat := 0x3D0000
def slotOf (o : Nat) : Nat := if o < 0x3C8000 then o else o + 0x30000
def recordArea : Nat := 40960
def imageLen (n : Nat) : Nat := 64 + n * coreArea + 4 * n * recordArea

/-- A buffer in the HBM of one die. -/
def HbmRange (pa n : Nat) : Prop :=
  pdieOf pa ≤ 8 ∧ pdieOf (pa + n - 1) = pdieOf pa ∧ inHbm (offOf pa) = true ∧ inHbm (offOf (pa + n - 1)) = true

end Sys2Proof.Rules

/-- R28, R35, R43, R325, R332: the next waiting region that fits is admitted on as many cores as its budget says, each of which it
could be given; a partition that is pre-empted halts, its contexts taking marks; its state goes to hardpan, its region becoming
SWAPPED, or HELD where a command holds it; and it comes back as it was, cores that it had without a state of its own among them.
The model's choice: which cores a region is given is free (log 13), and the form of the hardpan slot (log 15). -/
def Obligations.RegionEvents : Prop :=
  (∀ (s : State) (w : Region) (pa : Nat), FirstWaiting s w → s.fits w = true → RcbAt s w pa →
    (∀ q ∈ s.queue, q.region = some w.id → q.op = 1 → q.ntask = 0) →
    let st : RegState := if w.holdFlag then .held else .admitted
    ∃ (t : State) (cs : List Nat), exec (.regionAdmit w.id) s = .next t ∧ cs.length = w.cores ∧ cs.Nodup ∧
      (∀ k ∈ cs, k ∈ s.candidates w) ∧
      { w with place := cs, admitOrder := s.nextId, state := st } ∈ t.regions ∧ Enters s t w st pa (fun _ => False) ∧
      (∀ k ∈ cs, (t.core k).region = w.id ∧ (t.core k).gated = false ∧ (t.core k).halting = false ∧ (t.core k).rcache = [] ∧
        (t.core k).banks = (s.core k).banks) ∧
      (∀ k, k ∉ cs → t.core k = s.core k) ∧ (∀ x, t.ctx x = s.ctx x) ∧ noCommand (sansUnits t) = noCommand (sansUnits s)) ∧
  (∀ (r d : Nat) (s : State) (g : Region), s.region? r = some g → s.mayPreempt g d = true →
    (∀ x, Part s r d (coreOf x) → Still s x) →
    ∃ t, exec (.partitionPreempt r d) s = .next t ∧ Halted (Part s r d) s t ∧
      { sansUnits t with cur := Cursor.init } = { sansUnits s with cur := Cursor.init }) ∧
  (∀ (d pa : Nat) (s : State) (g : Region), Inv s → Sole s g → (∃ k, Part s g.id d k) → RcbAt s g pa → s.arrayErr = [] →
    (∀ k, Part s g.id d k → AtHalt s k ∧ k ∈ g.place ∧ s.descends s.regions.length (s.goesTo g k) g.id = false) →
    (∀ a, spillArea s (Part s g.id d) a → inHbm (offOf a) = true) →
    (∀ u ∈ s.regions, u.id ≠ g.id → u.state = .admitted →
      (s.keeps u).length = u.place.length ∧ ∀ k ∈ u.place, ¬ Part s g.id d k) →
    let last := g.halting = true ∧ ∀ k ∈ s.keeps g, Part s g.id d k
    let ends := fun a => recTouched s pa 0x0C 1 a ∨ spillArea s (Part s g.id d) a
    ∀ st : RegState, (last ∧ st = .held) ∨ (¬ last ∧ g.state = .admitted ∧ st = .swapped) →
    ∃ t, exec (.partitionSwapOut g.id d) s = .next t ∧ GoneOut (Part s g.id d) ends s t ∧
      Enters s t g st pa (fun a => scratchByte (Part s g.id d) a ∨ slotByte (Part s g.id d) a ∨ spillArea s (Part s g.id d) a) ∧
      (∀ k, Part s g.id d k → (t.core k).halting = false ∧ (t.core k).banks = [] ∧ (t.core k).mq = [] ∧ (t.core k).copies = [] ∧
        (t.core k).region = s.goesTo g k) ∧
      (∀ k, ¬ Part s g.id d k → t.core k = s.core k ∧ fget? t.hard k = fget? s.hard k) ∧
      (∀ x, ¬ Part s g.id d (coreOf x) → t.ctx x = s.ctx x) ∧ noCommand (sansUnits t) = noCommand (sansUnits s)) ∧
  (∀ (d pa : Nat) (s : State) (g : Region), Inv s → Sole s g → RcbAt s g pa → s.resumable g d = true → g.place.Nodup →
    (∀ k ∈ g.place, k < 216 ∧ (k / 24 ≠ d → k ∈ s.keeps g)) →
    let back := fun k => k ∈ s.lostCores g d
    let home := fun k => back k ∧ ∃ h, fget? s.hard k = some h ∧ h.core.region = g.id
    (∀ k h, fget? s.hard k = some h → h.ctxs.map (·.1) = [0, 1, 2, 3]) →
    ∃ t, exec (.partitionSwapIn g.id d) s = .next t ∧ Enters s t g .admitted pa (scratchByte home) ∧
      (∀ k h, home k → fget? s.hard k = some h → fget? t.hard k = none ∧
        coreRest (t.core k) = coreRest { h.core with halting := false, istore := (s.core k).istore, rcache := [], gated := false } ∧
        (∀ i, i < 4 → ctxStill (t.ctx (4 * k + i)) = ctxStill { fget Ctx.init h.ctxs i with stopped := false }) ∧
        ∀ o, o < 0x300000 → ¬ recTouched s pa 0x0C 1 (scratchBase k + o) → t.byte (scratchBase k + o) = s.byte (hardPhys k o)) ∧
      (∀ k, back k → ¬ home k → t.core k =
        { s.core k with region := g.id, gated := false, halting := false, rcache := [], hbTimer := 0, hbMiss := 0 }) ∧
      (∀ k, ¬ back k → t.core k = s.core k) ∧ (∀ k, ¬ home k → fget? t.hard k = fget? s.hard k) ∧
      (∀ x, ¬ home (coreOf x) → t.ctx x = s.ctx x) ∧ noCommand (sansUnits t) = noCommand (sansUnits s))

/-- R39, R127, R331 to R335: SUSPEND halts the cores of the region that REGCMD names, or, where none is resident, holds it at
once; UNSUSPEND gives it back to the scheduler; STOPMARK has its contexts stop at their next eligible explicit marks; SAVE and
RESTORE write and load the portable image; and RESUME lets parked contexts and copies go on. The model's choice: the layout of the
image beyond the rule (log 21), and readings of the region commands (log 13). -/
def Obligations.RegionCommandEvents : Prop :=
  (∀ (s : State) (r : Region), Commanded s r → liveState r.state → Alone1 s r liveState →
    (∀ x, (s.core (coreOf x)).region = r.id → Still s x) →
    (∃ k, k < 216 ∧ (s.core k).region = r.id) →
    ∃ t, exec .suspend s = .next t ∧ CommandIs t 1 (s.regF rREGCMD 15 12) ∧ { r with halting := true } ∈ t.regions ∧
      Halted (fun k => k < 216 ∧ (s.core k).region = r.id) s t ∧ (∀ a, t.byte a = s.byte a) ∧
      noCommand (sansUnits t) = noCommand (sansUnits s)) ∧
  (∀ (s : State) (r : Region) (pa : Nat), Commanded s r → liveState r.state → Alone1 s r liveState → RcbAt s r pa →
    (∀ k, k < 216 → (s.core k).region ≠ r.id) →
    ∃ t, exec .suspend s = .next t ∧ CommandIs t 0 0 ∧ Enters s t r .held pa (fun _ => False) ∧ Outside noCommand s t) ∧
  (∀ (s : State) (r : Region) (pa : Nat), Commanded s r → r.state = .held → Alone1 s r (· = .held) →
    RcbAt s r pa →
    ∃ t, exec .unsuspend s = .next t ∧ CommandIs t 0 0 ∧
      Enters s t r (if (s.keeps r).length = r.place.length then .admitted else .swapped) pa (fun _ => False) ∧
      Outside noCommand s t) ∧
  (∀ (s : State) (r : Region) (y : Nat), Commanded s r → liveState r.state → Alone1 s r liveState → Unstopped s r y →
    ∃ t, exec .stopmark s = .next t ∧ CommandIs t 1 (s.regF rREGCMD 15 12) ∧ { r with stopping := true } ∈ t.regions ∧
      (∀ a, t.byte a = s.byte a) ∧ Outside noCommand s t) ∧
  (∀ (x y : Nat) (s u : State) (b : Bundle) (g : Region), s.issues x = true → (s.ctx x).deferred = [] → (s.ctx x).ended = false →
    fetchBundle x (s.ctx x).pc (s.ctx x).jumped (s.select x) = .ok b u → b.k = true → (s.ctx x).j = 0 → (s.ctx x).slot = 0 →
    s.stopping x = true → u.ctx x = s.ctx x → u.cur.x = x → u.cur.atEnd = none → StopClear u x → Still u x →
    u.region? (u.ctx x).region = some g → g.stopping = true → Unstopped u g y → y ≠ x →
    ∃ t, exec (.stopmarkContextStop x) s = .next t ∧ (t.ctx x).stopped = true ∧ (t.ctx x).state = .ready ∧ MarkedHere s t x ∧
      Frame x (fun c => sansMark { noState c with stopped := false }) id (fun v => { v with cur := Cursor.init }) u t) ∧
  (∀ (s : State) (r : Region) (recs : List (List Byte)), Commanded s r → s.savable r = true →
    (∀ k ∈ r.place, k < 216) → r.place.Nodup → s.records r = some recs →
    let n := r.place.length
    let pa := s.regN rREGBUF
    HbmRange pa (imageLen n) →
    ∃ t, exec .save s = .next t ∧ CommandIs t 0 0 ∧ number 4 (fun i => t.byte (pa + i)) = imageLen n ∧
      number 4 (fun i => t.byte (pa + 4 + i)) = n ∧ number 4 (fun i => t.byte (pa + 8 + i)) = 4 * n ∧
      number 8 (fun i => t.byte (pa + 16 + i)) = r.rcb.toNat ∧
      (∀ i k o, r.coreList[i]? = some k → o < coreArea → t.byte (pa + 64 + i * coreArea + o) = s.byte (hardPhys k (slotOf o))) ∧
      (∀ j c o, recs.flatten[j]? = some c → o = pa + 64 + n * coreArea + j → t.byte o = c) ∧
      BytesBut (fun a => pa ≤ a ∧ a < pa + imageLen n) s t ∧ Outside noCommand s t) ∧
  (∀ (s : State) (r : Region), Commanded s r → r.state = .held → (∀ k ∈ r.place, k < 216 ∧ fget? s.hard k = none) →
    r.place.Nodup → Inv s →
    let n := r.place.length
    let pa := s.regN rREGBUF
    let rec_ := fun i => s.bytes (pa + 64 + n * coreArea + recordArea * i) recordArea
    HbmRange pa (imageLen n) → number 4 (fun i => s.byte (pa + i)) = imageLen n → number 4 (fun i => s.byte (pa + 4 + i)) = n →
    number 4 (fun i => s.byte (pa + 8 + i)) = 4 * n →
    (∀ i, i < 4 * n → ∃ c, Ctx.ofRecord r.id (rec_ i) = some c) →
    ∃ t, exec .restore s = .next t ∧ CommandIs t 0 0 ∧
      (∀ i k, r.coreList[i]? = some k →
        ∃ h, fget? t.hard k = some h ∧ h.core.region = r.id ∧
          (∀ j, j < 4 → some (fget Ctx.init h.ctxs j) = Ctx.ofRecord r.id (rec_ (4 * i + j))) ∧
          ∀ o, o < coreArea → t.byte (hardPhys k (slotOf o)) = s.byte (pa + 64 + i * coreArea + o)) ∧
      (∀ k, k ∉ r.place → fget? t.hard k = fget? s.hard k) ∧ BytesBut (slotByte (· ∈ r.place)) s t ∧
      Outside (noAdopt noCommand) s t) ∧
  (∀ (v : Word64) (s : State), bitAt v.toNat 16 = false → bitAt v.toNat 8 = false → Names v →
    let x := named v
    ((s.ctx x).state = .parked → fget? s.hard (coreOf x) = none →
      ∃ t, exec (.resumeContext v) s = .next t ∧ Goes (t.ctx x) ∧ Frame x noState id id s t) ∧
    ((s.ctx x).state ≠ .parked → ∀ h, fget? s.hard (coreOf x) = some h → (fget Ctx.init h.ctxs (x % 4)).state = .parked →
      ∃ t h', exec (.resumeContext v) s = .next t ∧ fget? t.hard (coreOf x) = some h' ∧
        (fget Ctx.init h'.ctxs (x % 4)).state = .ready ∧ h'.core = h.core ∧
        noState (fget Ctx.init h'.ctxs (x % 4)) = noState (fget Ctx.init h.ctxs (x % 4)) ∧
        Outside (fun u => { u with hard := [] }) s t)) ∧
  (∀ (v : Word64) (s : State), bitAt v.toNat 16 = false → bitAt v.toNat 8 = true → Names v →
    fget? s.hard (named v / 4) = none →
    ∃ t, exec (.resumeCopy v) s = .next t ∧
      t.core (named v / 4) = { s.core (named v / 4) with
        copies := unparked (s.core (named v / 4)).copies fun p => p.x == named v && p.cid == fld v.toNat 7 3 } ∧
      (∀ k, k ≠ named v / 4 → t.core k = s.core k) ∧ (∀ x, t.ctx x = s.ctx x) ∧ sansUnits t = sansUnits s) ∧
  (∀ (v : Word64) (s : State), bitAt v.toNat 16 = true →
    let d := fld v.toNat 20 17
    d ≤ 8 → (∀ m ∈ s.msgs, m.held = false) → (∀ q ∈ s.queue, q.held = false) → (∀ k, k / 24 = d → fget? s.hard k = none) →
    ∃ t, exec (.resumeAll v) s = .next t ∧
      (∀ x, x / 96 = d → (s.ctx x).state = .parked → Goes (t.ctx x)) ∧ (∀ x, noState (t.ctx x) = noState (s.ctx x)) ∧
      (∀ x, x / 96 ≠ d → t.ctx x = s.ctx x) ∧
      (∀ k, k / 24 = d → coreRest (t.core k) = coreRest { s.core k with copies := unparked (s.core k).copies fun _ => true }) ∧
      (∀ k, k / 24 ≠ d → t.core k = s.core k) ∧ sansUnits t = sansUnits s)

namespace Sys2Proof.Rules

open Sys2Proof.Machine Sys2Proof.Safety

/-! ### Events of the engines (R43, R99, R182 to R199, R217 to R226, R230 to R232, R238, R249, R250, R260, R262, R270) -/

/-- A value on its way that an engine sends. -/
def Sends (s t : State) (x : Nat) (isV : Bool) (reg tok : Nat) (v : VReg) : Prop :=
  ∃ a : Arrival, (t.ctx x).arrivals = (s.ctx x).arrivals ++ [a] ∧ a.tok = tok ∧ a.isV = isV ∧ a.reg = reg ∧ a.val = v ∧
    a.poison = false

/-- Strikes out the values on their way and the deferred traps. -/
def noSent (c : Ctx) : Ctx := { c with arrivals := [] }

/-- The engine takes command m, `P` holding of what it leaves; `f`, `g` and `h` strike out what it writes. -/
def MPerforms (s : State) (k : Nat) (m : MCmd) (f : Ctx → Ctx) (g : Core → Core) (h : State → State) (P : State → Prop) : Prop :=
  ∃ t, exec (.mCommandPerform k) s = .next t ∧ (t.core k).mq = (s.core k).mq.drop 1 ∧ P t ∧
    Frame m.x f (fun c => g { c with mq := [] }) h s t

/-- Cell w of a bank: 64 x row + column (R182). -/
def cell (s : State) (k b w : Nat) : BitVec 32 := fget 0 ((s.core k).bank b).cells w

/-- Strikes out the banks, the counter sets, the rings. -/
def noBanks (c : Core) : Core := { c with banks := [] }
def noSets (c : Core) : Core := { c with csets := [] }
def noRings (c : Core) : Core := { c with rings := [] }

/-- The banks but b are unchanged, and of b its owner, grants and issued format. -/
def OtherBanks (s t : State) (k b : Nat) : Prop :=
  (∀ c, c ≠ b → (t.core k).bank c = (s.core k).bank c) ∧ ((t.core k).bank b).owned = ((s.core k).bank b).owned ∧
    ((t.core k).bank b).owner = ((s.core k).bank b).owner ∧ ((t.core k).bank b).grants = ((s.core k).bank b).grants ∧
    ((t.core k).bank b).fmt = ((s.core k).bank b).fmt

/-- The counter sets but n are unchanged. -/
def OtherSets (s t : State) (k n : Nat) : Prop := ∀ c, c ≠ n → (t.core k).cset c = (s.core k).cset c

/-- The class weights of INT4 and of E2M1 (R71, R72). -/
def weights (fmt : Nat) : List Int :=
  if fmt = 1 then [1, 2, 3, 4, 5, 6, 7, 8, 9, 10, 12, 14, 15, 16, 18, 20, 21, 24, 25, 28, 30, 32, 35, 36, 40, 42, 48, 49, 56, 64]
  else if fmt = 2 then [1, 2, 3, 4, 6, 8, 9, 12, 16, 18, 24, 32, 36, 48, 64, 72, 96, 144]
  else []

/-- A counter cell of a set: 64 x row + column. -/
def counters (s : State) (k n c : Nat) : CCell := fget CCell.zero ((s.core k).cset n).cells c

/-- The sum of f over 0 to n - 1. -/
def sumTo : Nat → (Nat → Int) → Int
  | 0, _ => 0
  | n + 1, f => sumTo n f + f n

/-- How many of 0 to n - 1 meet a test. -/
def countTo : Nat → (Nat → Bool) → Nat
  | 0, _ => 0
  | n + 1, f => countTo n f + (if f n then 1 else 0)

/-- What a cell drains to (R74). -/
def drainOf (fmt : Nat) (c : CCell) : Int := sumTo (weights fmt).length fun i => (fget 0 c.cnt i).toInt * (weights fmt).getD i 0

/-- The three properties of R73 fail in a cell. -/
def failsCount (depth : Nat) (c : CCell) : Bool :=
  c.nz.toNat + c.z.toNat != depth || decide (sumTo 32 (fun i => ((fget 0 c.cnt i).toInt.natAbs : Int)) > c.nz.toNat) ||
    decide ((sumTo 32 (fun i => (fget 0 c.cnt i).toInt) - c.nz.toNat) % 2 ≠ 0)

/-- A byte of a ring, from its head on (R189). -/
def ringByte (s : State) (k : Nat) (r : Ring) (o : Nat) : Byte := s.byte (scratchBase k + r.base + (r.head + o) % r.size)

/-- A 4-bit element of a ring, the low half of a byte first (R58). -/
def ringNibble (s : State) (k : Nat) (r : Ring) (e : Nat) : Nat := (ringByte s k r (e / 2)).toNat / 16 ^ (e % 2) % 16

/-- A ring after a pop of t bytes (R189). -/
def poppedBy (r : Ring) (t : Nat) (keep : Bool) : Ring :=
  if keep then r else { r with head := (r.head + t) % r.size, fill := r.fill - t }

/-- The maps of a core are in canonical form. -/
structure CoreForm (c : Core) (b n : Nat) : Prop where
  cells : fwf 0 (c.bank b).cells = true
  sets : fwf CCell.zero (c.cset n).cells = true
  counts : ∀ e ∈ (c.cset n).cells, fwf 0 e.2.cnt = true

/-- The tree engine performs the first command of its queue. -/
def TPerforms (s : State) (k : Nat) (m : TCmd) (f : Ctx → Ctx) (P : State → Prop) : Prop :=
  ∃ t, exec (.tCommandPerform k) s = .next t ∧ (t.core k).tq = (s.core k).tq.drop 1 ∧ P t ∧
    Frame m.x f (fun c => { c with tq := [] }) id s t

/-- Strikes out the tree-engine state. -/
def noTree (c : Ctx) : Ctx := { c with tree := Tree.init }

/-- The status word of the tree engine (R250). -/
def treeStatus (t : Tree) : Nat :=
  (if t.cont then 1 else 0) + (if t.lpr then 2 else 0) + (if t.nres then 4 else 0) + (if t.dstop then 8 else 0) + 256 * t.mode +
    if t.evn = 0 then 0 else 2048

/-- A copy command is active, and the only one of its number. -/
def Active (s : State) (k id : Nat) (p : CopyCmd) : Prop :=
  p ∈ (s.core k).copies ∧ p.id = id ∧ ∀ q ∈ (s.core k).copies, q.id = id → q = p

/-- Strikes out the copies. -/
def noCopies (c : Core) : Core := { c with copies := [] }

/-- What a copy-unit event strikes out of a context. -/
def noBits (c : Ctx) : Ctx := { c with bitmaps := [] }

/-- The commands other than id are unchanged, in their order. -/
def OtherCopies (s t : State) (k id : Nat) : Prop :=
  (t.core k).copies.filter (·.id != id) = (s.core k).copies.filter (·.id != id)

/-- A record of one row in scratchpad. -/
def RowRecord (v : Shape) : Prop :=
  v.space = 1 ∧ v.rank = 1 ∧ v.base + v.span ≤ 0x300000

/-! ### Products and counts (R71 to R73, R81, R190 to R192) -/

/-- Element e of n bytes of a ring, from its head on. -/
def ringElem (s : State) (k : Nat) (r : Ring) (n e : Nat) : Nat := number n fun i => ringByte s k r (n * e + i)

/-- The element formats of an MMA into FP32, their bytes, and how many products are rounded at once (R81, R190). -/
def floatFmt (fmt : Nat) : Option (Fmt × Nat × Nat) :=
  if fmt = 0 then some (bf16, 2, 4) else if fmt = 1 then some (fp16, 2, 4) else if fmt = 2 then some (e4m3, 1, 8)
  else if fmt = 3 then some (e5m2, 1, 8) else none

/-- The exact products of elements `from_` to `from_ + n - 1`. -/
def products (f : Fmt) (a b : Nat → Nat) (from_ n : Nat) : List FVal :=
  (List.range n).map fun q => (f.val (a (from_ + q))).times (f.val (b (from_ + q)))

/-- A cell of an FP32 MMA after g groups of n products each: a group's exact sum with the cell is rounded once (R191). -/
def floatCell (f : Fmt) (n c : Nat) (a b : Nat → Nat) : Nat → Nat
  | 0 => c
  | g + 1 => toFp32 ((products f a b (g * n) n).foldl FVal.plus (fp32.val (floatCell f n c a b g)))

/-- The exact sum of products, as a partial sum. -/
def exactSum (l : List FVal) : PCell :=
  match l with
  | [] => .fin 0 0
  | p :: ps => PCell.ofVal (ps.foldl FVal.plus p)

/-- P x 2^(Ea + Eb - 260 - 2(w - 2)) for two blocks, a NaN where either is one (R64, R191, R203). -/
def blockProduct (f x y : Nat) : PCell :=
  if sxE x = 255 ∨ sxE y = 255 then .nan else .fin (sxDot f x y) ((sxE x : Int) + sxE y - 260 - 2 * ((sxW f : Int) - 2))

/-- A retiring operation leaves the rings popped of ta and tb bytes, every byte of memory as it was, and the array free. -/
structure Retires (s t : State) (k ga gb ta tb : Nat) (ka kb : Bool) (ra rb : Ring) : Prop where
  free : (t.core k).mrun = none
  first : fget? (t.core k).rings ga = some (poppedBy ra ta ka)
  second : fget? (t.core k).rings gb = some (poppedBy rb tb kb)
  others : ∀ g, g ≠ ga → g ≠ gb → fget? (t.core k).rings g = fget? (s.core k).rings g
  bytes : ∀ a, t.byte a = s.byte a

/-- The port entry `id` of a context has its data, and the others are as they were (R201). -/
def Filled (s t : State) (x id : Nat) (cols : Nat) (cell : Nat → Nat → PCell) : Prop :=
  (t.ctx x).ports.map (fun e => { e with data := none }) = (s.ctx x).ports.map (fun e => { e with data := none }) ∧
  ∀ e ∈ (t.ctx x).ports, (e.id ≠ id → e ∈ (s.ctx x).ports) ∧
    (e.id = id → ∃ d, e.data = some d ∧ d.cols = cols ∧ d.poison = 0 ∧
      ∀ i j, i < 32 → j < cols → d.cells[cols * i + j]? = some (cell i j))

/-- The value of a 4-bit element: INT4, or E2M1 in units of 0.5, whose escape code has none (R71 to R74). -/
def codeValue (fmt n : Nat) : Int :=
  if fmt = 1 then (if n < 8 then (n : Int) else (n : Int) - 16)
  else if n = 8 then 0
  else (if n < 8 then 1 else -1) * (([0, 1, 2, 3, 4, 6, 8, 12] : List Int).getD (n % 8) 0)

/-- The sign of a value. -/
def signOf (v : Int) : Int := if 0 < v then 1 else if v < 0 then -1 else 0

/-- The matrix engine takes its commands in order. -/
def MatrixPerforms : Prop :=
  (∀ (k : Nat) (s : State) (m : MCmd), s.mReady k = some m → coreOf m.x = k → s.arrayErr = [] →
    (∀ b fmt, m.op = .clear b fmt →
      MPerforms s k m id noBanks id fun t =>
        (∀ w, w < 2048 → cell t k b w = if fmt = 2 ∧ w % 2 = 1 then 0x80000000 else 0) ∧ ((t.core k).bank b).poison = 0 ∧
          ((t.core k).bank b).wv = true ∧ (∀ r, fget 0 ((t.core k).bank b).wit r = 0) ∧ OtherBanks s t k b) ∧
    (∀ b half tok vd, m.op = .read b half tok vd → fwf 0 ((s.core k).bank b).cells = true →
      MPerforms s k m noSent id id fun t =>
        Sends s t m.x true vd tok (BitVec.ofNat 1024 (number 128 fun i => BitVec.ofNat 8 ((cell s k b (32 * half + i / 4)).toNat / 256 ^ (i % 4))))) ∧
    (∀ b half data, m.op = .write b half data →
      MPerforms s k m id noBanks id fun t =>
        (∀ w, cell t k b w = if 32 * half ≤ w ∧ w < 32 * half + 32 then
          BitVec.ofNat 32 (data.toNat / 2 ^ (32 * (w - 32 * half))) else cell s k b w) ∧
        ((t.core k).bank b).wv = false ∧ OtherBanks s t k b) ∧
    (∀ n, m.op = .nclr n →
      MPerforms s k m id noSets id fun t =>
        ((t.core k).cset n).cells = [] ∧ ((t.core k).cset n).pdepth = 0 ∧ ((t.core k).cset n).poison = 0 ∧
          ((t.core k).cset n).owned = ((s.core k).cset n).owned ∧ OtherSets s t k n) ∧
    (∀ n addr, m.op = .ndump n addr → CoreForm (s.core k) 0 n →
      let base := scratchBase k + addr
      MPerforms s k m id id (fun u => { u with mem := [], poison := [], soft := [] }) fun t =>
        number 4 (fun i => t.byte (base + i)) = ((s.core k).cset n).pdepth % 2 ^ 32 ∧
        (∀ c i, c < 2048 → i < 32 → (number 3 fun j => t.byte (base + 64 + 128 * c + 3 * i + j) : Int) =
          (fget 0 (counters s k n c).cnt i).toInt % 2 ^ 24) ∧
        (∀ c, c < 2048 → number 3 (fun j => t.byte (base + 64 + 128 * c + 96 + j)) = (counters s k n c).nz.toNat ∧
          number 3 (fun j => t.byte (base + 64 + 128 * c + 99 + j)) = (counters s k n c).z.toNat) ∧
        BytesBut (fun a => base ≤ a ∧ a < base + 262208) s t) ∧
    (∀ b n clr rel, m.op = .ndrain b n clr rel → CoreForm (s.core k) b n →
      MPerforms s k m id (noBanks ∘ noSets) id fun t =>
        (∀ w, w < 2048 → cell t k b w =
          BitVec.ofInt 32 ((cell s k b w).toInt + drainOf ((s.core k).cset n).pfmt (counters s k n w))) ∧
        ((t.core k).bank b).wv = false ∧ (clr = true → ((t.core k).cset n).cells = [] ∧ ((t.core k).cset n).pdepth = 0) ∧
        (clr = false → (t.core k).cset n = (s.core k).cset n) ∧ OtherBanks s t k b ∧ OtherSets s t k n) ∧
    (∀ n tok sd, m.op = .nchk n tok sd → CoreForm (s.core k) 0 n →
      let bad := countTo 2048 fun c => failsCount ((s.core k).cset n).pdepth (counters s k n c)
      bad = 0 → MPerforms s k m noSent id id fun t => Sends s t m.x false sd tok 0) ∧
    (∀ b mode e, m.op = .xcvt b mode e → mode = 0 → fwf 0 ((s.core k).bank b).cells = true →
      MPerforms s k m id noBanks id fun t =>
        (∀ w, w < 2048 → cell t k b w =
          BitVec.ofNat 32 (toFp32 (.fin (decide ((cell s k b w).toInt < 0)) (cell s k b w).toInt.natAbs e))) ∧
        ((t.core k).bank b).wv = false ∧ OtherBanks s t k b) ∧
    (m.op.occupies = true → m.op.short (s.core k) = none →
      MPerforms s k m id (fun c => { c with mrun := none }) id fun t => (t.core k).mrun = some m) ∧
    (∀ fmt b bfmt ga gb ka kb wit kk entry, m.op = .mma fmt b bfmt ga gb ka kb wit kk entry → ga ≠ gb →
      ((s.core k).ringGen ga).fill < (mmaBytes fmt bfmt kk).1 → (s.ctx m.x).state ≠ .idle →
      MPerforms s k m (fun c => { noState c with deferred := [] }) id id fun t =>
        (t.core k).mrun = none ∧ (t.ctx m.x).deferred =
          (s.ctx m.x).deferred ++ [{ cause := 7, info := ofN (((s.core k).ringGen ga).g + 2 ^ 9), slot := m.slot, tok := 0 }]))

/-- An INT8 MMA and an MCNT retire. -/
def MmaRetires : Prop :=
  (∀ (k : Nat) (s : State) (m : MCmd) (ra rb : Ring), (s.core k).mrun = some m → coreOf m.x = k → s.poison = [] →
    s.soft = [] → s.arrayErr = [] →
    (∀ b ga gb ka kb wit kk entry, m.op = .mma 4 b 1 ga gb ka kb wit kk entry → ga ≠ gb → fget? (s.core k).rings ga = some ra →
      fget? (s.core k).rings gb = some rb → 0 < kk → 32 * kk ≤ ra.size → 64 * kk ≤ rb.size → fwf 0 ((s.core k).bank b).cells = true →
      ∃ t, exec (.mmaRetirement k) s = .next t ∧ (t.core k).mrun = none ∧
        (∀ i j, i < 32 → j < 64 → cell t k b (64 * i + j) = BitVec.ofInt 32 ((cell s k b (64 * i + j)).toInt +
          sumTo kk fun p => (ringByte s k ra (i * kk + p)).toInt * (ringByte s k rb (64 * p + j)).toInt)) ∧
        OtherBanks s t k b ∧ fget? (t.core k).rings ga = some (poppedBy ra (32 * kk) ka) ∧
        fget? (t.core k).rings gb = some (poppedBy rb (64 * kk) kb) ∧
        (∀ g, g ≠ ga → g ≠ gb → fget? (t.core k).rings g = fget? (s.core k).rings g) ∧ (∀ a, t.byte a = s.byte a) ∧
        (wit = false → Frame m.x id (fun c => noBanks (noRings { c with mrun := none })) id s t)) ∧
    (∀ n ga gb ka kb kk, m.op = .mcnt 1 n ga gb ka kb kk → ga ≠ gb → fget? (s.core k).rings ga = some ra →
      fget? (s.core k).rings gb = some rb → 0 < kk → 16 * kk ≤ ra.size → 32 * kk ≤ rb.size →
      fwf CCell.zero ((s.core k).cset n).cells = true →
      ∃ t, exec (.mmaRetirement k) s = .next t ∧ (t.core k).mrun = none ∧
        ((t.core k).cset n).pdepth = ((s.core k).cset n).pdepth + kk ∧ ((t.core k).cset n).pfmt = 1 ∧
        (∀ i j, i < 32 → j < 64 →
          let zeros := countTo kk fun p => ringNibble s k ra (i * kk + p) == 0 || ringNibble s k rb (64 * p + j) == 0
          (counters t k n (64 * i + j)).z = (counters s k n (64 * i + j)).z + BitVec.ofNat 20 zeros ∧
          (counters t k n (64 * i + j)).nz = (counters s k n (64 * i + j)).nz + BitVec.ofNat 20 (kk - zeros)) ∧
        OtherSets s t k n ∧ fget? (t.core k).rings ga = some (poppedBy ra (16 * kk) ka) ∧
        fget? (t.core k).rings gb = some (poppedBy rb (32 * kk) kb) ∧
        Frame m.x id (fun c => noSets (noRings { c with mrun := none })) id s t))

/-- The products of the other formats, the witness column of an INT8 MMA, and the class counters. -/
def ProductsRetire : Prop :=
  ∀ (k : Nat) (s : State) (m : MCmd) (ra rb : Ring) (ga gb : Nat), (s.core k).mrun = some m → coreOf m.x = k → s.poison = [] →
    s.soft = [] → s.arrayErr = [] → ga ≠ gb → fget? (s.core k).rings ga = some ra → fget? (s.core k).rings gb = some rb →
    (∀ fmt f n g b ka kb kk entry, m.op = .mma fmt b 0 ga gb ka kb false kk entry → floatFmt fmt = some (f, n, g) →
      0 < kk → kk % 16 = 0 → 32 * n * kk ≤ ra.size → 64 * n * kk ≤ rb.size →
      ∃ t, exec (.mmaRetirement k) s = .next t ∧ Retires s t k ga gb (32 * n * kk) (64 * n * kk) ka kb ra rb ∧
        (∀ i j, i < 32 → j < 64 → cell t k b (64 * i + j) = BitVec.ofNat 32 (floatCell f g (cell s k b (64 * i + j)).toNat
          (fun p => ringElem s k ra n (i * kk + p)) (fun p => ringElem s k rb n (64 * p + j)) (kk / g))) ∧
        ((t.core k).bank b).wv = false ∧ OtherBanks s t k b ∧
        Frame m.x id (fun c => noBanks (noRings { c with mrun := none })) id s t) ∧
    (∀ f b ka kb wit entry, m.op = .mma (5 + f) b 0 ga gb ka kb wit 16 entry → f < 3 →
      let n := 2 + 2 * (if f = 0 then 8 else if f = 1 then 5 else 3)
      32 * n ≤ ra.size → 64 * n ≤ rb.size →
      ∃ t, exec (.mmaRetirement k) s = .next t ∧ Retires s t k ga gb (32 * n) (64 * n) ka kb ra rb ∧
        Filled s t m.x entry 64 (fun i j => blockProduct f (ringElem s k ra n i) (ringElem s k rb n j)) ∧
        (∀ c, (t.core k).bank c = (s.core k).bank c)) ∧
    (∀ fmt f b ka kb wit entry, m.op = .mma fmt b 2 ga gb ka kb wit 16 entry → floatFmt fmt = some (f, 2, 4) →
      1024 ≤ ra.size → 1024 ≤ rb.size →
      ∃ t, exec (.mmaRetirement k) s = .next t ∧ Retires s t k ga gb 1024 1024 ka kb ra rb ∧
        Filled s t m.x entry 32 (fun i j =>
          exactSum (products f (fun p => ringElem s k ra 2 (16 * i + p)) (fun p => ringElem s k rb 2 (32 * p + j)) 0 16)) ∧
        (∀ c, (t.core k).bank c = (s.core k).bank c)) ∧
    (∀ b ka kb kk entry, m.op = .mma 4 b 1 ga gb ka kb true kk entry → 0 < kk → 32 * kk ≤ ra.size → 64 * kk ≤ rb.size →
      ∃ t, exec (.mmaRetirement k) s = .next t ∧ ((t.core k).bank b).wv = ((s.core k).bank b).wv ∧
        ∀ i, i < 32 → fget 0 ((t.core k).bank b).wit i = BitVec.ofInt 32 ((fget 0 ((s.core k).bank b).wit i).toInt +
          sumTo kk fun p => (ringByte s k ra (i * kk + p)).toInt * sumTo 64 fun j => (ringByte s k rb (64 * p + j)).toInt)) ∧
    (∀ fmt n ka kb kk, m.op = .mcnt fmt n ga gb ka kb kk → fmt = 1 ∨ fmt = 2 → 0 < kk → kk % 16 = 0 → 16 * kk ≤ ra.size →
      32 * kk ≤ rb.size → fwf CCell.zero ((s.core k).cset n).cells = true →
      (∀ e ∈ ((s.core k).cset n).cells, fwf 0 e.2.cnt = true) →
      ∃ t, exec (.mmaRetirement k) s = .next t ∧ Retires s t k ga gb (16 * kk) (32 * kk) ka kb ra rb ∧
        ((t.core k).cset n).pdepth = ((s.core k).cset n).pdepth + kk ∧ ((t.core k).cset n).pfmt = fmt ∧ OtherSets s t k n ∧
        (∀ i j c, i < 32 → j < 64 → c < (weights fmt).length →
          let v := fun p => codeValue fmt (ringNibble s k ra (i * kk + p)) * codeValue fmt (ringNibble s k rb (64 * p + j))
          let zeros := countTo kk fun p => v p == 0
          fget 0 (counters t k n (64 * i + j)).cnt c = fget 0 (counters s k n (64 * i + j)).cnt c +
            BitVec.ofInt 20 (sumTo kk fun p => if ((v p).natAbs : Int) = (weights fmt).getD c 0 then signOf (v p) else 0) ∧
          (counters t k n (64 * i + j)).z = (counters s k n (64 * i + j)).z + BitVec.ofNat 20 zeros ∧
          (counters t k n (64 * i + j)).nz = (counters s k n (64 * i + j)).nz + BitVec.ofNat 20 (kk - zeros)) ∧
        ((fmt = 1 ∨ ∀ e, e < 64 * kk → ringNibble s k rb e ≠ 8) →
          Frame m.x id (fun c => noSets (noRings { c with mrun := none })) id s t) ∧
        (∀ i j p, fmt = 2 → i < 32 → j < 64 → p < kk → ringNibble s k ra (i * kk + p) ≠ 8 → ringNibble s k rb (64 * p + j) = 8 →
          (t.ctx m.x).live.sw = (s.ctx m.x).live.sw ||| swBESC))

/-- The tree engine performs the commands that form no address. -/
def TreePerforms : Prop :=
  (∀ (k : Nat) (s : State) (m : TCmd) (rest : List TCmd), (s.core k).halting = false → (s.core k).tq = m :: rest → coreOf m.x = k →
    (∀ mode vb rb, m.op = .tmode mode vb rb → TPerforms s k m noTree fun t =>
      (t.ctx m.x).tree = { (s.ctx m.x).tree with mode := mode, vb := vb, rb := rb, nodes := 0, masked := 0 }) ∧
    (∀ evb evn, m.op = .tevid evb evn → TPerforms s k m noTree fun t =>
      (t.ctx m.x).tree = { (s.ctx m.x).tree with evb := evb, evn := evn }) ∧
    (∀ all w, m.op = .twclr all w → TPerforms s k m noTree fun t =>
      { (t.ctx m.x).tree with wins := [] } = { (s.ctx m.x).tree with wins := [] } ∧
      ∀ v, fget? (t.ctx m.x).tree.wins v = if all = true ∨ v = w then none else fget? (s.ctx m.x).tree.wins v) ∧
    (∀ tok sd sel, m.op = .tstat tok sd sel → sel < 3 → TPerforms s k m (noTree ∘ noSent) fun t =>
      Sends s t m.x false sd tok (BitVec.ofNat 1024
        (if sel = 0 then treeStatus (s.ctx m.x).tree else if sel = 1 then (s.ctx m.x).tree.nodes.toNat
         else (s.ctx m.x).tree.masked.toNat)) ∧
      (t.ctx m.x).tree = if sel = 0 then { (s.ctx m.x).tree with dstop := false, nres := false, lpr := false }
        else (s.ctx m.x).tree))

/-- The fibre unit delivers. -/
def FibrePerforms : Prop :=
  (∀ (k : Nat) (s : State) (c : FCmd) (rest : List FCmd), (s.core k).fq = c :: rest → coreOf c.x = k →
    (∀ tok vd val, c.op = .fcrd tok vd val →
      ∃ t, exec (.fibreQueuePerform k) s = .next t ∧ (t.core k).fq = rest ∧ Sends s t c.x true vd tok val ∧
        Frame c.x noSent (fun k => { k with fq := [] }) (fun u => { u with cur := Cursor.init }) s t) ∧
    (∀ tok sd f, c.op = .fstat tok sd f 3 →
      ∃ t, exec (.fibreQueuePerform k) s = .next t ∧ (t.core k).fq = rest ∧
        Sends s t c.x false sd tok (BitVec.ofNat 1024
          (if ((s.ctx c.x).live.stream f).state = 0 then 0 else ((s.ctx c.x).live.stream f).count.toNat)) ∧
        Frame c.x noSent (fun k => { k with fq := [] }) (fun u => { u with cur := Cursor.init }) s t))

/-! ### Records and slots of the tree engine (R234 to R249) -/

/-- n bytes of the scratchpad of core k from a core-local address on. -/
def padN (s : State) (k a n : Nat) : Nat := number n fun i => s.byte (scratchBase k + a + i)

/-- The words of a context's own scratchpad are sound, and nothing that the context issued before is outstanding (R99). -/
structure TreeFree (s : State) (k : Nat) (m : TCmd) : Prop where
  copies : ∀ p ∈ (s.core k).copies, p.x ≠ m.x
  matrix : ∀ q ∈ (s.core k).mq ++ (s.core k).mrun.toList, q.x ≠ m.x
  sound : Sound s (scratchBase k) 0x300000

/-- A whole-node record of one node at `a` (R234): a sum (kind 1), a product (2) or a leaf (3), node x, `n` list entries, and a
leaf's variable. -/
structure OneNode (s : State) (k a kind x n var : Nat) : Prop where
  place : a + 0x90 + 8 * n ≤ 0x300000
  range : 0 < n ∧ x < 2 ^ 32 ∧ var < 2 ^ 24
  kinds : kind = 3 ∧ n ≤ 256 ∨ (kind = 1 ∨ kind = 2) ∧ n ≤ 32768 ∧ var = 0
  header : padN s k a 0x90 = kind + 2 ^ 8 + 2 ^ 32 * n + 2 ^ 128 * (x + 2 ^ 32 * (if kind = 3 then var + 2 ^ 24 * (n % 256) else n))

/-- Word i of the lists of the record at a. -/
def listWord (s : State) (k a i : Nat) : Nat := padN s k (a + 0x90 + 4 * i) 4

/-- The address of a field of node x's slot, which lies in the scratchpad (R236). -/
def nodeSlot (t : Tree) (x off : Nat) : Nat := t.vb.toNat + 32 * x + off
def SlotIn (t : Tree) (x : Nat) : Prop := t.vb.toNat + 32 * x + 32 ≤ 0x300000

/-- VAL of node x. -/
def nodeVal (s : State) (k : Nat) (t : Tree) (x : Nat) : Nat := padN s k (nodeSlot t x 0) 8

/-- Term i of a sum of n children at a: weight times value, if it is in range (R243). -/
def termOf (s : State) (k : Nat) (t : Tree) (a n i : Nat) : Option Nat :=
  lpMul (lp32To (listWord s k a (n + i))) (nodeVal s k t (listWord s k a i))

/-- ts are the terms of a sum, all in range. -/
def Terms (s : State) (k : Nat) (t : Tree) (a n : Nat) (ts : List Nat) : Prop :=
  ts.length = n ∧ ∀ i, i < n → ts[i]? = termOf s k t a n i

/-- Entry i is the first of the largest of a list (R242, R243). -/
def FirstMax (ts : List Nat) (i : Nat) : Prop :=
  i < ts.length ∧ (∀ j, j < ts.length → lpCmp (ts.getD j 0) (ts.getD i 0) ≤ 0) ∧
    ∀ j, j < i → lpCmp (ts.getD j 0) (ts.getD i 0) < 0

/-- The evidence entry of a variable (R237). -/
def evidence (s : State) (k : Nat) (t : Tree) (var : Nat) : Nat := padN s k (t.evb.toNat + 2 * var) 2

/-- The tree engine performs m, which writes memory as `P` says and changes the context as `f` strikes out. -/
def TWrites (s : State) (k : Nat) (m : TCmd) (f : Ctx → Ctx) (but : Nat → Prop) (P : State → Prop) : Prop :=
  ∃ t, exec (.tCommandPerform k) s = .next t ∧ (t.core k).tq = (s.core k).tq.drop 1 ∧ P t ∧
    BytesBut (fun a => ∃ o, but o ∧ a = scratchBase k + o) s t ∧ Frame m.x f (fun c => { c with tq := [] }) noMem s t

/-- TFWD gives node x its VAL, AUX and TAG, and POS names the record (R243). -/
def TGives (s : State) (k : Nat) (m : TCmd) (a x val aux tag masked : Nat) : Prop :=
  let e := (s.ctx m.x).tree
  TWrites s k m noTree (fun o => nodeSlot e x 0 ≤ o ∧ o < nodeSlot e x 32 ∧ ¬ (nodeSlot e x 8 ≤ o ∧ o < nodeSlot e x 16)) fun t =>
    padN t k (nodeSlot e x 0) 8 = val ∧ padN t k (nodeSlot e x 16) 8 = aux ∧ padN t k (nodeSlot e x 24) 4 = tag ∧
    padN t k (nodeSlot e x 28) 4 = (a - e.rb.toNat) / 64 ∧
    (t.ctx m.x).tree = { e with nodes := e.nodes + 1, masked := e.masked + ofN masked, nres := e.nres || val == lpN }

/-- Whole nodes of the forward pass (R242, R243). -/
def ForwardPass : Prop :=
  ∀ (k : Nat) (s : State) (m : TCmd) (rest : List TCmd) (rec : Word64) (kind x n var w : Nat), (s.core k).halting = false →
    (s.core k).tq = m :: rest → coreOf m.x = k → TreeFree s k m → m.op = .tfwd rec 0 w →
    let e := (s.ctx m.x).tree
    let a := rec.toNat
    OneNode s k a kind x n var → SlotIn e x → e.rb.toNat ≤ a → (a - e.rb.toNat) / 64 < 2 ^ 28 →
    (kind ≠ 3 → ∀ i, i < n → SlotIn e (listWord s k a i)) →
    (kind = 1 → ∀ ts, Terms s k e a n ts →
      (e.mode ≠ 3 → ∀ v, lpSum ts = some v → TGives s k m a x v lpZero 0 0) ∧
      (e.mode = 3 → (∀ v ∈ ts, lpIsN v = false) → ∀ i, FirstMax ts i → TGives s k m a x (ts.getD i 0) lpZero i 0)) ∧
    (kind = 2 → ∀ v zc pnz,
      lpProd ((List.range n).map fun i => nodeVal s k e (listWord s k a i)) = some (v, zc, pnz) → TGives s k m a x v pnz zc 0) ∧
    (kind = 3 → var < e.evn.toNat → e.evb.toNat + 2 * var + 2 ≤ 0x300000 →
      let v := evidence s k e var
      (v < 2 ^ 15 → v % 256 < n → TGives s k m a x (lp32To (listWord s k a (v % 256))) lpZero (v % 256) 0) ∧
      (v < 2 ^ 15 → n ≤ v % 256 → TGives s k m a x lpN lpZero (v % 256) 0) ∧
      (2 ^ 15 ≤ v → e.mode ≠ 3 → TGives s k m a x lpOne lpZero 0xFFFFFFFF (if e.mode = 0 then 1 else 0)) ∧
      (2 ^ 15 ≤ v → e.mode = 3 →
        let ts := (List.range n).map fun i => lp32To (listWord s k a i)
        (∀ u ∈ ts, lpIsN u = false) → ∀ i, FirstMax ts i → TGives s k m a x (ts.getD i 0) lpZero i 0))

/-- What node x of the record at a gives the DER of its child i (R246). -/
def contribution (s : State) (k : Nat) (t : Tree) (a kind x n i : Nat) : Option Nat :=
  let d := padN s k (nodeSlot t x 8) 8
  let tag := padN s k (nodeSlot t x 24) 4
  let v := nodeVal s k t (listWord s k a i)
  if kind = 1 then (if t.mode = 3 ∧ i ≠ tag then some lpZero else lpMul d (lp32To (listWord s k a (n + i))))
  else if tag = 0 then (lpDiv (nodeVal s k t x) v).bind (lpMul d)
  else if tag = 1 ∧ v = lpZero then lpMul d (padN s k (nodeSlot t x 16) 8)
  else some lpZero

/-- Whole nodes of the reverse pass, whose children are distinct (R246). -/
def ReversePass : Prop :=
  ∀ (k : Nat) (s : State) (m : TCmd) (rest : List TCmd) (rec : Word64) (kind x n var : Nat), (s.core k).halting = false →
    (s.core k).tq = m :: rest → coreOf m.x = k → TreeFree s k m → m.op = .trev rec →
    let e := (s.ctx m.x).tree
    let a := rec.toNat
    OneNode s k a kind x n var → SlotIn e x →
    (kind = 3 → TWrites s k m id (fun _ => False) fun _ => True) ∧
    (kind ≠ 3 → (∀ i, i < n → SlotIn e (listWord s k a i)) → (∀ i j, i < n → j < n → listWord s k a i = listWord s k a j → i = j) →
      ∀ g v : Nat → Nat, (∀ i, i < n → contribution s k e a kind x n i = some (g i)) →
      let der := fun (u : State) (i : Nat) => padN u k (nodeSlot e (listWord s k a i) 8) 8
      (∀ i, i < n → if g i = lpZero then v i = der s i else lpSum [der s i, g i] = some (v i)) →
      TWrites s k m noTree (fun o => ∃ i, i < n ∧ nodeSlot e (listWord s k a i) 8 ≤ o ∧ o < nodeSlot e (listWord s k a i) 16) fun t =>
        (∀ i, i < n → der t i = v i) ∧ { (t.ctx m.x).tree with nres := false } = { e with nres := false })

/-- TRATIO (R247). -/
def RatioPerforms : Prop :=
  ∀ (k : Nat) (s : State) (m : TCmd) (rest : List TCmd) (c a b : Word64), (s.core k).halting = false →
    (s.core k).tq = m :: rest → coreOf m.x = k → TreeFree s k m → m.op = .tratio c a b →
    c.toNat + 8 ≤ 0x300000 → a.toNat + 8 ≤ 0x300000 → b.toNat + 8 ≤ 0x300000 →
    let e := (s.ctx m.x).tree
    let num := padN s k a.toNat 8
    let den := padN s k b.toNat 8
    let but := fun o => c.toNat ≤ o ∧ o < c.toNat + 8
    (den = lpZero → TWrites s k m (fun c => noTree (noMark { c with live := { c.live with sw := 0 } })) but fun t =>
      padN t k c.toNat 8 = lpN ∧ (t.ctx m.x).live.sw = (s.ctx m.x).live.sw ||| swLPZ ∧ (t.ctx m.x).tree = { e with nres := true }) ∧
    (den ≠ lpZero → ∀ v, lpDiv num den = some v → TWrites s k m noTree but fun t =>
      padN t k c.toNat 8 = v ∧ (t.ctx m.x).tree = { e with nres := e.nres || v == lpN }) ∧
    (den ≠ lpZero → lpDiv num den = none → (s.ctx m.x).state ≠ .idle →
      TWrites s k m (fun c => noTree { noState c with deferred := [] }) but fun t =>
        padN t k c.toNat 8 = lpN ∧ (t.ctx m.x).tree = { e with nres := true, lpr := true } ∧
        (t.ctx m.x).deferred = (s.ctx m.x).deferred ++ [{ cause := 9, info := 0, slot := 8, tok := 0 }])

/-- The bytes of a descent stack that a walk writes (R248). -/
def stackBytes (p o : Nat) : Prop := p + 4 = o ∨ (p + 12 ≤ o ∧ o < p + 32) ∨ (p + 40 ≤ o ∧ o < p + 48) ∨ (p + 64 ≤ o ∧ o < p + 68)

/-- The running sum of the first n terms (R248). -/
def lpSumsTo (ts : List Nat) : Nat → Option Nat
  | 0 => some lpZero
  | n + 1 => (lpSumsTo ts n).bind fun s => lpSum [s, ts.getD n 0]

/-- The choice of R248 among terms by the target: the first at which the running sum passes it. -/
def ChosenBy (target : Nat) (ts : List Nat) (i : Nat) : Prop :=
  i < ts.length ∧ (∃ u, lpSumsTo ts (i + 1) = some u ∧ lpCmp target u < 0) ∧
    ∀ j, j < i → ∃ u, lpSumsTo ts (j + 1) = some u ∧ 0 ≤ lpCmp target u

/-- A walk from a leaf ends with it (R248, R249): OUT takes the observed value, TARGM's TAG, or TSAMP's draw. -/
def WalkPerforms : Prop :=
  ∀ (k : Nat) (s : State) (m : TCmd) (rest : List TCmd) (samp : Bool) (stack : Word64) (key : Option Word64), (s.core k).halting = false →
    (s.core k).tq = m :: rest → coreOf m.x = k → TreeFree s k m → m.op = .walk samp stack key →
    let p := stack.toNat
    let e := (s.ctx m.x).tree
    p + 0x44 ≤ 0x300000 →
    (2 ≤ padN s k (p + 4) 1 → TWrites s k m noTree (fun _ => False) fun t => (t.ctx m.x).tree = { e with cont := false }) ∧
    (∀ (x a n var : Nat) (out : Word64), padN s k (p + 4) 1 = 0 → padN s k p 4 = x →
      padN s k (p + 0x20) 8 = out.toNat → OneNode s k a 3 x n var → SlotIn e x → e.rb.toNat ≤ a → (a - e.rb.toNat) % 64 = 0 →
      padN s k (nodeSlot e x 28) 4 = (a - e.rb.toNat) / 64 → (a - e.rb.toNat) / 64 < 2 ^ 28 →
      var < e.evn.toNat → e.evb.toNat + 2 * var + 2 ≤ 0x300000 → out.toNat + 2 * var + 2 ≤ 0x300000 →
      (p + 0x44 ≤ out.toNat + 2 * var ∨ out.toNat + 2 * var + 2 ≤ p) →
      (∀ o, stackBytes p o → ¬ (a ≤ o ∧ o < a + 0x90 + 4 * n) ∧ ¬ (nodeSlot e x 0 ≤ o ∧ o < nodeSlot e x 32) ∧
        ¬ (e.evb.toNat + 2 * var ≤ o ∧ o < e.evb.toNat + 2 * var + 2)) →
      let ev := evidence s k e var
      let seed := if samp then key.getD (ofN (padN s k (p + 0x10) 8)) else ofN (padN s k (p + 0x10) 8)
      let ends := fun (v draws : Nat) =>
        TWrites s k m noTree (fun o => stackBytes p o ∨ out.toNat + 2 * var ≤ o ∧ o < out.toNat + 2 * var + 2) fun t =>
          padN t k (out.toNat + 2 * var) 2 = v ∧ padN t k (p + 4) 1 = 2 ∧ padN t k (p + 0xC) 4 = 0 ∧
          padN t k (p + 0x10) 8 = seed.toNat ∧ padN t k (p + 0x18) 8 = draws ∧ padN t k (p + 0x28) 8 = 1 ∧
          (t.ctx m.x).tree = { e with cont := false }
      (ev < 2 ^ 15 → ends (ev % 256) 0) ∧
      (2 ^ 15 ≤ ev → samp = false → ends (padN s k (nodeSlot e x 24) 4 % 256) 0) ∧
      (2 ^ 15 ≤ ev → samp = true →
        let ts := (List.range n).map fun i => lp32To (listWord s k a i)
        let z := (mix64 (seed + 0x9E3779B97F4A7C15)).toNat
        (∀ u ∈ ts, lpIsN u = false) → ∀ u total target i, lpOfMag false (z / 2 ^ 40) (-24) = some u → lpSum ts = some total →
          lpIsN total = false → lpMul u total = some target → ChosenBy target ts i → ends i 1))

end Sys2Proof.Rules

/-- R71 to R73, R81, R182, R184, R187, R189 to R192, R194 to R199: the matrix engine performs its commands in order; an MMA or
MCNT occupies it until it retires: an MMA in BF16, FP16, E4M3 or E5M2 rounds a group of products into each cell at once, in INT8
it adds the product of its tiles and with WIT its witness column, in SX or into LPX it fills its port entry; MCNT adds to the
class and event counters. R230 to R250: the tree engine performs its commands in order: TFWD of a whole-node record of one sum,
product or leaf writes VAL, AUX, TAG and POS; TREV adds each contribution to the DER of its child; TRATIO writes the quotient,
LP_N for a zero denominator; a walk from a leaf writes OUT. R260, R262: the fibre unit delivers. The model's choice: when each
event comes (log 3), the place of a cell in an image of counters (log 29), a closed stream reading as 0 (log 27), and readings of
the tree engine (log 30). -/
def Obligations.EngineEvents : Prop :=
  MatrixPerforms ∧ MmaRetires ∧ ProductsRetire ∧ TreePerforms ∧ ForwardPass ∧ ReversePass ∧ RatioPerforms ∧ WalkPerforms ∧ FibrePerforms

namespace Sys2Proof.Rules

open Sys2Proof.Machine Sys2Proof.Safety

/-! ### The copy unit and the update engine (R99, R217 to R229) -/

/-- A chunk of a row of scratchpad is copied, and the command completes with its last chunk. -/
def RowsCopied : Prop :=
  (∀ (k id chunk : Nat) (s : State) (p : CopyCmd), Active s k id p → s.chunkReady k p chunk = true → fget? p.done chunk = none →
    p.kind = .copy false → p.bar = none → p.lost = false → coreOf p.x = k → RowRecord (shapeOf p.dst) → RowRecord (shapeOf p.src) →
    (shapeOf p.src).span = (shapeOf p.dst).span → p.chunks = ((shapeOf p.dst).span + 511) / 512 →
    let lo := 512 * chunk
    let n := min 512 ((shapeOf p.dst).span - lo)
    let d := scratchBase k + (shapeOf p.dst).base + lo
    let v := scratchBase k + (shapeOf p.src).base + lo
    let last := ∀ c, c < p.chunks → c ≠ chunk → fget? p.done c = some true
    let g := (p.chunks + 63) / 64
    let done := fun (j : Nat) => ∀ c, j * g ≤ c → c < j * g + g → c < p.chunks → c = chunk ∨ fget? p.done c = some true
    ∃ t, exec (.copyChunkWritten k id chunk) s = .next t ∧ (∀ i, i < n → t.byte (d + i) = s.byte (v + i)) ∧
      BytesBut (fun a => d ≤ a ∧ a < d + n) s t ∧
      (∀ j, j < 64 → ((fget (BitVec.allOnes 64) (t.ctx p.x).bitmaps p.cid).getLsbD j = true ↔ done j)) ∧
      (∀ c, c ≠ p.cid → fget (BitVec.allOnes 64) (t.ctx p.x).bitmaps c = fget (BitVec.allOnes 64) (s.ctx p.x).bitmaps c) ∧
      (last → ∀ q ∈ (t.core k).copies, q.id ≠ id) ∧
      (¬ last → ∃ q ∈ (t.core k).copies, q.id = id ∧ q.kind = p.kind ∧ fget? q.done chunk = some true) ∧ OtherCopies s t k id ∧
      Frame p.x noBits noCopies (fun u => { u with mem := [], poison := [], soft := [], regs := [], dies := [], hostOut := [], fresh := 0 }) s t)

/-- A push takes the room that it waited for. -/
def RoomTaken : Prop :=
  (∀ (k id gen off : Nat) (s : State) (p : CopyCmd), Active s k id p → p.kind = .ring gen off → p.waits = true →
    (s.core k).halting = false →
    ((s.core k).ringGen gen).fill + (((s.core k).copies.filter fun q => q.pushes gen && decide (q.seq < p.seq)).map (·.pushSize)).sum +
      (shapeOf p.src).size ≤ ((s.core k).ringGen gen).size →
    ∃ t, exec (.cringRoom k id) s = .next t ∧ { p with waits := false } ∈ (t.core k).copies ∧ OtherCopies s t k id ∧
      (∀ j, j ≠ k → t.core j = s.core j) ∧ noCopies (t.core k) = noCopies (s.core k) ∧ (∀ x, t.ctx x = s.ctx x) ∧
      sansUnits t = sansUnits s)

/-- PUBLISH exchanges the two sets of a page. -/
def PagesExchanged : Prop :=
  (∀ (k id pg d : Nat) (s : State) (p : CopyCmd) (e : Word64) (te : TlbEnt), Active s k id p → p.kind = .publish → p.parked = false →
    (s.core k).halting = false → s.publishHeld k p = false → p.lost = false → coreOf p.x = k → 0 < p.chunks →
    (shapeOf p.dst).vpages = [pg] → pg < 2 ^ 48 → fget? s.ldtCache (pg * 65536 / 2 ^ 49) = some e → bitAt e.toNat 0 = true →
    fld e.toNat 12 1 = s.moduleNo → fld e.toNat 16 13 = d → d ≤ 8 → (s.die d).lost = false → s.dieActive d = true →
    (s.die d).tlb.find? (·.covers p.asid (pg % 2 ^ 33)) = some te → te.big = false → bitAt te.leaf.toNat 4 = true →
    ∃ t, exec (.publishExchange k id) s = .next t ∧
      ofN (number 8 fun i => t.byte (te.addr + i)) = ofN (number 8 fun i => s.byte (te.addr + i)) ^^^ 32 ∧
      BytesBut (fun a => te.addr ≤ a ∧ a < te.addr + 8) s t ∧
      (t.die d).tlb = (s.die d).tlb.map (fun u => if u.addr = te.addr then { u with leaf := u.leaf ^^^ 32 } else u) ∧
      fget (BitVec.allOnes 64) (t.ctx p.x).bitmaps p.cid = BitVec.allOnes 64 ∧ (∀ q ∈ (t.core k).copies, q.id ≠ id) ∧
      OtherCopies s t k id ∧ Frame p.x noBits noCopies (fun u => { u with mem := [], poison := [], soft := [], dies := [] }) s t)

/-- An UPD begins once its gate is open. -/
def UpdatesBegin : Prop :=
  (∀ (k id : Nat) (s : State) (p : CopyCmd) (a : Word64) (desc : List Byte) (gate : Option Word64), Active s k id p →
    p.kind = .upd a desc gate → desc ≠ [] → s.updReady k p = true → p.optim.malformed (shapeOf p.dst).fmt = false → Sound s (scratchBase k) 0x300000 →
    p.optim.norm.toNat + 4 ≤ 0x300000 →
    (∀ g, gate = some g → g.toNat + 32 ≤ 0x300000) →
    ((∀ g, gate = some g → Passed (s.bar (scratchBase k + g.toNat)) p.optim.phase) →
      ∃ t, exec (.updGateOpen k id) s = .next t ∧
        (∃ q ∈ (t.core k).copies, q.id = id ∧ q.waits = false ∧ q.kind = p.kind) ∧ OtherCopies s t k id ∧
        (∀ j, j ≠ k → t.core j = s.core j) ∧ noCopies (t.core k) = noCopies (s.core k) ∧ (∀ x, t.ctx x = s.ctx x) ∧
        { sansUnits t with fresh := 0 } = { sansUnits s with fresh := 0 }) ∧
    (∀ g, gate = some g → ¬ Passed (s.bar (scratchBase k + g.toNat)) p.optim.phase →
      ∃ t, exec (.updGateOpen k id) s = .next t ∧ (∀ j, t.core j = s.core j) ∧ (∀ x, t.ctx x = s.ctx x) ∧
        sansUnits t = sansUnits s))

/-- A chunk of bytes `lo` to `lo + n - 1` of a command's destination: the command is active and ready, none of the chunk has been
written, and it owes no arrival. -/
structure Begins (s : State) (k id chunk : Nat) (p : CopyCmd) : Prop where
  active : Active s k id p
  ready : s.chunkReady k p chunk = true
  unwritten : fget? p.done chunk = none
  silent : p.bar = none
  kept : p.lost = false
  owner : coreOf p.x = k
  sound : Sound s (scratchBase k) 0x300000

/-- A record in scratchpad, whose bytes are distinct (R209). -/
structure PadRecord (v : Shape) : Prop where
  space : v.space = 1
  inside : ∀ b, b < v.size → 0 ≤ (v.base : Int) + v.byteAt b ∧ (v.base : Int) + v.byteAt b < 0x300000

/-- Packed byte b of a record in scratchpad, by physical address (R209). -/
def packed (k : Nat) (v : Shape) (b : Nat) : Nat := scratchBase k + ((v.base : Int) + v.byteAt b).toNat

/-- No two bytes of a record lie at one address. -/
def Spread (k : Nat) (v : Shape) : Prop := ∀ b c, b < v.size → c < v.size → packed k v b = packed k v c → b = c

/-- Entry r of an index list in scratchpad (R219). -/
def indexAt (s : State) (k : Nat) (idx : Word64) (r : Nat) : Nat := padN s k (idx.toNat + 4 * r) 4

/-- What a chunk may change beside the bytes of its destination: error counters and records of the chunk check (R222, R346). -/
def chunkStrike (u : State) : State :=
  { u with mem := [], poison := [], soft := [], regs := [], dies := [], hostOut := [], fresh := 0 }

/-- The chunk is written: byte b of it becomes source byte `src b`, or stays where there is none. -/
def WritesChunk (s : State) (k id chunk : Nat) (p : CopyCmd) (n : Nat) (dst : Nat → Nat) (src : Nat → Option Nat) (P : State → Prop) :
    Prop :=
  ∃ t, exec (.copyChunkWritten k id chunk) s = .next t ∧
    (∀ b, 512 * chunk ≤ b → b < 512 * chunk + n → t.byte (dst b) = (src b).elim (s.byte (dst b)) s.byte) ∧
    BytesBut (fun a => ∃ b, 512 * chunk ≤ b ∧ b < 512 * chunk + n ∧ a = dst b) s t ∧
    ((∃ c, c < p.chunks ∧ c ≠ chunk ∧ fget? p.done c ≠ some true) → ∃ q ∈ (t.core k).copies, q.id = id ∧ fget? q.done chunk = some true) ∧
    OtherCopies s t k id ∧ P t ∧ Frame p.x (fun c => noBits { noState c with deferred := [] }) (fun c => noCopies (noRings c)) chunkStrike s t

/-- Chunks of the forms between two records in scratchpad, and of a push (R219, R220). -/
def FormsWritten : Prop :=
  ∀ (k id chunk : Nat) (s : State) (p : CopyCmd), Begins s k id chunk p →
    let d := shapeOf p.dst
    let v := shapeOf p.src
    let n := min 512 (d.size - 512 * chunk)
    (PadRecord d → PadRecord v → Spread k d → d.bits = v.bits →
      (p.kind = .copy false → v.size = d.size →
        WritesChunk s k id chunk p n (packed k d) (fun b => some (packed k v b)) fun t => (t.ctx p.x).deferred = (s.ctx p.x).deferred) ∧
      (p.kind = .copyt → d.bits = 8 ∨ d.bits = 16 ∨ d.bits = 32 → v.size = d.size → d.extent 0 = v.extent 1 → d.extent 1 = v.extent 0 →
        d.extent 2 = v.extent 2 → d.extent 3 = v.extent 3 → n % (d.bits / 8) = 0 →
        let m := d.bits / 8
        let from_ := fun (b : Nat) =>
          let i0 := b / m % d.extent 0
          let i1 := b / m / d.extent 0 % d.extent 1
          let upper := b / m / (d.extent 0 * d.extent 1)
          ((upper * v.extent 1 + i0) * v.extent 0 + i1) * m + b % m
        WritesChunk s k id chunk p n (packed k d) (fun b => some (packed k v (from_ b))) fun t =>
          (t.ctx p.x).deferred = (s.ctx p.x).deferred) ∧
      (∀ idx : Word64, p.kind = .gather idx → v.span = d.span → 0 < d.span → d.rank ≤ 2 → v.rank ≤ 2 →
        idx.toNat + 4 * d.extent 1 ≤ 0x300000 →
        let row := indexAt s k idx
        WritesChunk s k id chunk p n (packed k d)
          (fun b => if row (b / d.span) < v.extent 1 then some (packed k v (row (b / d.span) * v.span + b % d.span)) else none) fun t =>
          ((∀ r, r < d.extent 1 → row r < v.extent 1) → (t.ctx p.x).deferred = (s.ctx p.x).deferred) ∧
          ((s.ctx p.x).state ≠ .idle → ∀ b, 512 * chunk ≤ b → b < 512 * chunk + n → v.extent 1 ≤ row (b / d.span) →
            p.told.contains (idx + ofN (4 * (b / d.span))) = false →
            { cause := 7, info := idx + ofN (4 * (b / d.span)), slot := 7, tok := 0 } ∈ (t.ctx p.x).deferred)) ∧
      (∀ idx : Word64, p.kind = .scatter idx → v.span = d.span → 0 < d.span → d.rank ≤ 2 → v.rank ≤ 2 →
        idx.toNat + 4 * v.extent 1 ≤ 0x300000 →
        let row := indexAt s k idx
        ∀ last : Nat → Option Nat,
          (∀ i r, last i = some r ↔ r < v.extent 1 ∧ row r = i ∧ ∀ q, r < q → q < v.extent 1 → row q ≠ i) →
          WritesChunk s k id chunk p n (packed k d)
            (fun b => (last (b / d.span)).map fun r => packed k v (r * v.span + b % d.span)) fun t =>
            ((∀ r, r < v.extent 1 → row r < d.extent 1) → (t.ctx p.x).deferred = (s.ctx p.x).deferred) ∧
            ((s.ctx p.x).state ≠ .idle → ∀ r, r < v.extent 1 → d.extent 1 ≤ row r → p.told.contains (idx + ofN (4 * r)) = false →
              { cause := 7, info := idx + ofN (4 * r), slot := 7, tok := 0 } ∈ (t.ctx p.x).deferred))) ∧
    (∀ (g off : Nat) (r : Ring), p.kind = .ring g off → PadRecord v → fget? (s.core k).rings g = some r → v.size ≤ r.size →
      r.base + r.size ≤ 0x300000 → p.chunks = (v.size + 511) / 512 →
      WritesChunk s k id chunk p (min 512 (v.size - 512 * chunk)) (fun b => scratchBase k + r.base + (off + b) % r.size)
        (fun b => some (packed k v b)) fun t =>
        (t.ctx p.x).deferred = (s.ctx p.x).deferred ∧
        ((∀ c, c < p.chunks → c ≠ chunk → fget? p.done c = some true) →
          fget? (t.core k).rings g = some { r with fill := r.fill + v.size } ∧ ∀ q ∈ (t.core k).copies, q.id ≠ id))

/-- Part of a plane is located: its n bytes from ea on lie together from pa on, without a walk (R134, R227, R328). -/
structure Plane (s : State) (rq : Req) (acc k : Nat) (ea : Word64) (pa n : Nat) : Prop where
  fits : ea.toNat + n ≤ 2 ^ 64 ∧ (ea.toNat + n ≤ 0x300000 ∨ 0x400000 ≤ ea.toNat)
  held : ∀ i, i < n → ∀ t, SameMemory s t → locate rq acc k (ea + ofN i) t = .ok (.here (pa + i)) t
  sound : Sound s pa n

/-- The elements that a CRED adds: bytes, and the sum of two elements (R98, R219). -/
def reduceSum (fmt : Nat) (old operand : Nat) : Nat :=
  if fmt = 0x07 then (old + operand) % 2 ^ 32
  else
    let f := if fmt = 0x01 then fp32 else if fmt = 0x02 then fp16 else bf16
    (f.add false RNE (f.val old) (f.val operand)).1

/-- A chunk of a CRED whose source is a record in scratchpad, and whose destination is one row of vault or HBM (R98, R219). -/
def SumsReduced : Prop :=
  ∀ (k id chunk wpa : Nat) (s : State) (p : CopyCmd), Begins s k id chunk p → p.kind = .reduce false →
    let d := shapeOf p.dst
    let v := shapeOf p.src
    let n := min 512 (d.size - 512 * chunk)
    let m := d.bits / 8
    let lo := 512 * chunk
    d.fmt = 0x01 ∨ d.fmt = 0x02 ∨ d.fmt = 0x03 ∨ d.fmt = 0x07 → d.space = 0 → d.rank = 1 → PadRecord v → v.size = d.size → n % m = 0 →
    d.base + d.size ≤ 2 ^ 64 → 0x400000 ≤ d.base → d.base % 64 = 0 →
    Plane s (p.reqFor k d) accAtomic k (ofN (d.base + lo)) wpa n → (∀ i, i < n → inScratch (offOf (wpa + i)) = false) →
    (∀ i, i < n → ∀ a, wpa ≤ a → a < wpa + n → dirtyByte s (wpa + i) ≠ a) →
    ∃ t, exec (.copyChunkWritten k id chunk) s = .next t ∧
      (∀ i, i < n / m → number m (fun j => t.byte (wpa + m * i + j)) =
        reduceSum d.fmt (number m fun j => s.byte (wpa + m * i + j)) (number m fun j => s.byte (packed k v (lo + m * i + j)))) ∧
      BytesBut (fun a => (wpa ≤ a ∧ a < wpa + n) ∨ ∃ i, i < n ∧ a = dirtyByte s (wpa + i)) s t ∧
      OtherCopies s t k id ∧ Frame p.x noBits noCopies chunkStrike s t

/-- Weight chunk q is owned (R228). -/
def owned (o : Optim) (q : Nat) : Bool := o.layout == 0 || q * 0x9E3779B1 % 2 ^ 32 * o.shards / 2 ^ 32 == o.self

/-- What R229 makes of an element: weight, first moment and second moment, from the clip factor, the two powers, the gradient with
its tag taken off, and the three old values. -/
def updated (o : Optim) (c pow1 pow2 : Nat) (grad : FVal) (w m v : Nat) : Nat × Nat × Nat :=
  let g := (fp32.mul false RNE (fp32.val c) grad).1
  if o.kind = 0 then
    let m' := f32Add (f32Mul o.b1 m) (f32Add g (f32Mul o.wd w))
    (f32Sub w (f32Mul o.lr m'), m', v)
  else
    let m' := f32Add (f32Mul o.b1 m) (f32Mul (f32Sub f32One o.b1) g)
    let v' := f32Add (f32Mul o.b2 v) (f32Mul (f32Mul (f32Sub f32One o.b2) g) g)
    let step := f32Div (f32Div m' (f32Sub f32One pow1)) (f32Add (f32Sqrt (f32Div v' (f32Sub f32One pow2))) o.eps)
    (f32Sub w (f32Mul o.lr (f32Add step (f32Mul o.wd w))), m', v')

/-- Where the planes of a chunk lie (R228): weights, extension, gradient, first and second moment; all apart, from one another and
from the dirty bytes of their pages. -/
structure ChunkPlanes (s : State) (k : Nat) (p : CopyCmd) (o : Optim) (q n wpa epa gpa mpa vpa : Nat) : Prop where
  row : (shapeOf p.dst).space = 0 ∧ (shapeOf p.dst).rank = 1 ∧ 0x400000 ≤ (shapeOf p.dst).base ∧
    (shapeOf p.dst).base + (shapeOf p.dst).size ≤ 2 ^ 64
  whole : n % o.wBytes = 0
  weights : ∀ acc, acc = accRead ∨ acc = accWrite → Plane s (p.reqFor k (shapeOf p.dst)) acc k (ofN ((shapeOf p.dst).base + 512 * q)) wpa n
  ext : o.layout = 0 → ∀ acc, acc = accRead ∨ acc = accWrite → Plane s (p.req k false) acc k (o.ext + ofN (512 * q)) epa n
  aligned : o.grad.toNat % o.gBytes = 0
  grad : Plane s (p.req k false) accRead k (o.grad + ofN (o.gBytes * (512 * q / o.wBytes))) gpa (o.gBytes * (n / o.wBytes))
  mom : ∀ acc, acc = accRead ∨ acc = accWrite → Plane s (p.req k false) acc k (o.mom + ofN (4 * (if o.layout = 0 then 256 * q
    else 128 * countTo q (owned o)))) mpa (4 * (n / o.wBytes))
  var : o.kind = 1 → ∀ acc, acc = accRead ∨ acc = accWrite → Plane s (p.req k false) acc k (o.var + ofN (4 * (if o.layout = 0 then 256 * q
    else 128 * countTo q (owned o)))) vpa (4 * (n / o.wBytes))
  apart : ∀ i j, i < n → j < 1024 → wpa + i ≠ epa + j ∧ wpa + i ≠ mpa + j ∧ wpa + i ≠ vpa + j
  apart' : ∀ i j, i < 1024 → j < 1024 → epa + i ≠ mpa + j ∧ epa + i ≠ vpa + j ∧ mpa + i ≠ vpa + j
  clean : ∀ a b, b < 1024 → (∃ i, i < 1024 ∧ (a = dirtyByte s (wpa + i) ∨ a = dirtyByte s (epa + i) ∨ a = dirtyByte s (mpa + i) ∨
    a = dirtyByte s (vpa + i))) → a ≠ wpa + b ∧ a ≠ epa + b ∧ a ≠ mpa + b ∧ a ≠ vpa + b

/-- The value of gradient element i, times 2^-tag of its chunk, which is 0 where it is not set (R229). -/
def gradient (s : State) (o : Optim) (gpa i : Nat) : FVal :=
  let code := number o.gBytes fun j => s.byte (gpa + o.gBytes * i + j)
  let tag := if inScratch (offOf (gpa + o.gBytes * i)) then 0x80 else (s.tag (gpa + o.gBytes * i)).toNat % 256
  (if o.gfmt = 0 then fp32.val code else bf16.val code).scale (if tag = 0x80 then 0 else -signedN 1 tag)

/-- Element i of a chunk is skipped for an overflow or a value that is not finite (R229). -/
def spoils (s : State) (o : Optim) (gpa i : Nat) : Prop :=
  (inScratch (offOf (gpa + o.gBytes * i)) = false ∧ bitAt (s.tag (gpa + o.gBytes * i)).toNat 8 = true) ∨
    (gradient s o gpa i).special = true

/-- The update of one chunk (R228, R229). -/
def ChunksUpdated : Prop :=
  ∀ (k id q : Nat) (s : State) (p : CopyCmd) (a : Word64) (desc : List Byte) (gate : Option Word64) (c pow1 pow2 wpa epa gpa mpa vpa : Nat),
    Begins s k id q p → p.kind = .upd a desc gate → p.consts = [c, pow1, pow2] →
    (∃ r, r < p.chunks ∧ r ≠ q ∧ fget? p.done r ≠ some true) →
    let o := p.optim
    let n := min 512 ((shapeOf p.dst).size - 512 * q)
    let wb := o.wBytes
    (owned o q = false →
      ∃ t, exec (.copyChunkWritten k id q) s = .next t ∧ (∃ u ∈ (t.core k).copies, u.id = id ∧ u.upd = p.upd ∧ fget? u.done q = some true) ∧
        (∀ b, t.byte b = s.byte b) ∧ OtherCopies s t k id ∧ Frame p.x noBits noCopies (fun u => u) s t) ∧
    (owned o q = true → o.malformed (shapeOf p.dst).fmt = false → o.gfmt = 0 ∨ o.gfmt = 1 → ChunkPlanes s k p o q n wpa epa gpa mpa vpa →
      ((∃ i, i < n / wb ∧ spoils s o gpa i) →
        ∃ t, exec (.copyChunkWritten k id q) s = .next t ∧
          (∃ u ∈ (t.core k).copies, u.id = id ∧ u.upd = p.upd + 0x100000000 ∧ fget? u.done q = some true) ∧
          (∀ b, t.byte b = s.byte b) ∧ OtherCopies s t k id ∧ Frame p.x noBits noCopies (fun u => { u with fresh := 0 }) s t) ∧
      ((∀ i, i < n / wb → ¬ spoils s o gpa i) →
        ∃ t, exec (.copyChunkWritten k id q) s = .next t ∧
          (∃ u ∈ (t.core k).copies, u.id = id ∧ u.upd = p.upd + 1 ∧ fget? u.done q = some true) ∧
          (∀ i, i < n / wb →
            let weight := number wb fun j => s.byte (wpa + wb * i + j)
            let w := if o.layout = 0 then weight * 65536 + number 2 (fun j => s.byte (epa + 2 * i + j)) else weight
            let m := number 4 fun j => s.byte (mpa + 4 * i + j)
            let v := if o.kind = 1 then number 4 (fun j => s.byte (vpa + 4 * i + j)) else 0
            let r := updated o c pow1 pow2 (gradient s o gpa i) w m v
            number wb (fun j => t.byte (wpa + wb * i + j)) = (if o.layout = 0 then r.1 / 65536 else r.1) ∧
              (o.layout = 0 → number 2 (fun j => t.byte (epa + 2 * i + j)) = r.1 % 65536) ∧
              number 4 (fun j => t.byte (mpa + 4 * i + j)) = r.2.1 ∧
              (o.kind = 1 → number 4 (fun j => t.byte (vpa + 4 * i + j)) = r.2.2)) ∧
          BytesBut (fun b => (wpa ≤ b ∧ b < wpa + n) ∨ (o.layout = 0 ∧ epa ≤ b ∧ b < epa + n) ∨ (mpa ≤ b ∧ b < mpa + 4 * (n / wb)) ∨
            (o.kind = 1 ∧ vpa ≤ b ∧ b < vpa + 4 * (n / wb)) ∨ ∃ i, i < 1024 ∧ (b = dirtyByte s (wpa + i) ∨ b = dirtyByte s (epa + i) ∨
              b = dirtyByte s (mpa + i) ∨ b = dirtyByte s (vpa + i))) s t ∧
          OtherCopies s t k id ∧ Frame p.x noBits noCopies chunkStrike s t))

end Sys2Proof.Rules

/-- R98, R99, R217 to R222: a chunk of a copy is written, its bit set with the rest of its group, and the copy completes with its
last chunk: COPY gives each element that of the same index, COPYT that with its first two indices exchanged, CGATH row idx[r] to
row r, CSCAT row r to row idx[r], the highest r last, CRING the source in packed order from the reserved offset on; an index out
of range leaves its row and raises ACCESS; CRED adds each element with one rounding; a push takes the room that it waited for.
R225, R328: PUBLISH exchanges the two sets of a page. R226 to R229: an UPD begins once its gate is open; it leaves the chunks of
other shards, skips a chunk with an overflow or a gradient that is not finite, and else gives each element of the chunk its weight
and moments. The model's choice: when each event comes (log 3). -/
def Obligations.CopyEvents : Prop :=
  RowsCopied ∧ RoomTaken ∧ PagesExchanged ∧ UpdatesBegin ∧ FormsWritten ∧ SumsReduced ∧ ChunksUpdated

namespace Sys2Proof.Rules

open Sys2Proof.Machine Sys2Proof.Safety

/-! ### Boot, measurement, attestation, power, telemetry and die loss (R339 to R344, R350 to R354, R358) -/

/-- Strikes out the registers. -/
def noRegs (s : State) : State := { s with regs := [] }

/-- Every register is unchanged but those that `p` allows. -/
def RegsBut (p : Nat → Prop) (s t : State) : Prop := ∀ o, ¬ p o → t.reg o = s.reg o

/-- The four words of a measurement register, and of the digest to extend it with. -/
def measured (s : State) (i : Nat) : List Byte := s.words4 (rMR i)
def digest (s : State) : List Byte := s.words4 rEXTDIG

/-- An offset of measurement register i. -/
def ofMR (i o : Nat) : Prop := 0x3100 + 32 * i ≤ o ∧ o < 0x3120 + 32 * i

/-- After the boot ROM (R340): every die has passed its self-test, or failed with a code, and the module waits for its image where one
of dies 0 to 7 has passed. -/
def AfterRom (t : State) : Prop :=
  (∀ d, d < 9 → t.regN (rMCSTAT d) = 1 ∨ t.regF (rMCSTAT d) 3 0 = 4) ∧
    ((∃ d, d < 8 ∧ t.regF (rMCSTAT d) 3 0 ≠ 4) → t.bootState = 1) ∧ ((∀ d, d < 8 → t.regF (rMCSTAT d) 3 0 = 4) → t.bootState = 5)

/-- Every core, scheduler and queue is as after reset. -/
def Cleared (t : State) : Prop :=
  (∀ x, t.ctx x = Ctx.init) ∧ t.tasks = [] ∧ t.msgs = [] ∧ t.regions = [] ∧ t.queue = [] ∧ t.seifs = [] ∧ t.hard = [] ∧
    t.ldtCache = [] ∧ t.heldExtend = [] ∧ t.attSnap = none ∧
    ∀ k, { t.core k with cycBase := 0 } = { Core.init with cycBase := 0 }

/-- The image that BOOTIMG and BOOTLEN describe lies in the lead die's HBM (R339). -/
def ImageAt (s : State) (a n : Nat) : Prop :=
  s.regN rBOOTIMG = a ∧ s.regN rBOOTLEN = n ∧ 0x1000 ≤ n ∧ n ≤ 0x1000000 ∧ n % 64 = 0 ∧ a % 0x1000 = 0 ∧ pdieOf a = s.lead ∧
    inHbm (offOf a) = true ∧ inHbm (offOf (a + n - 1)) = true

/-- A byte of a die's memory. -/
def onDie (d a : Nat) : Prop := pdieOf a = d

/-- What powers a die down or up leaves (R343): its memory, cores and contexts hold nothing, and the other dies are as before. -/
def DieOff (s t : State) (d : Nat) : Prop :=
  (∀ a, onDie d a → t.byte a = 0) ∧ BytesBut (onDie d) s t ∧ (∀ x, x / 96 = d → t.ctx x = Ctx.init) ∧
    (∀ x, x / 96 ≠ d → t.ctx x = s.ctx x) ∧ (∀ k, k / 24 = d → t.core k = Core.init) ∧ (∀ k, k / 24 ≠ d → t.core k = s.core k)

/-- Strikes out what a die's power takes. -/
def noDie (s : State) : State := { noMem (noRegs s) with dies := [], hard := [], arrayErr := [], fresh := 0 }

/-- The firmware leaves a die without power, the reserve among them (R340, R353). -/
def leftOff (s : State) (d : Nat) : Prop :=
  d < 9 ∧ (s.dieActive d && Config.diePower d) = false ∧ s.regF (rMCSTAT d) 3 0 ≠ 4

end Sys2Proof.Rules

/-- R339 to R344, R350 to R354, R358: power, boot, measurement, attestation, throttling, the power of dies and cores, telemetry
and die loss. The model's choice: memory and registers without a reset value (log 1, log 2), the certificate bytes, and bootState
5 where every self-test fails (log 12). -/
def Obligations.BootAndPowerEvents : Prop :=
  (∀ s : State, s.power = false →
    ∃ t, exec .powerOn s = .next t ∧ t.power = true ∧ AfterRom t ∧ Cleared t ∧ (∀ a, t.byte a = 0) ∧ t.link = 0xF ∧
      ∀ o, ¬ (0x3400 ≤ o ∧ o ≤ 0x3440) → o ≠ rBOOTCTL → t.reg o = regReset o) ∧
  (∀ s : State, ∃ t, exec .powerRemoval s = .next t ∧ t.power = false ∧ Cleared t ∧ (∀ a, t.byte a = 0) ∧ t.dies = [] ∧
    (∀ o, t.reg o = regReset o) ∧ t.hostOut = s.hostOut) ∧
  (∀ s : State, s.power = true →
    ∃ t, exec .warmReset s = .next t ∧ t.power = true ∧ AfterRom t ∧ Cleared t ∧ (∀ a, t.byte a = s.byte a) ∧ t.time = s.time ∧
      (∀ i w, i < 8 → w < 4 → t.reg (rMR i w) = 0) ∧
      ∀ o, (0x4000 ≤ o ∧ o ≤ 0x4010) ∨ (0x4400 ≤ o ∧ o < 0x4800) → t.reg o = s.reg o) ∧
  (∀ (s : State) (a n : Nat), s.power = true → s.bootState = 1 → ImageAt s a n →
    let off := number 4 fun i => s.byte (a + 8 + i)
    let len := number 4 fun i => s.byte (a + 12 + i)
    ∃ t, exec .bootctlGo s = .next t ∧ measured t 0 = sha256 (measured s 0 ++ sha256 (s.bytes a n)) ∧
      bitAt (t.regN rBOOTCTL) 0 = true ∧
      (off + len ≤ n → t.bootState = 4 ∧ measured t 1 = sha256 (measured s 1 ++ sha256 (s.bytes (a + off) len)) ∧
        (∀ d, d < 9 → s.dieActive d = true → Config.diePower d = true → t.reg (rDIECTL d) = 1 ∧ t.reg (rMCSTAT d) = 2) ∧
        (∀ d, leftOff s d → t.reg (rMCSTAT d) = 0) ∧
        (∀ b, (leftOff s (pdieOf b) → t.byte b = 0) ∧ (¬ leftOff s (pdieOf b) → t.byte b = s.byte b)) ∧
        (∀ x, (leftOff s (x / 96) → t.ctx x = Ctx.init) ∧ (¬ leftOff s (x / 96) → t.ctx x = s.ctx x)) ∧
        (∀ k, (leftOff s (k / 24) → t.core k = Core.init) ∧ (¬ leftOff s (k / 24) → t.core k = s.core k)) ∧
        noDie (sansUnits t) = noDie (sansUnits s)) ∧
      (n < off + len → t.bootState = 5 ∧ Outside noRegs s t)) ∧
  (∀ s : State, s.power = true → s.bootState ≠ 1 → exec .bootctlGo s = .next s) ∧
  (∀ (i : Nat) (d : List Byte) (s : State), s.power = true → i = 2 ∨ i = 3 → d.length = 32 → bitAt (s.regN rATTCTL) 1 = false →
    ∃ t, runEvent (.firmwareExtend i d) s = .next t ∧ measured t i = sha256 (measured s i ++ d) ∧ RegsBut (ofMR i) s t ∧
      Outside noRegs s t) ∧
  (∀ (i : BitVec 3) (s : State), s.power = true →
    (bitAt (s.regN rEXTCTL) 3 = false → 4 ≤ i.toNat → bitAt (s.regN rATTCTL) 1 = false →
      ∃ t, exec (.extend i) s = .next t ∧ measured t i.toNat = sha256 (measured s i.toNat ++ digest s) ∧
        RegsBut (fun o => ofMR i.toNat o ∨ o = rEXTCTL) s t ∧ Outside noRegs s t) ∧
    (bitAt (s.regN rEXTCTL) 3 = false → i.toNat < 4 →
      ∃ t, exec (.extend i) s = .next t ∧ bitAt (t.regN rEXTCTL) 4 = true ∧ RegsBut (· = rEXTCTL) s t ∧ Outside noRegs s t) ∧
    (bitAt (s.regN rEXTCTL) 3 = false → 4 ≤ i.toNat → bitAt (s.regN rATTCTL) 1 = true →
      ∃ t, exec (.extend i) s = .next t ∧ bitAt (t.regN rEXTCTL) 3 = true ∧ t.heldExtend = s.heldExtend ++ [(i.toNat, digest s)] ∧
        RegsBut (· = rEXTCTL) s t ∧ Outside (fun u => { noRegs u with heldExtend := [] }) s t) ∧
    (bitAt (s.regN rEXTCTL) 3 = true → exec (.extend i) s = .next s)) ∧
  (∀ (s : State) (i : Nat) (d : List Byte) (rest : List (Nat × List Byte)), s.heldExtend = (i, d) :: rest → i < 8 →
    bitAt (s.regN rATTCTL) 1 = false →
    ∃ t, exec .heldExtend s = .next t ∧ t.heldExtend = rest ∧ measured t i = sha256 (measured s i ++ d) ∧
      (rest = [] → bitAt (t.regN rEXTCTL) 3 = false) ∧ RegsBut (fun o => ofMR i o ∨ o = rEXTCTL) s t ∧
      Outside (fun u => { noRegs u with heldExtend := [] }) s t) ∧
  (∀ s : State, s.power = true →
    (s.attSnap = none → s.heldExtend = [] →
      ∃ t, exec .attestation s = .next t ∧ t.regF rATTCTL 1 0 = 3 ∧
        t.attSnap = some (s.words4 rNONCE ++ (List.range 8).flatMap (measured s)) ∧ RegsBut (· = rATTCTL) s t ∧
        Outside (fun u => { noRegs u with attSnap := none }) s t) ∧
    (∀ i d, s.attSnap = none → s.heldExtend = [(i, d)] → i < 8 →
      ∃ t, exec .attestation s = .next t ∧ t.regF rATTCTL 1 0 = 3 ∧ t.heldExtend = [] ∧ bitAt (t.regN rEXTCTL) 3 = false ∧
        measured t i = sha256 (measured s i ++ d) ∧ t.attSnap = some (s.words4 rNONCE ++ (List.range 8).flatMap (measured t)) ∧
        RegsBut (fun o => o = rATTCTL ∨ o = rEXTCTL ∨ ofMR i o) s t ∧
        Outside (fun u => { noRegs u with attSnap := none, heldExtend := [] }) s t) ∧
    (s.attSnap ≠ none → exec .attestation s = .next s) ∧
    (∀ snap, s.attSnap = some snap → snap.length = 288 → HbmRange (s.regN rATTBUF) 448 →
      let buf := s.regN rATTBUF
      ∃ t, runEvent .reportWritten s = .next t ∧ t.attSnap = none ∧ t.regF rATTCTL 1 0 = 0 ∧
        number 4 (fun i => t.byte (buf + i)) = 0x5441584A ∧ number 2 (fun i => t.byte (buf + 4 + i)) = 1 ∧
        (∀ j b, snap[j]? = some b → t.byte (buf + 32 + j) = b) ∧ BytesBut (fun a => buf ≤ a ∧ a < buf + 448) s t ∧
        RegsBut (· = rATTCTL) s t ∧ Outside (fun u => { noMem (noRegs u) with attSnap := none, hostOut := [] }) s t)) ∧
  (∀ (tag : BitVec 16) (s : State),
    ∃ t, exec (.extctlErrRead tag) s = .next t ∧ bitAt (t.regN rEXTCTL) 4 = false ∧
      t.hostOut = s.hostOut ++ [{ type := 6, addr := rEXTCTL, tag := tag.toNat, data := toBytes 8 (s.regN rEXTCTL) }] ∧
      RegsBut (· = rEXTCTL) s t ∧ Outside (fun u => { noRegs u with hostOut := [] }) s t) ∧
  (∀ (level : BitVec 4) (reason : BitVec 3) (s : State), s.power = true → level.toNat ≤ 12 →
    ∃ t, exec (.throttleUpdate level reason) s = .next t ∧ t.regF rTHROT 19 16 = level.toNat ∧ t.regF rTHROT 22 20 = reason.toNat ∧
      t.regF rTHROT 15 0 = s.regF rTHROT 15 0 ∧ RegsBut (· = rTHROT) s t ∧ Outside noRegs s t) ∧
  (∀ (d : Nat) (s : State), d ≤ 8 → s.bootState = 4 →
    (bitAt (s.regN (rDIECTL d)) 0 = true →
      ∃ t, exec (.diePowerDown d) s = .next t ∧ DieOff s t d ∧ t.reg (rDIECTL d) = 0 ∧ t.reg (rMCSTAT d) = 0 ∧
        RegsBut (fun o => o = rDIECTL d ∨ o = rMCSTAT d) s t ∧ noDie (sansUnits t) = noDie (sansUnits s)) ∧
    (bitAt (s.regN (rDIECTL d)) 0 = false →
      ∃ t, exec (.diePowerUp d) s = .next t ∧ DieOff s t d ∧ t.reg (rDIECTL d) = 1 ∧
        (t.reg (rMCSTAT d) = 2 ∨ t.regF (rMCSTAT d) 3 0 = 4) ∧
        RegsBut (fun o => o = rDIECTL d ∨ o = rMCSTAT d) s t ∧ noDie (sansUnits t) = noDie (sansUnits s))) ∧
  (∀ (c : Nat) (s : State), c < 216 → (s.core c).region = 0 → (s.core c).gated = false →
    ∃ t, exec (.corePowerGating c) s = .next t ∧ (t.core c).gated = true ∧ (t.core c).banks = [] ∧ (t.core c).rcache = [] ∧
      (∀ o, o < 0x300000 → t.byte (scratchBase c + o) = 0) ∧
      BytesBut (fun a => scratchBase c ≤ a ∧ a < scratchBase c + 0x300000) s t ∧
      (∀ x, coreOf x = c → (t.ctx x).state = .idle) ∧ (∀ x, coreOf x ≠ c → t.ctx x = s.ctx x) ∧
      (∀ k, k ≠ c → t.core k = s.core k) ∧ { noMem (sansUnits t) with arrayErr := [] } = { noMem (sansUnits s) with arrayErr := [] }) ∧
  (∀ s : State,
    ∃ t, exec .telclr s = .next t ∧ (∀ d k, d < 9 → k < 8 → t.reg (rTEL d k) = 0) ∧
      RegsBut (fun o => 0x4400 ≤ o ∧ o < 0x4640) s t ∧ Outside noRegs s t) ∧
  (∀ (s : State) (d : Nat) (v : Die) (e : Strata) (rest : List Strata), s.power = true → s.dies = [(d, v)] →
    v.strata = e :: rest →
    let buf := s.regN rSTRBUF + 0x40000 * d
    let n := 64 * (rest.length + 1)
    HbmRange buf n →
    ∃ t, exec .strataDump s = .next t ∧ number 8 (fun i => t.byte (buf + i)) = e.time % 2 ^ 64 ∧
      number 4 (fun i => t.byte (buf + 8 + i)) = e.seq % 2 ^ 32 ∧ (t.byte (buf + 12)).toNat = e.kind % 256 ∧
      (∀ j f, rest[j]? = some f → number 8 (fun i => t.byte (buf + 64 * (j + 1) + i)) = f.time % 2 ^ 64) ∧
      BytesBut (fun a => buf ≤ a ∧ a < buf + n) s t ∧ Outside noMem s t) ∧
  (∀ (d : Nat) (s : State), d ≤ 8 → s.bootState = 4 → bitAt (s.regN (rDIECTL d)) 0 = true → (s.die d).lost = false →
    (∀ e ∈ s.ctxs, e.2.arrivals = []) → (∀ h ∈ s.hard, ∀ c ∈ h.2.ctxs, c.2.arrivals = []) → s.tasks = [] →
    s.regN rSTRSAVE = 0 → s.regN rSTRBUF = 0 →
    ∃ t, exec (.dieLoss d) s = .next t ∧ (t.die d).lost = true ∧ (t.die d).tlb = [] ∧ t.dieActive d = false ∧
      (∃ f ∈ (t.die t.lead).strata, f.kind = 10 ∧ f.fatal = true) ∧ (∀ x, x / 96 = d → t.ctx x = Ctx.init) ∧
      (∀ x, x / 96 ≠ d → t.ctx x = s.ctx x) ∧ (∀ k, k / 24 = d → t.core k = Core.init) ∧ (∀ k, k / 24 ≠ d → t.core k = s.core k) ∧
      (∀ a, t.byte a = s.byte a) ∧
      { sansUnits t with dies := [], hard := [], hostOut := [] } = { sansUnits s with dies := [], hard := [], hostOut := [] })

namespace Sys2Proof.Rules

open Sys2Proof.Machine Sys2Proof.Safety

/-! ### The host link, registers, queues and translation (R318 to R328, R336, R346) -/

/-- A range of memory that no scratchpad window is part of (R25). -/
def PlainRange (pa n : Nat) : Prop :=
  ∀ i, i < n → populated (pa + i) = true ∧ inWindow (offOf (pa + i)) = false

/-- The host may reach the range: after READY, a die that is active; from WAITIMG on, the lead die's HBM (R340). -/
def HostMay (s : State) (pa n : Nat) : Prop :=
  (s.bootState = 4 ∧ s.dieActive (pdieOf pa) = true) ∨
    (1 ≤ s.bootState ∧ pdieOf pa = s.lead ∧ inHbm (offOf pa) = true ∧ inHbm (offOf (pa + n - 1)) = true)

/-- A message is the last that has been sent to the host, and the only new one. -/
def Sent (s t : State) (m : HostMsg) : Prop := t.hostOut = s.hostOut ++ [m]

/-- A link error event on the lead die with `n` in its detail (R351). -/
def LinkEvent (s t : State) (n : Nat) : Prop :=
  ∃ e ∈ (t.die s.lead).strata, e.kind = 9 ∧ e.detail = toBytes 8 n ∧ e.time = s.time

/-- A register whose writes wait for READY (R340). -/
def waitsForReady (o : Nat) : Prop := (0x1000 ≤ o ∧ o < 0x2700) ∨ o = 0x2800 ∨ o = 0x2808

/-- Registers that a write replaces whole (R320, R339, R352). -/
def wholeWrite (o : Nat) : Prop :=
  o = rFRBASE ∨ o = rFRHEAD ∨ o = rREGRCB ∨ o = rREGBUF ∨ o = rLDTBASE ∨ o = rBOOTIMG ∨ o = rBOOTLEN ∨ o = rATTBUF ∨ o = rSTRBUF ∨
    o = rSTRSAVE ∨ (∃ d, d ≤ 8 ∧ (o = rPTDIR d ∨ o = rDIRTY d ∨ o = rSHTAB d ∨ o = rSPILL d)) ∨
    (∃ w, w < 4 ∧ (o = rEXTDIG w ∨ o = rNONCE w)) ∨ ∃ q, q < 64 ∧ (o = rQBASE q ∨ o = rCBASE q)

/-- Registers that ignore writes (R320, R339, R354). -/
def neverWrites (o : Nat) : Prop :=
  o = 0 ∨ o = rFRTAIL ∨ o = rFROVF ∨ (∃ q, q < 64 ∧ (o = rQHEAD q ∨ o = rCTAIL q ∨ o = rQSTAT q)) ∨
    (∃ i w, i < 8 ∧ w < 4 ∧ o = rMR i w) ∨ (∃ d, d ≤ 8 ∧ o = rMCSTAT d) ∨ ∃ d k, d ≤ 8 ∧ k < 8 ∧ o = rTEL d k

/-- A register that reads as zero: none is listed at its offset, or it is write-only (R5, R320, R339). -/
def readsZero (o : Nat) : Prop :=
  regListed o = false ∨ o = 0x2100 ∨ o = 0x4800 ∨ ∃ w, w < 4 ∧ (o = rEXTDIG w ∨ o = rNONCE w)

/-- Of a register with a bit that starts something: the bits that a write stores, and the step that it asks of the device (R5, R320,
R326, R331, R339, R352 to R354). -/
def starts (o : Nat) (v : Word64) : Option (Nat × List Event) :=
  let on := fun i => bitAt v.toNat i
  if o = rATTCTL then some (0x1FC, if on 0 then [.attestation] else [])
  else if o = rSTRCTL then some (0x1FE, if on 9 then [.strataDump] else [])
  else if o = rBOOTCTL then some (if on 0 then 0 else 1, if on 1 then [.warmReset] else if on 0 then [.bootctlGo] else [])
  else if o = rEXTCTL then some (0, [.extend (BitVec.ofNat 3 v.toNat)])
  else if o = rLDTCTL then
    some (0x7FFF0002, if on 0 then (if on 1 then [.ldtctlDropAll] else [.ldtctlDrop (v.toNat / 2 ^ 16 % 2 ^ 15)]) else [])
  else if o = 0x2718 then
    some (0, match v.toNat % 8 with
      | 1 => [.suspend]
      | 2 => [.unsuspend]
      | 3 => [.stopmark]
      | 4 => [.save]
      | 5 => [.restore]
      | _ => [])
  else if o = 0x2100 then some (0, [if on 16 then .resumeAll v else if on 8 then .resumeCopy v else .resumeContext v])
  else if o = 0x4800 then some (0, if on 0 then [.telclr] else [])
  else if 0x4100 ≤ o ∧ o ≤ 0x4140 ∧ o % 8 = 0 then
    some (0, [if on 0 then .diePowerUp ((o - 0x4100) / 8) else .diePowerDown ((o - 0x4100) / 8)])
  else none

/-- A queue is open for its doorbell (R323). -/
def Open (s : State) (q : Nat) : Prop :=
  q < 64 ∧ s.bootState = 4 ∧ bitAt (s.regN (rQCTL q)) 0 = true ∧ bitAt (s.regN (rQSTAT q)) 0 = false

/-- The entry count of a queue. -/
def entries (s : State) (q : Nat) : Nat := 2 ^ s.regF (rQCTL q) 7 2

/-- The queue reads the entry at index i next, which stands in HBM with operation `op` (R321 to R323). -/
structure Reads (s : State) (q i : Nat) : Prop where
  open_ : Open s q
  size : 4 ≤ s.regF (rQCTL q) 7 2 ∧ s.regF (rQCTL q) 7 2 ≤ 16
  room : bitAt (s.regN (rQSTAT q)) 2 = false
  more : s.regN (rQHEAD q) % entries s q ≠ s.regN (rQTAIL q) % entries s q
  index : i = s.regN (rQHEAD q) % entries s q
  inHbm : HbmRange (s.regN (rQBASE q) + 64 * i) 64
  clean : Sound s (s.regN (rQBASE q) + 64 * i) 64
  fresh : ∀ e ∈ s.queue, e.id ≠ s.nextId

/-- A field of the entry at index i of a queue (R322). -/
def entryField (s : State) (q i off n : Nat) : Nat := number n fun j => s.byte (s.regN (rQBASE q) + 64 * i + off + j)

/-- The entry has been read: QHEAD has moved on, and `e`, with the fields that stand in memory, is the newest of the list. -/
def HasRead (s t : State) (q i : Nat) (e : QEntry) : Prop :=
  t.regN (rQHEAD q) = (i + 1) % entries s q ∧ t.queue = s.queue ++ [e] ∧ e.id = s.nextId ∧ e.q = q ∧ e.index = i ∧
    e.op = entryField s q i 0 1 ∧ e.user = ofN (entryField s q i 0x18 8) ∧ e.flags = entryField s q i 1 1

/-- What reading an entry strikes out. -/
def noQueue (s : State) : State := { noMem (noRegs s) with queue := [], nextId := 0, regions := [], tasks := [] }

/-- The entry lists of a queue are its own: nothing of it is in the list. -/
def Unlisted (s : State) (q : Nat) : Prop := ∀ e ∈ s.queue, e.q ≠ q

/-- How many entries a queue has not read. -/
def unreadCount (s : State) (q : Nat) : Nat :=
  (s.regN (rQTAIL q) % entries s q + entries s q - s.regN (rQHEAD q) % entries s q) % entries s q

/-- The instruction-store lines of every core are those of which `p` does not hold. -/
def LinesBut (p : Line → Prop) (s t : State) : Prop := ∀ k l, l ∈ (t.core k).istore ↔ l ∈ (s.core k).istore ∧ ¬ p l

/-- The translations of die d are those of which `p` does not hold, and other dies keep theirs. -/
def TlbBut (d : Nat) (p : TlbEnt → Prop) (s t : State) : Prop :=
  (∀ e, e ∈ (t.die d).tlb ↔ e ∈ (s.die d).tlb ∧ ¬ p e) ∧ ∀ c, c ≠ d → t.die c = s.die c

/-- A TLBINV write that starts an invalidation of a mode (R328). -/
def Invalidates (s : State) (d mode : Nat) (v : Word64) : Prop :=
  d ≤ 8 ∧ s.bootState = 4 ∧ bitAt (s.regN (rTLBINV d)) 0 = false ∧ bitAt v.toNat 0 = true ∧ fld v.toNat 3 2 = mode

/-- What an invalidation leaves: GO set, and nothing but the TLB, the instruction stores and the register changed. -/
structure Invalidated (s t : State) (d : Nat) : Prop where
  go : bitAt (t.regN (rTLBINV d)) 0 = true
  regs : RegsBut (· = rTLBINV d) s t
  ctxs : ∀ x, t.ctx x = s.ctx x
  cores : ∀ k, { t.core k with istore := [] } = { s.core k with istore := [] }
  rest : { noRegs (sansUnits t) with dies := [] } = { noRegs (sansUnits s) with dies := [] }

end Sys2Proof.Rules

/-- R318 to R320, R323, R330, R339, R340, R346: host memory accesses, doorbells, register reads and writes, and link events. The
model's choice: readings of the host link (log 22), and indexes of rings modulo their size (log 20). -/
def Obligations.HostLinkEvents : Prop :=
  (∀ (addr : BitVec 64) (data : List Byte) (s : State), data.length ≤ 4096 → data.length % 4 = 0 →
    PlainRange addr.toNat data.length → HostMay s addr.toNat data.length →
    ∃ t, exec (.mwr addr data) s = .next t ∧ (∀ i b, data[i]? = some b → t.byte (addr.toNat + i) = b) ∧
      BytesBut (fun a => addr.toNat ≤ a ∧ a < addr.toNat + data.length) s t ∧ Outside (fun u => { u with mem := [], poison := [], soft := [], ldtOld := [] }) s t) ∧
  (∀ (addr : BitVec 64) (len : Nat) (tag : BitVec 16) (s : State), len ≤ 4096 → len % 4 = 0 → PlainRange addr.toNat len →
    HostMay s addr.toNat len → Sound s addr.toNat len →
    ∃ t, exec (.mrd addr len tag) s = .next t ∧
      Sent s t { type := 3, addr := addr.toNat, tag := tag.toNat, data := (List.range len).map fun i => s.byte (addr.toNat + i) } ∧
      Outside (fun u => { u with hostOut := [] }) s t) ∧
  (∀ (addr : BitVec 64) (data : List Byte) (len : Nat) (tag : BitVec 16) (s : State), s.power = true →
    (¬ HostMay s addr.toNat data.length → data.length ≤ 4096 → data.length % 4 = 0 →
      ∃ t, exec (.mwr addr data) s = .next t ∧ LinkEvent s t 1 ∧ Outside (fun u => { u with dies := [] }) s t) ∧
    (¬ HostMay s addr.toNat len → len ≤ 4096 → len % 4 = 0 →
      ∃ t, exec (.mrd addr len tag) s = .next t ∧ LinkEvent s t 2 ∧ Outside (fun u => { u with dies := [] }) s t)) ∧
  (∀ (q : Nat) (v : Word64) (s : State),
    (Open s q → ∀ i ∈ [Instr.dbell q v, .qtailWrite q v],
      ∃ t, exec i s = .next t ∧ t.reg (rQTAIL q) = v ∧ RegsBut (· = rQTAIL q) s t ∧ Outside noRegs s t) ∧
    (¬ Open s q → ∀ i ∈ [Instr.dbell q v, .qtailWrite q v], exec i s = .next s)) ∧
  (∀ (type : BitVec 16) (s : State), s.power = true →
    (1 ≤ type.toNat → type.toNat ≤ 8 → exec (.unknownMessageType type) s = .next s) ∧
    (type.toNat = 0 ∨ 8 < type.toNat →
      ∃ t, exec (.unknownMessageType type) s = .next t ∧ LinkEvent s t type.toNat ∧ Outside (fun u => { u with dies := [] }) s t)) ∧
  (∀ (n : Nat) (s : State), s.power = true → n < 4 → s.link.getLsbD n = true →
    ∃ t, exec (.linkModuleDisable n) s = .next t ∧ t.link.getLsbD n = false ∧
      (∀ m, m ≠ n → t.link.getLsbD m = s.link.getLsbD m) ∧ LinkEvent s t n ∧
      Outside (fun u => { u with dies := [], link := 0 }) s t) ∧
  (∀ (d : Nat) (s : State), d ≤ 8 → s.power = true →
    ∃ t, exec (.flitCrcFailure d) s = .next t ∧
      t.regN (rTEL d 3) = min (s.regN (rTEL d 3) + 1) (2 ^ 64 - 1) ∧ RegsBut (· = rTEL d 3) s t ∧ Outside noRegs s t) ∧
  (∀ (o : Nat) (v : Word64) (s : State), s.power = true →
    (wholeWrite o → (waitsForReady o → s.bootState = 4) →
      ∃ t, exec (.registerWrite o v) s = .next t ∧ t.reg o = v ∧ RegsBut (· = o) s t ∧ Outside noRegs s t) ∧
    (neverWrites o → ∃ t, exec (.registerWrite o v) s = .next t ∧ RegsBut (fun _ => False) s t ∧ Outside noRegs s t) ∧
    (waitsForReady o → s.bootState ≠ 4 → exec (.registerWrite o v) s = .next s) ∧
    (∀ mask evs, starts o v = some (mask, evs) → (waitsForReady o → s.bootState = 4) →
      (o = rLDTCTL → bitAt (s.regN o) 0 = false) →
      ∃ t, exec (.registerWrite o v) s = .next t ∧ t.reg o = (s.reg o &&& ~~~(ofN mask)) ||| (v &&& ofN mask) ∧
        t.agenda = evs ++ s.agenda ∧ RegsBut (· = o) s t ∧ Outside (fun u => { noRegs u with agenda := [] }) s t)) ∧
  (∀ (q : Nat) (v : Word64) (s : State), s.power = true → q < 64 → s.bootState = 4 →
    ∃ t, exec (.registerWrite (rQCTL q) v) s = .next t ∧ t.reg (rQCTL q) = (s.reg (rQCTL q) &&& ~~~0x3FFFFF) ||| (v &&& 0x3FFFFF) ∧
      (bitAt (t.regN (rQSTAT q)) 1 = true ↔ bitAt v.toNat 0 = true ∧ (fld v.toNat 7 2 < 4 ∨ 16 < fld v.toNat 7 2)) ∧
      t.agenda = (if fld v.toNat 31 28 = 1 then [.qctlTeardown q] else if fld v.toNat 31 28 = 2 then [.qctlReset q] else []) ++ s.agenda ∧
      RegsBut (fun o => o = rQCTL q ∨ o = rQSTAT q) s t ∧ Outside (fun u => { noRegs u with agenda := [] }) s t) ∧
  (∀ (o : Nat) (tag : BitVec 16) (s : State), s.power = true → o ≠ rFROVF → o ≠ rEXTCTL →
    ∀ v : Word64, (readsZero o → v = 0) → (¬ readsZero o → v = s.reg o) →
      ∃ t, runEvent (.registerRead o tag) s = .next t ∧ Sent s t { type := 6, addr := o, tag := tag.toNat, data := toBytes 8 v.toNat } ∧
        Outside (fun u => { u with hostOut := [] }) s t) ∧
  (∀ (tag : BitVec 16) (s : State),
    ∃ t, exec (.frovfRead tag) s = .next t ∧ t.reg rFROVF = 0 ∧
      Sent s t { type := 6, addr := rFROVF, tag := tag.toNat, data := toBytes 8 (s.regN rFROVF) } ∧ RegsBut (· = rFROVF) s t ∧
      Outside (fun u => { noRegs u with hostOut := [] }) s t) ∧
  (∀ (q : Nat) (v : Word64) (s : State), q < 64 → s.bootState = 4 →
    ∃ t, exec (.cheadWrite q v) s = .next t ∧ t.reg (rCHEAD q) = v ∧
      (bitAt (t.regN (rQSTAT q)) 2 = true ↔ (s.regN (rCTAIL q) + 1) % entries s q = v.toNat % entries s q) ∧
      t.regF (rQSTAT q) 1 0 = s.regF (rQSTAT q) 1 0 ∧ RegsBut (fun o => o = rCHEAD q ∨ o = rQSTAT q) s t ∧ Outside noRegs s t)

/-- R28, R321 to R326: a queue reads its entries in order: a LAUNCH makes its RCB's region wait for admission, a POST gives its
record to the scheduler, a MARKER waits for the entries before it, and an unknown OP completes FAULTED; a completed entry gets its
record; and a teardown or reset cancels what has not been read and releases the regions that the queue launched. The model's
choice: readings of the queues (log 13, log 22). -/
def Obligations.QueueEvents : Prop :=
  (∀ (q i pa : Nat) (s : State) (g : Region) (bs : List Byte), Reads s q i → entryField s q i 0 1 = 1 →
    let asid := entryField s q i 2 2
    let rcb := ofN (entryField s q i 8 8)
    asid < 4096 → Mapped s (schedReq asid s.lead) accRead rcb pa → Mapped s (schedReq asid 0) accWrite rcb pa → Sound s pa 64 →
    bs = (List.range 64).map (fun j => s.byte (pa + j)) →
    ({ s with nextId := s.nextId + 1 } : State).regionOf asid rcb q (bitAt (entryField s q i 1 1) 1) bs = some g →
    dirtyByte s (pa + 0x0C) ≠ pa + 0x0C →
    ∃ t e, exec (.launch q) s = .next t ∧ HasRead s t q i e ∧ e.region = some g.id ∧ e.posted = false ∧
      t.regions = s.regions ++ [g] ∧ g.state = .waiting ∧ (t.byte (pa + 0x0C)).toNat = 1 ∧
      BytesBut (recTouched s pa 0x0C 1) s t ∧ RegsBut (· = rQHEAD q) s t ∧ Outside noQueue s t) ∧
  (∀ (q i pa : Nat) (s : State) (r g : Region), Reads s q i → entryField s q i 0 1 = 2 → entryField s q i 4 2 = 1 →
    let asid := entryField s q i 2 2
    let rcb := ofN (entryField s q i 8 8)
    let va := ofN (entryField s q i 0x10 8)
    s.regions.find? (fun u => u.rcb == rcb && u.rcbAsid == asid && u.admitted) = some r →
    Postable s asid va pa g r.id → RecordAt s asid (s.ownerDie va) va pa →
    let ready := field s pa 0x18 4 = 0
    ∃ t e u, exec (.post q) s = .next t ∧ HasRead s t q i e ∧ e.region = some r.id ∧ e.posted = true ∧ e.recs = [va] ∧
      t.tasks = s.tasks ++ [u] ∧ u.va = va ∧ u.asid = asid ∧ u.region = g.id ∧ (ready → u.state = .ready ∧ t.byte (pa + 0x2C) = 2) ∧
      (¬ ready → u.state = .waiting ∧ t.byte (pa + 0x2C) = 1) ∧
      BytesBut (recTouched s pa 0x2C 1) s t ∧ RegsBut (· = rQHEAD q) s t ∧ Outside noQueue s t) ∧
  (∀ (q i : Nat) (s : State), Reads s q i →
    (entryField s q i 0 1 = 3 → ∃ t e, exec (.marker q) s = .next t ∧ HasRead s t q i e ∧ e.done = false ∧
      (∀ a, t.byte a = s.byte a) ∧ RegsBut (· = rQHEAD q) s t ∧ Outside noQueue s t) ∧
    (entryField s q i 0 1 = 0 ∨ 4 ≤ entryField s q i 0 1 → ∃ t e, exec (.queueEntryBadOp q) s = .next t ∧ HasRead s t q i e ∧
      e.done = true ∧ e.status = 4 ∧ (∀ a, t.byte a = s.byte a) ∧ RegsBut (· = rQHEAD q) s t ∧ Outside noQueue s t)) ∧
  (∀ (n : Nat) (s : State) (e : QEntry), s.queue.find? (·.id == n) = some e → e.op ≠ 1 ∨ e.region = none →
    e.done = true ∨ (e.op = 2 ∧ e.posted = true ∧ e.recs = []) ∨ (e.op = 3 ∧ ∀ f ∈ s.queue, f.q = e.q → e.id ≤ f.id) →
    let c := entries s e.q
    let i := s.regN (rCTAIL e.q) % c
    let pa := s.regN (rCBASE e.q) + 32 * i
    (s.regN (rCTAIL e.q) + 1) % c ≠ s.regN (rCHEAD e.q) % c → HbmRange pa 32 → bitAt (s.regN (rQSTAT e.q)) 0 = false →
    ∃ t, exec (.queueCompletion n) s = .next t ∧ number 8 (fun j => t.byte (pa + j)) = e.user.toNat ∧
      number 4 (fun j => t.byte (pa + 8 + j)) = e.index % 2 ^ 32 ∧ (t.byte (pa + 12)).toNat = e.op % 256 ∧
      number 2 (fun j => t.byte (pa + 14 + j)) = (if e.op = 1 ∧ e.posted = false ∧ e.status = 0 then 1 else e.status % 2 ^ 16) ∧
      number 4 (fun j => t.byte (pa + 16 + j)) = e.nfault % 2 ^ 32 ∧ BytesBut (fun a => pa ≤ a ∧ a < pa + 32) s t ∧
      t.regN (rCTAIL e.q) = (i + 1) % c ∧ t.queue = s.queue.filter (·.id != n) ∧
      RegsBut (fun o => o = rCTAIL e.q ∨ o = rQSTAT e.q) s t ∧
      Outside (fun u => { noMem (noRegs u) with queue := [], hostOut := [], coal := [] }) s t) ∧
  (∀ (q : Nat) (s : State), ∀ ev ∈ [Instr.qctlTeardown q, .qctlReset q], q < 64 → s.bootState = 4 →
    bitAt (s.regN (rQSTAT q)) 0 = false → 4 ≤ s.regF (rQCTL q) 7 2 → s.regF (rQCTL q) 7 2 ≤ 16 → Unlisted s q → s.tasks = [] →
    (∀ i, i < entries s q → HbmRange (s.regN (rQBASE q) + 64 * i) 64 ∧ Sound s (s.regN (rQBASE q) + 64 * i) 64) →
    (∀ r ∈ s.regions, r.state ≠ .released → (∀ x, (s.ctx x).region ≠ r.id) ∧ r.parent = none ∧ Sole s r) →
    ∃ t, exec ev s = .next t ∧ t.reg (rQHEAD q) = s.reg (rQTAIL q) ∧
      t.queue.length = s.queue.length + unreadCount s q ∧ t.queue.take s.queue.length = s.queue ∧
      (∀ e ∈ t.queue.drop s.queue.length, e.q = q ∧ e.done = true ∧ e.status = 1) ∧
      (unreadCount s q = 0 → bitAt (t.regN (rQCTL q)) 0 = false ∧ bitAt (t.regN (rQSTAT q)) 0 = false) ∧
      (unreadCount s q ≠ 0 → bitAt (t.regN (rQSTAT q)) 0 = true) ∧
      (∀ r ∈ s.regions, r.queue = some q → ∃ u ∈ t.regions, u.id = r.id ∧ u.state = .released) ∧
      (∀ r ∈ s.regions, r.queue ≠ some q → r ∈ t.regions) ∧
      ∀ r ∈ s.regions, r.queue = some q → r.state ≠ .released → ∀ k, (s.core k).region = r.id → (t.core k).region = 0)

/-- R328, R336, R351: TLBINV drops the translations and the instruction-store lines of a page, of an ASID, or all; LDTCTL drops
cached entries of the logical-die table; and GO reads 0 once neither remains in use. The model's choice: when the invalidation is
done (log 17), that no access of a dropped translation is under way when GO clears (log 5), and the layout of a REMAP entry (log
22). -/
def Obligations.TranslationEvents : Prop :=
  (∀ (d : Nat) (v : Word64) (s : State),
    let asid := fld v.toNat 15 4
    let page := fld v.toNat 63 16
    (Invalidates s d 0 v → ∃ t, exec (.tlbinvPage d v) s = .next t ∧ Invalidated s t d ∧
      (∀ e, e ∈ (t.die d).tlb ↔ e ∈ (s.die d).tlb ∧
        ¬ (e.asid = asid ∧ if e.big = true then e.page = page / 32 * 32 else e.page = page)) ∧
      (∀ c, c ≠ d → t.die c = s.die c) ∧
      LinesBut (fun l => l.asid = asid ∧ s.homeDie (l.block * 4096) = some d ∧
        let p := l.block * 4096 % 2 ^ 49 / 65536
        p = page ∨ ((l.big = true ∨ ∃ e ∈ (s.die d).tlb, e.big = true ∧ e.asid = asid ∧ e.page = page / 32 * 32) ∧ p / 32 = page / 32)) s t) ∧
    (Invalidates s d 1 v → ∃ t, exec (.tlbinvAsid d v) s = .next t ∧ Invalidated s t d ∧ TlbBut d (fun e => e.asid = asid) s t ∧
      LinesBut (fun l => l.asid = asid) s t) ∧
    (Invalidates s d 2 v → ∃ t, exec (.tlbinvAll d v) s = .next t ∧ Invalidated s t d ∧ TlbBut d (fun _ => True) s t ∧
      LinesBut (fun _ => True) s t) ∧
    (d ≤ 8 → ∃ t, exec (.tlbinvDone d) s = .next t ∧ bitAt (t.regN (rTLBINV d)) 0 = false ∧ RegsBut (· = rTLBINV d) s t ∧
      Outside noRegs s t)) ∧
  (∀ (l : Nat) (s : State), l < 32768 → s.bootState = 4 → bitAt (s.regN rLDTCTL) 0 = false →
    ∃ t, exec (.ldtctlDrop l) s = .next t ∧ t.regN rLDTCTL = 1 + l * 2 ^ 16 ∧ fget? t.ldtCache l = none ∧
      (∀ m, m ≠ l → fget? t.ldtCache m = fget? s.ldtCache m) ∧ RegsBut (· = rLDTCTL) s t ∧
      Outside (fun u => { noRegs u with ldtCache := [], ldtOld := [] }) s t) ∧
  (∀ s : State, s.bootState = 4 → bitAt (s.regN rLDTCTL) 0 = false →
    ∃ t, exec .ldtctlDropAll s = .next t ∧ t.regF rLDTCTL 1 0 = 3 ∧ t.ldtCache = [] ∧ RegsBut (· = rLDTCTL) s t ∧
      Outside (fun u => { noRegs u with ldtCache := [], ldtOld := [] }) s t) ∧
  (∀ s : State, bitAt (s.regN rLDTCTL) 0 = true → s.ldtOld = [] →
    ∃ t, exec .ldtctlDone s = .next t ∧ bitAt (t.regN rLDTCTL) 0 = false ∧ RegsBut (· = rLDTCTL) s t ∧ Outside noRegs s t) ∧
  (∀ (s : State) (l : Nat) (e n : Word64), bitAt (s.regN rLDTCTL) 0 = true → s.ldtOld = [(l, e)] → s.ldtEntry l = n →
    bitAt (s.regN rLDTCTL) 1 = true ∨ s.regF rLDTCTL 30 16 = l →
    bitAt n.toNat 0 = true → fld e.toNat 16 1 ≠ fld n.toNat 16 1 →
    ∃ t, exec .ldtctlDone s = .next t ∧ t.ldtOld = [] ∧
      (∃ f ∈ (t.die s.lead).strata, f.kind = 7 ∧ f.detail = toBytes 8 l ++ toBytes 8 e.toNat ++ toBytes 8 n.toNat) ∧
      bitAt (t.regN rLDTCTL) 0 = false ∧ RegsBut (· = rLDTCTL) s t ∧ Outside (fun u => { noRegs u with dies := [], ldtOld := [] }) s t)

namespace Sys2Proof.Rules

/-! ### The whole machine -/

/-- A word and an extension word as one number, the extension word above. -/
def two (w x : Nat) : Nat := w + x * 2 ^ 32

/-- The worked encodings of the spec's instruction chapters: the words and the instruction that they stand for. -/
def worked : List (Nat × Instr) := [
  (0x00104104, .add { sk := false, d := 1, a := 1, b := 1, wa := false, wb := false }),
  (two 0x18004000 0x00000001, .li { sk := false, d := 1, i31 := false, imm := 1 }),
  (two 0x18800000 0x7FFFFFFD, .br { dis := false, off := -3 }),
  (two 0x19001600 0x7FFFFFEF, .bc 0 { a := 22, b := 0, wa := false, wb := false, off := -17 }),
  (two 0x28614268 0x00400003,
    .ldD { sk := false, d := 5, a := 2, cls := 3, ord := 1, wa := false, disp := 64, stride := 0, scope := 3 }),
  (two 0x38910A28 0x00000002,
    .atcas { sk := false, d := 4, a := 10, cls := 1, ord := 1, opt := false, wa := false, wd := false, disp := 0, stride := 0,
             scope := 2 }),
  (0x40000200, .fence { scope := 2, kind := 0 }),
  (0x40C0D400, .cwr { cr := 3, a := 20, wa := false }),
  (two 0x58180202 0x00400200,
    .vsub { sk := false, w := 2, d := 1, a := 2, b := 1, c := 0, p := 1, wa := false, wb := false, wc := false, fi := false,
            fo := false, sat := false, sub := 0 }),
  (two 0x5A280201 0x00800000,
    .vcmp 2 { sk := false, w := 2, d := 1, a := 1, b := 2, c := 0, p := 0, wa := false, wb := false, wc := false, fi := false,
              fo := false, sat := false, sub := 0 }),
  (two 0x69643014 0x05410606,
    .vtopk { sk := false, w := 1, d := 24, a := 20, b := 21, c := 8, p := 3, wa := false, wb := false, wc := false, fi := false,
             fo := false, sat := false, sub := 6 }),
  (two 0x7C100200 0x10000800,
    .vst { sk := true, w := 0, v := 1, s := 0, wb := false, wv := false, disp := 2048, stride := 16, cls := 0, p := 0 }),
  (0x80402010, .fisect { sk := false, d := 2, x := 0, y := 1 }),
  (two 0x88603220 0x00001028,
    .fmerge { sk := false, fo := 3, fu := 2, fmt := 0, z := true, a := 4, wa := false, b := 5, wb := false }),
  (0xA0302290, .hset { sk := false, h := 1, field := 1, a := 18, wa := false }),
  (two 0xB900080A 0x00000001,
    .mmaBf16 { sk := false, qe := false, q := 0, b := 1, ga := 0, gb := 1, ka := false, kb := true, wit := false, km := 1 }),
  (two 0xBC500000 0x0001000A,
    .acrd { sk := true, qe := false, q := 0, b := 0, row := 0, h := false, stride := 1, vd := 10 }),
  (0xC0102020, .copy { sk := false, qe := false, q := 0, hd := 1, hs := 0, cid := 1, ds := false, dt := false }),
  (two 0xD8106300 0x00001C00, .tmode { mode := 3, a := 6, wa := false, b := 7, wb := false }),
  (0xD0401598, .tfwd { sk := false, qe := false, q := 0, a := 5, wa := false, ph := 3, w := 3 })]

/-- n bytes of code from an address of its core's scratchpad on, as context x fetches them: its own gated stores come before what
memory holds (R85, R310). -/
def code (s : State) (x a n : Nat) : Nat :=
  number n fun i => match gateByte (s.ctx x).gate (ofN (a + i)) with
    | some b => b.1
    | none => s.byte (scratchBase (coreOf x) + a + i)

/-- What one bundle issue of context x fetches (R111, R124): a header at the context's pc with the presence bit of slot n alone, and
no K, GROUP or Y bit, then the words w and e of that slot, in the scratchpad of the context's core, at one 4 KB block that its
instruction store does not hold. -/
structure OneSlot (s : State) (x n h w e : Nat) : Prop where
  slot : n ≤ 8
  header : 0xF0000000 ≤ h ∧ h < 2 ^ 32
  alone : ∀ i, i ≤ 8 → (bitAt h (27 - i) = true ↔ i = n)
  options : fld h 14 12 = 0 ∧ fld h 10 0 = 0
  here : (s.ctx x).pc.toNat % 4 = 0 ∧ (s.ctx x).pc.toNat % 4096 ≤ 4084 ∧ (s.ctx x).pc.toNat < 0x300000
  unheld : (s.core (coreOf x)).istore = []
  sound : Sound s (scratchBase (coreOf x) + (s.ctx x).pc.toNat / 4096 * 4096) 4096
  first : code s x (s.ctx x).pc.toNat 4 = h
  word : code s x ((s.ctx x).pc.toNat + 4) 4 = w
  ext : (if bitAt w 27 = true then code s x ((s.ctx x).pc.toNat + 8) 4 else 0) = e
  long : n = 1 ∨ n = 2 → bitAt w 27 = true

/-- Context x is about to issue, alone (R12, R39, R40), with nothing deferred, from the start of an issue whose only slot is n: no
other slot is armed. -/
structure AboutToIssue (s : State) (x n : Nat) : Prop where
  running : (s.ctx x).state = .running ∧ (s.core (coreOf x)).issuing = x % 4
  going : (s.core (coreOf x)).halting = false ∧ (s.ctx x).stopped = false ∧ (s.ctx x).ended = false
  solitary : (s.ctx x).seif = 0
  untrapped : (s.ctx x).deferred = []
  start : (s.ctx x).slot ≤ n
  unarmed : ∀ i, i ≠ n → fget? (s.ctx x).live.armed i = none

/-- The issue in progress, as a bundle issue of context x begins it. -/
def issueAt (s : State) (x n h w : Nat) : Cursor :=
  { s.cur with
    x := x, slot := n, k := (s.ctx x).j, pc := (s.ctx x).pc, next := (s.ctx x).pc + (if bitAt w 27 = true then 12 else 8),
    rep := fld h 18 15, isEnd := bitAt h 11, j := (s.ctx x).j, atEnd := none }

/-- What a step does with the outcome of an instruction: the cycles of the step pass. -/
def passes (o : Host.Outcome State Fault Refusal) : Host.Outcome State Fault Refusal :=
  match o with
  | .next t => .next t.tick
  | .fault e => .fault e
  | .refused r => .refused r

/-- Numbers in a list are below a bound and pairwise distinct. -/
def Numbered (l : List Nat) (bound : Nat) : Prop := (∀ n ∈ l, n < bound) ∧ l.Nodup

/-- Every core of the machine: those that stand, and those in hardpan slots. -/
def EveryCore (s : State) (p : Core → Prop) : Prop := (∀ e ∈ s.cores, p e.2) ∧ ∀ e ∈ s.hard, p e.2.core

/-- Posted records, queue entries, regions and copies bear numbers that have been given out, each of its own, and a region's cores
are distinct cores of the module. -/
def NumbersFresh (s : State) : Prop :=
  Numbered (s.tasks.map (·.id)) s.nextId ∧ Numbered (s.queue.map (·.id)) s.nextId ∧ Numbered (s.regions.map (·.id)) s.nextId ∧
    (∀ r ∈ s.regions, Numbered r.place 216) ∧ EveryCore s fun c => Numbered (c.copies.map (·.id)) c.seq

/-- The cells of an accumulator bank and of a counter set are in canonical form. -/
def StoresFormed (s : State) : Prop :=
  EveryCore s fun c => (∀ b ∈ c.banks, fwf 0 b.2.cells = true) ∧
    ∀ n ∈ c.csets, fwf CCell.zero n.2.cells = true ∧ ∀ e ∈ n.2.cells, fwf 0 e.2.cnt = true

/-- Every step from a state with a property that answers a next state answers one with the property. -/
def KeptBySteps (p : State → Prop) : Prop := ∀ s t : State, p s → Machine.step s = .next t → p t

end Sys2Proof.Rules

open Sys2Proof Sys2Proof.Machine Sys2Proof.Safety Sys2Proof.Rules

/-- R114 to R119, R130: encoding a well-formed slot instruction and decoding its words gives it back, with every operand at every
value that its encoding admits. -/
def Obligations.EncodeDecodeRoundTrip : Prop :=
  ∀ i : Instr, i.wellFormed = true → encode i ≠ [] → decodeBytes (encodeBytes i) = some i

/-- R114 to R119: the words that the spec works out for 20 instructions decode to them; a word with a major that names no slot, a
minor that the spec does not assign, or a bit that its form does not use is no instruction (R131). -/
def Obligations.DecodeWords : Prop :=
  (∀ p ∈ worked, decodeTableWord 64 p.1 = some p.2) ∧
  (∀ w ∈ [0xF0000000, 0x01E00000, 0x00104104 + 2 ^ 27, 0x40000203, 0x80E00000, two 0x18004008 1, two 0x69643014 0x05410626],
    decodeTableWord 64 w = none)

/-- R111, R112, R122, R124: where the words at a context's pc are a bundle whose only slot holds a decoded instruction, the issue
of that bundle is that instruction's issue, from a state that differs in the issue in progress and in the block that the core now
holds; then the cycles of the step pass. BUNDLE_ISSUE itself does the same; and where the instruction is a register-register
operation with full sources, it answers a next state with the result in S[d] and the context at what follows. The model's choice:
the agenda and the cycles of a step (log 3, log 6). -/
def Obligations.StepRunsBundle : Prop :=
  (∀ (s : State) (x n h w e : Nat) (i : Instr) (rest : List Event), OneSlot s x n h w e → AboutToIssue s x n →
    decodeSlot n w e = some i →
    ∃ s' : State, s'.cur = issueAt s x n h w ∧ (∀ y, s'.ctx y = s.ctx y) ∧ (∀ k, k ≠ coreOf x → s'.core k = s.core k) ∧
      { s'.core (coreOf x) with istore := [] } = s.core (coreOf x) ∧ (∀ a, s'.byte a = s.byte a) ∧
      { s' with cores := s.cores, cur := s.cur } = s ∧
      exec (.bundleIssue x) s = exec i s' ∧
      Machine.step { s with agenda := .bundleIssue x :: rest } = passes (exec i { s' with agenda := rest })) ∧
  (∀ (s : State) (x n h w e : Nat) (i : Instr) (r : RR) (f : Word64 → Word64 → Word64), OneSlot s x n h w e → AboutToIssue s x n →
    decodeSlot n w e = some i → binary i = some (r, f) →
    let u : State := { s with cur := issueAt s x n h w }
    Plain u → full u (srcRR r) →
    ∃ t, exec (.bundleIssue x) s = .next t ∧
      (t.ctx x).live.sv r.d = (if r.d = 0 then 0 else f ((s.ctx x).live.sv r.a) ((s.ctx x).live.sv r.b)) ∧
      (t.ctx x).point = onward u.cur ∧ (∀ a, t.byte a = s.byte a) ∧ ∀ y, coreOf y ≠ coreOf x → t.ctx y = s.ctx y)

/-- Every step keeps memory in its canonical form. The model's choice: the form of memory (log 1). -/
def Obligations.StepKeepsMemoryForm : Prop :=
  KeptBySteps Inv

/-- Every step keeps the cells of every accumulator bank and counter set in canonical form. The model's choice: the form of these
stores (log 2). -/
def Obligations.StepKeepsUnitStores : Prop :=
  KeptBySteps StoresFormed

/-- Every step keeps the numbers of posted records, queue entries, regions and copies distinct and below the next number to be
given out, and the cores of a region distinct cores of the module. The model's choice: the numbers themselves (log 3). -/
def Obligations.StepKeepsNumbersFresh : Prop :=
  KeptBySteps NumbersFresh

/-- R39, R46, R320, R352: the machine at reset: module registers at their Reset column, every context IDLE in task mode with the
control registers that R46 gives a reset value at it, no bank, ring or port held, empty translation and instruction stores, no
region, record or queue entry, and memory, bank cells and numbers in the form that every step keeps. Where the spec gives no reset
value the model's is 0 (log 1, log 2). -/
def Obligations.ResetState : Prop :=
  let s := State.reset
  s.power = true ∧ s.time = 0 ∧ s.bootState = 0 ∧ (∀ a, s.byte a = 0) ∧
  s.reg 0 = 0x02010D08 ∧ (∀ d, d ≤ 8 → s.reg (rCOREMASK d) = 0xFFFFFF) ∧
  (∀ o, o ≠ 0 → (∀ d, d ≤ 8 → o ≠ rCOREMASK d) → s.reg o = 0) ∧
  (∀ x, (s.ctx x).state = .idle ∧ (s.ctx x).live.sw = 0 ∧ (s.ctx x).live.rseed = 0 ∧ (s.ctx x).ctl.tpc = 0 ∧
    (s.ctx x).ctl.tsw = 0 ∧ (s.ctx x).ctl.tcause = 0 ∧ (s.ctx x).ctl.tinfo = 0 ∧ (∀ r, (s.ctx x).live.sv r = 0) ∧
    (s.ctx x).ports = [] ∧ (s.ctx x).gate = [] ∧ (s.ctx x).deferred = []) ∧
  (∀ k, (s.core k).hbp = 0 ∧ (s.core k).region = 0 ∧ (s.core k).istore = [] ∧ (s.core k).ringOf = [] ∧ (s.core k).copies = [] ∧
    (∀ b, ((s.core k).bank b).owned = false) ∧ (∀ n, ((s.core k).cset n).owned = false)) ∧
  (∀ d, (s.die d).tlb = [] ∧ (s.die d).strata = []) ∧ s.regions = [] ∧ s.tasks = [] ∧ s.queue = [] ∧
  Inv s ∧ StoresFormed s ∧ NumbersFresh s
end

