-- ==== Sys2Proof/Laws/FMap.lean ====
section
/-! SUPPORT. Laws/FMap.lean: reading a finite map after a write, and the canonical form that every write keeps. The reading laws
hold of any list, canonical or not. -/

namespace Sys2Proof.Machine

variable {α : Type}

@[simp] theorem fget_nil (d : α) (k : Nat) : fget d [] k = d := rfl
@[simp] theorem fget?_nil (k : Nat) : fget? ([] : FMap α) k = none := rfl

theorem fget_eq (d : α) (m : FMap α) (k : Nat) : fget d m k = (fget? m k).getD d := by
  induction m with
  | nil => rfl
  | cons e m ih =>
    obtain ⟨j, v⟩ := e
    simp only [fget, fget?]
    split
    · rfl
    · exact ih

@[simp] theorem fget?_fput_same (m : FMap α) (k : Nat) (v : α) : fget? (fput m k v) k = some v := by
  induction m with
  | nil => simp [fput, fget?]
  | cons e m ih =>
    obtain ⟨j, w⟩ := e
    unfold fput
    split
    · simp [fget?]
    · split
      · simp [fget?]
      · simp only [fget?]
        rw [if_neg (by omega)]
        exact ih

theorem fget?_fput_ne (m : FMap α) {k k' : Nat} (v : α) (h : k' ≠ k) : fget? (fput m k v) k' = fget? m k' := by
  induction m with
  | nil => simp [fput, fget?, h]
  | cons e m ih =>
    obtain ⟨j, w⟩ := e
    unfold fput
    split
    · simp [fget?, h]
    · split
      · next hkj =>
        subst hkj
        simp [fget?, h]
      · simp only [fget?, ih]

@[simp] theorem fget?_fdel_same (m : FMap α) (k : Nat) : fget? (fdel m k) k = none := by
  induction m with
  | nil => rfl
  | cons e m ih =>
    obtain ⟨j, w⟩ := e
    unfold fdel
    split
    · exact ih
    · next h => simp [fget?, h, ih]

theorem fget?_fdel_ne (m : FMap α) {k k' : Nat} (h : k' ≠ k) : fget? (fdel m k) k' = fget? m k' := by
  induction m with
  | nil => rfl
  | cons e m ih =>
    obtain ⟨j, w⟩ := e
    unfold fdel
    split
    · next hkj =>
      subst hkj
      simp [fget?, h, ih]
    · simp only [fget?, ih]

@[simp] theorem fget_fput_same (d : α) (m : FMap α) (k : Nat) (v : α) : fget d (fput m k v) k = v := by
  simp [fget_eq]

theorem fget_fput_ne (d : α) (m : FMap α) {k k' : Nat} (v : α) (h : k' ≠ k) : fget d (fput m k v) k' = fget d m k' := by
  simp [fget_eq, fget?_fput_ne m v h]

@[simp] theorem fget_fdel_same (d : α) (m : FMap α) (k : Nat) : fget d (fdel m k) k = d := by
  simp [fget_eq]

theorem fget_fdel_ne (d : α) (m : FMap α) {k k' : Nat} (h : k' ≠ k) : fget d (fdel m k) k' = fget d m k' := by
  simp [fget_eq, fget?_fdel_ne m h]

@[simp] theorem fget_fset_same [DecidableEq α] (d : α) (m : FMap α) (k : Nat) (v : α) : fget d (fset d m k v) k = v := by
  unfold fset
  split
  · next h => rw [fget_fdel_same, h]
  · exact fget_fput_same d m k v

theorem fget_fset_ne [DecidableEq α] (d : α) (m : FMap α) {k k' : Nat} (v : α) (h : k' ≠ k) :
    fget d (fset d m k v) k' = fget d m k' := by
  unfold fset
  split
  · exact fget_fdel_ne d m h
  · exact fget_fput_ne d m v h

theorem fget_fset_other [DecidableEq α] (d d' : α) (m : FMap α) {k k' : Nat} (v : α) (h : k' ≠ k) :
    fget d (fset d' m k v) k' = fget d m k' := by
  unfold fset
  split
  · exact fget_fdel_ne d m h
  · exact fget_fput_ne d m v h

theorem fget_fset [DecidableEq α] (d : α) (m : FMap α) (k k' : Nat) (v : α) :
    fget d (fset d m k v) k' = if k' = k then v else fget d m k' := by
  by_cases h : k' = k
  · subst h; simp
  · simp [h, fget_fset_ne d m v h]

theorem fget_fput (d : α) (m : FMap α) (k k' : Nat) (v : α) :
    fget d (fput m k v) k' = if k' = k then v else fget d m k' := by
  by_cases h : k' = k
  · subst h; simp
  · simp [h, fget_fput_ne d m v h]

@[simp] theorem fhas_fput_same (m : FMap α) (k : Nat) (v : α) : fhas (fput m k v) k = true := by simp [fhas]
@[simp] theorem fhas_fdel_same (m : FMap α) (k : Nat) : fhas (fdel m k) k = false := by simp [fhas]

/-- The later of two writes to one key stands. -/
@[simp] theorem fput_fput (m : FMap α) (k : Nat) (v w : α) : fput (fput m k v) k w = fput m k w := by
  induction m with
  | nil => simp [fput]
  | cons e m ih =>
    obtain ⟨j, u⟩ := e
    by_cases h1 : k < j
    · simp [fput, h1]
    · by_cases h2 : k = j
      · subst h2
        simp [fput]
      · simp [fput, h1, h2, ih]

/-- A key that holds an entry lists it. -/
theorem fget?_mem {m : FMap α} {k : Nat} {v : α} (h : fget? m k = some v) : (k, v) ∈ m := by
  induction m with
  | nil => cases h
  | cons e m ih =>
    by_cases hk : k = e.1
    · rw [show fget? (e :: m) k = some e.2 from if_pos hk] at h
      cases h
      exact hk ▸ List.mem_cons_self
    · exact List.mem_cons_of_mem _ (ih (by rwa [show fget? (e :: m) k = fget? m k from if_neg hk] at h))

/-- Every key of a map lies above k. -/
def above (k : Nat) (m : FMap α) : Prop := ∀ e ∈ m, k < e.1

theorem above_mono {j k : Nat} {m : FMap α} (h : j < k) (ha : above k m) : above j m := fun e he => Nat.lt_trans h (ha e he)

theorem above_cons {i j : Nat} {v : α} {m : FMap α} (h : i < j) (ha : above j m) : above i ((j, v) :: m) :=
  List.forall_mem_cons.2 ⟨h, above_mono h ha⟩

/-- Writing back the entry that a key holds changes nothing. -/
theorem fput_self (m : FMap α) {k : Nat} {v : α} (h : fget? m k = some v) (hs : m.Pairwise fun a b => a.1 < b.1) :
    fput m k v = m := by
  induction m with
  | nil => simp at h
  | cons e m ih =>
    have hs := List.pairwise_cons.1 hs
    by_cases hk : k = e.1
    · rw [show fget? (e :: m) k = some e.2 from if_pos hk] at h
      cases h
      simp [fput, hk]
    · rw [show fget? (e :: m) k = fget? m k from if_neg hk] at h
      have hlt : e.1 < k := hs.1 _ (fget?_mem h)
      simp [fput, hk, Nat.not_lt.2 (Nat.le_of_lt hlt), ih h hs.2]

theorem fdel_absent (m : FMap α) {k : Nat} (h : fget? m k = none) : fdel m k = m := by
  induction m with
  | nil => rfl
  | cons e m ih =>
    obtain ⟨j, w⟩ := e
    simp only [fget?] at h
    unfold fdel
    split at h
    · simp at h
    · next hne => rw [if_neg hne, ih h]

/-! ### The canonical form -/

/-- The canonical form as two plain facts: the keys rise, and no value is the default. -/
theorem fwf_iff [DecidableEq α] (d : α) (m : FMap α) :
    fwf d m = true ↔ m.Pairwise (fun a b => a.1 < b.1) ∧ ∀ e ∈ m, e.2 ≠ d := by
  induction m with
  | nil => simp [fwf]
  | cons e m ih =>
    cases m with
    | nil => simp [fwf]
    | cons f m =>
      have hw : fwf d (e :: f :: m) = true ↔ (e.2 ≠ d ∧ e.1 < f.1) ∧ fwf d (f :: m) = true := by simp [fwf]
      have hr : (∀ g ∈ f :: m, e.1 < g.1) ∧ (f :: m).Pairwise (fun a b => a.1 < b.1) ↔
          e.1 < f.1 ∧ (f :: m).Pairwise (fun a b => a.1 < b.1) :=
        ⟨fun h => ⟨h.1 f List.mem_cons_self, h.2⟩, fun h => ⟨above_cons h.1 (List.pairwise_cons.1 h.2).1, h.2⟩⟩
      refine hw.trans ⟨fun h => ?_, fun h => ?_⟩
      · have hm := ih.1 h.2
        exact ⟨.cons (hr.2 ⟨h.1.2, hm.1⟩).1 hm.1, List.forall_mem_cons.2 ⟨h.1.1, hm.2⟩⟩
      · have hp := List.pairwise_cons.1 h.1
        have hv := List.forall_mem_cons.1 h.2
        exact ⟨⟨hv.1, (hr.1 hp).1⟩, ih.2 ⟨hp.2, hv.2⟩⟩

theorem fput_mem {m : FMap α} {k : Nat} {v : α} {e : Nat × α} (h : e ∈ fput m k v) : e = (k, v) ∨ e ∈ m := by
  induction m with
  | nil => simpa [fput] using h
  | cons f m ih =>
    unfold fput at h
    split at h
    · exact List.mem_cons.1 h
    · split at h
      · exact (List.mem_cons.1 h).imp_right (List.mem_cons_of_mem _)
      · obtain rfl | h := List.mem_cons.1 h
        · exact .inr List.mem_cons_self
        · exact (ih h).imp_right (List.mem_cons_of_mem _)

theorem fdel_mem {m : FMap α} {k : Nat} {e : Nat × α} (h : e ∈ fdel m k) : e ∈ m := by
  induction m with
  | nil => exact h
  | cons f m ih =>
    unfold fdel at h
    split at h
    · exact List.mem_cons_of_mem _ (ih h)
    · exact List.mem_cons.2 ((List.mem_cons.1 h).imp_right ih)

theorem above_fput {j k : Nat} {m : FMap α} (v : α) (h : j < k) (ha : above j m) : above j (fput m k v) :=
  fun _ he => (fput_mem he).elim (fun hk => hk ▸ h) (ha _)

theorem fput_rises {m : FMap α} (k : Nat) (v : α) (h : m.Pairwise fun a b => a.1 < b.1) :
    (fput m k v).Pairwise fun a b => a.1 < b.1 := by
  induction m with
  | nil => simp [fput]
  | cons f m ih =>
    have hm := List.pairwise_cons.1 h
    unfold fput
    rcases Nat.lt_trichotomy k f.1 with hlt | heq | hgt
    · rw [if_pos hlt]
      exact .cons (above_cons hlt hm.1) h
    · rw [if_neg (by omega), if_pos heq]
      exact .cons (heq ▸ hm.1) hm.2
    · rw [if_neg (by omega), if_neg (by omega)]
      exact .cons (above_fput v (by omega) hm.1) (ih hm.2)

theorem fdel_rises {m : FMap α} (k : Nat) (h : m.Pairwise fun a b => a.1 < b.1) :
    (fdel m k).Pairwise fun a b => a.1 < b.1 := by
  induction m with
  | nil => exact h
  | cons f m ih =>
    have hm := List.pairwise_cons.1 h
    unfold fdel
    split
    · exact ih hm.2
    · exact .cons (fun e he => hm.1 e (fdel_mem he)) (ih hm.2)

/-- A write keeps the canonical form. -/
theorem fset_wf [DecidableEq α] (d : α) {m : FMap α} (k : Nat) (v : α) (h : fwf d m = true) : fwf d (fset d m k v) = true := by
  rw [fwf_iff] at h ⊢
  unfold fset
  split
  · exact ⟨fdel_rises k h.1, fun e he => h.2 e (fdel_mem he)⟩
  · next hv =>
    exact ⟨fput_rises k v h.1, fun _ he => (fput_mem he).elim (fun hk => hk ▸ hv) (h.2 _)⟩

end Sys2Proof.Machine
end

