-- ==== Sys2Proof/Laws/Memory.lean ====
section
/-! SUPPORT. Laws/Memory.lean: what a byte reads as after a write, and that every memory operation keeps the canonical form. -/

namespace Sys2Proof.Machine

theorem fget_memPut (m : Memory) (pa : Nat) (bs : List Byte) (a : Nat) :
    fget unwritten (memPut m pa bs) a =
      if pa ≤ a ∧ a < pa + bs.length then bs.getD (a - pa) unwritten else fget unwritten m a := by
  induction bs generalizing m pa with
  | nil =>
    have h : ¬ (pa ≤ a ∧ a < pa + ([] : List Byte).length) := by
      simp only [List.length_nil]
      omega
    rw [if_neg h]
    rfl
  | cons b bs ih =>
    rw [memPut, ih, fget_fset]
    simp only [List.length_cons]
    by_cases h : a = pa
    · subst h
      rw [if_neg (by omega)]
      simp
    · by_cases h2 : pa + 1 ≤ a ∧ a < pa + 1 + bs.length
      · rw [if_pos h2, if_pos (by omega)]
        have : a - pa = (a - (pa + 1)) + 1 := by omega
        rw [this, List.getD_cons_succ]
      · rw [if_neg h2, if_neg h, if_neg (by omega)]

theorem memPut_wf (m : Memory) (pa : Nat) (bs : List Byte) (h : m.wf = true) : (memPut m pa bs).wf = true := by
  induction bs generalizing m pa with
  | nil => exact h
  | cons b bs ih => exact ih _ _ (fset_wf unwritten pa b h)

/-- A write is read back, and every other byte stays. -/
theorem write_byte (s : State) (pa : Nat) (bs : List Byte) (a : Nat) :
    (s.write pa bs).byte a = if pa ≤ a ∧ a < pa + bs.length then bs.getD (a - pa) unwritten else s.byte a :=
  fget_memPut s.mem pa bs a

theorem write_byte_outside (s : State) {pa : Nat} {bs : List Byte} {a : Nat} (h : a < pa ∨ pa + bs.length ≤ a) :
    (s.write pa bs).byte a = s.byte a := by
  rw [write_byte, if_neg (by omega)]

theorem bytes_length (s : State) (pa n : Nat) : (s.bytes pa n).length = n := by simp [State.bytes, upTo]

theorem bytes_get (s : State) (pa n i : Nat) (h : i < n) : (s.bytes pa n).getD i 0 = s.byte (pa + i) := by
  simp [State.bytes, upTo, List.getD_eq_getElem?_getD, h]

/-- The bytes written are read back. -/
theorem write_bytes_same (s : State) (pa : Nat) (bs : List Byte) : (s.write pa bs).bytes pa bs.length = bs := by
  apply List.ext_getElem
  · simp [bytes_length]
  · intro i h1 h2
    have h : (s.write pa bs).byte (pa + i) = bs[i] := by
      rw [write_byte, if_pos (by omega)]
      simp [List.getD_eq_getElem?_getD, h2]
    simpa [State.bytes, upTo] using h

/-- Bytes of a range that a write does not touch are unchanged. -/
theorem write_bytes_outside (s : State) {pa qa n : Nat} {bs : List Byte} (h : qa + n ≤ pa ∨ pa + bs.length ≤ qa) :
    (s.write pa bs).bytes qa n = s.bytes qa n := by
  unfold State.bytes upTo
  refine List.map_congr_left fun i hi => ?_
  have := List.mem_range.1 hi
  exact write_byte_outside s (by omega)

theorem write_wf (s : State) (pa : Nat) (bs : List Byte) (h : s.mem.wf = true) : (s.write pa bs).mem.wf = true :=
  memPut_wf s.mem pa bs h

theorem markDirty_wf (s : State) (pa : Nat) (h : s.mem.wf = true) : (s.markDirty pa).mem.wf = true := write_wf s _ _ h

theorem writeMapped_wf (s : State) (pa : Nat) (bs : List Byte) (h : s.mem.wf = true) : (s.writeMapped pa bs).mem.wf = true :=
  write_wf _ _ _ (markDirty_wf s pa h)

@[simp] theorem poisonWords_mem (s : State) (pa n : Nat) : (s.poisonWords pa n).mem = s.mem := rfl

end Sys2Proof.Machine
end

