-- ==== Sys2Proof/Laws/State.lean ====
section
/-! SUPPORT. Laws/State.lean: what each update of the state leaves as it was, one lemma per field per update, and what reading
a context, a core, a die or a register gives after an update. -/

namespace Sys2Proof.Machine

/-! ### setCtx -/

@[simp] theorem setCtx_power (s : State) (x : Nat) (c : Ctx) : (s.setCtx x c).power = s.power := rfl
@[simp] theorem setCtx_time (s : State) (x : Nat) (c : Ctx) : (s.setCtx x c).time = s.time := rfl
@[simp] theorem setCtx_withheld (s : State) (x : Nat) (c : Ctx) : (s.setCtx x c).withheld = s.withheld := rfl
@[simp] theorem setCtx_mem (s : State) (x : Nat) (c : Ctx) : (s.setCtx x c).mem = s.mem := rfl
@[simp] theorem setCtx_poison (s : State) (x : Nat) (c : Ctx) : (s.setCtx x c).poison = s.poison := rfl
@[simp] theorem setCtx_tags (s : State) (x : Nat) (c : Ctx) : (s.setCtx x c).tags = s.tags := rfl
@[simp] theorem setCtx_regs (s : State) (x : Nat) (c : Ctx) : (s.setCtx x c).regs = s.regs := rfl
@[simp] theorem setCtx_arrayErr (s : State) (x : Nat) (c : Ctx) : (s.setCtx x c).arrayErr = s.arrayErr := rfl
@[simp] theorem setCtx_soft (s : State) (x : Nat) (c : Ctx) : (s.setCtx x c).soft = s.soft := rfl
@[simp] theorem setCtx_dies (s : State) (x : Nat) (c : Ctx) : (s.setCtx x c).dies = s.dies := rfl
@[simp] theorem setCtx_cores (s : State) (x : Nat) (c : Ctx) : (s.setCtx x c).cores = s.cores := rfl
theorem setCtx_ctxs (s : State) (x : Nat) (c : Ctx) : (s.setCtx x c).ctxs = fput s.ctxs x c := rfl
@[simp] theorem setCtx_hard (s : State) (x : Nat) (c : Ctx) : (s.setCtx x c).hard = s.hard := rfl
@[simp] theorem setCtx_seifs (s : State) (x : Nat) (c : Ctx) : (s.setCtx x c).seifs = s.seifs := rfl
@[simp] theorem setCtx_frSeq (s : State) (x : Nat) (c : Ctx) : (s.setCtx x c).frSeq = s.frSeq := rfl
@[simp] theorem setCtx_heldExtend (s : State) (x : Nat) (c : Ctx) : (s.setCtx x c).heldExtend = s.heldExtend := rfl
@[simp] theorem setCtx_attSnap (s : State) (x : Nat) (c : Ctx) : (s.setCtx x c).attSnap = s.attSnap := rfl
@[simp] theorem setCtx_queue (s : State) (x : Nat) (c : Ctx) : (s.setCtx x c).queue = s.queue := rfl
@[simp] theorem setCtx_coal (s : State) (x : Nat) (c : Ctx) : (s.setCtx x c).coal = s.coal := rfl
@[simp] theorem setCtx_regions (s : State) (x : Nat) (c : Ctx) : (s.setCtx x c).regions = s.regions := rfl
@[simp] theorem setCtx_tasks (s : State) (x : Nat) (c : Ctx) : (s.setCtx x c).tasks = s.tasks := rfl
@[simp] theorem setCtx_msgs (s : State) (x : Nat) (c : Ctx) : (s.setCtx x c).msgs = s.msgs := rfl
@[simp] theorem setCtx_ldtCache (s : State) (x : Nat) (c : Ctx) : (s.setCtx x c).ldtCache = s.ldtCache := rfl
@[simp] theorem setCtx_ldtOld (s : State) (x : Nat) (c : Ctx) : (s.setCtx x c).ldtOld = s.ldtOld := rfl
@[simp] theorem setCtx_moduleNo (s : State) (x : Nat) (c : Ctx) : (s.setCtx x c).moduleNo = s.moduleNo := rfl
@[simp] theorem setCtx_link (s : State) (x : Nat) (c : Ctx) : (s.setCtx x c).link = s.link := rfl
@[simp] theorem setCtx_hostOut (s : State) (x : Nat) (c : Ctx) : (s.setCtx x c).hostOut = s.hostOut := rfl
@[simp] theorem setCtx_fabricOut (s : State) (x : Nat) (c : Ctx) : (s.setCtx x c).fabricOut = s.fabricOut := rfl
@[simp] theorem setCtx_nextId (s : State) (x : Nat) (c : Ctx) : (s.setCtx x c).nextId = s.nextId := rfl
@[simp] theorem setCtx_cur (s : State) (x : Nat) (c : Ctx) : (s.setCtx x c).cur = s.cur := rfl
@[simp] theorem setCtx_agenda (s : State) (x : Nat) (c : Ctx) : (s.setCtx x c).agenda = s.agenda := rfl
@[simp] theorem setCtx_fresh (s : State) (x : Nat) (c : Ctx) : (s.setCtx x c).fresh = s.fresh := rfl

/-! ### setCore -/

@[simp] theorem setCore_power (s : State) (k : Nat) (c : Core) : (s.setCore k c).power = s.power := rfl
@[simp] theorem setCore_time (s : State) (k : Nat) (c : Core) : (s.setCore k c).time = s.time := rfl
@[simp] theorem setCore_withheld (s : State) (k : Nat) (c : Core) : (s.setCore k c).withheld = s.withheld := rfl
@[simp] theorem setCore_mem (s : State) (k : Nat) (c : Core) : (s.setCore k c).mem = s.mem := rfl
@[simp] theorem setCore_poison (s : State) (k : Nat) (c : Core) : (s.setCore k c).poison = s.poison := rfl
@[simp] theorem setCore_tags (s : State) (k : Nat) (c : Core) : (s.setCore k c).tags = s.tags := rfl
@[simp] theorem setCore_regs (s : State) (k : Nat) (c : Core) : (s.setCore k c).regs = s.regs := rfl
@[simp] theorem setCore_arrayErr (s : State) (k : Nat) (c : Core) : (s.setCore k c).arrayErr = s.arrayErr := rfl
@[simp] theorem setCore_soft (s : State) (k : Nat) (c : Core) : (s.setCore k c).soft = s.soft := rfl
@[simp] theorem setCore_dies (s : State) (k : Nat) (c : Core) : (s.setCore k c).dies = s.dies := rfl
theorem setCore_cores (s : State) (k : Nat) (c : Core) : (s.setCore k c).cores = fput s.cores k c := rfl
@[simp] theorem setCore_ctxs (s : State) (k : Nat) (c : Core) : (s.setCore k c).ctxs = s.ctxs := rfl
@[simp] theorem setCore_hard (s : State) (k : Nat) (c : Core) : (s.setCore k c).hard = s.hard := rfl
@[simp] theorem setCore_seifs (s : State) (k : Nat) (c : Core) : (s.setCore k c).seifs = s.seifs := rfl
@[simp] theorem setCore_frSeq (s : State) (k : Nat) (c : Core) : (s.setCore k c).frSeq = s.frSeq := rfl
@[simp] theorem setCore_heldExtend (s : State) (k : Nat) (c : Core) : (s.setCore k c).heldExtend = s.heldExtend := rfl
@[simp] theorem setCore_attSnap (s : State) (k : Nat) (c : Core) : (s.setCore k c).attSnap = s.attSnap := rfl
@[simp] theorem setCore_queue (s : State) (k : Nat) (c : Core) : (s.setCore k c).queue = s.queue := rfl
@[simp] theorem setCore_coal (s : State) (k : Nat) (c : Core) : (s.setCore k c).coal = s.coal := rfl
@[simp] theorem setCore_regions (s : State) (k : Nat) (c : Core) : (s.setCore k c).regions = s.regions := rfl
@[simp] theorem setCore_tasks (s : State) (k : Nat) (c : Core) : (s.setCore k c).tasks = s.tasks := rfl
@[simp] theorem setCore_msgs (s : State) (k : Nat) (c : Core) : (s.setCore k c).msgs = s.msgs := rfl
@[simp] theorem setCore_ldtCache (s : State) (k : Nat) (c : Core) : (s.setCore k c).ldtCache = s.ldtCache := rfl
@[simp] theorem setCore_ldtOld (s : State) (k : Nat) (c : Core) : (s.setCore k c).ldtOld = s.ldtOld := rfl
@[simp] theorem setCore_moduleNo (s : State) (k : Nat) (c : Core) : (s.setCore k c).moduleNo = s.moduleNo := rfl
@[simp] theorem setCore_link (s : State) (k : Nat) (c : Core) : (s.setCore k c).link = s.link := rfl
@[simp] theorem setCore_hostOut (s : State) (k : Nat) (c : Core) : (s.setCore k c).hostOut = s.hostOut := rfl
@[simp] theorem setCore_fabricOut (s : State) (k : Nat) (c : Core) : (s.setCore k c).fabricOut = s.fabricOut := rfl
@[simp] theorem setCore_nextId (s : State) (k : Nat) (c : Core) : (s.setCore k c).nextId = s.nextId := rfl
@[simp] theorem setCore_cur (s : State) (k : Nat) (c : Core) : (s.setCore k c).cur = s.cur := rfl
@[simp] theorem setCore_agenda (s : State) (k : Nat) (c : Core) : (s.setCore k c).agenda = s.agenda := rfl
@[simp] theorem setCore_fresh (s : State) (k : Nat) (c : Core) : (s.setCore k c).fresh = s.fresh := rfl

/-! ### setDie -/

@[simp] theorem setDie_power (s : State) (d : Nat) (v : Die) : (s.setDie d v).power = s.power := rfl
@[simp] theorem setDie_time (s : State) (d : Nat) (v : Die) : (s.setDie d v).time = s.time := rfl
@[simp] theorem setDie_withheld (s : State) (d : Nat) (v : Die) : (s.setDie d v).withheld = s.withheld := rfl
@[simp] theorem setDie_mem (s : State) (d : Nat) (v : Die) : (s.setDie d v).mem = s.mem := rfl
@[simp] theorem setDie_poison (s : State) (d : Nat) (v : Die) : (s.setDie d v).poison = s.poison := rfl
@[simp] theorem setDie_tags (s : State) (d : Nat) (v : Die) : (s.setDie d v).tags = s.tags := rfl
@[simp] theorem setDie_regs (s : State) (d : Nat) (v : Die) : (s.setDie d v).regs = s.regs := rfl
@[simp] theorem setDie_arrayErr (s : State) (d : Nat) (v : Die) : (s.setDie d v).arrayErr = s.arrayErr := rfl
@[simp] theorem setDie_soft (s : State) (d : Nat) (v : Die) : (s.setDie d v).soft = s.soft := rfl
theorem setDie_dies (s : State) (d : Nat) (v : Die) : (s.setDie d v).dies = fput s.dies d v := rfl
@[simp] theorem setDie_cores (s : State) (d : Nat) (v : Die) : (s.setDie d v).cores = s.cores := rfl
@[simp] theorem setDie_ctxs (s : State) (d : Nat) (v : Die) : (s.setDie d v).ctxs = s.ctxs := rfl
@[simp] theorem setDie_hard (s : State) (d : Nat) (v : Die) : (s.setDie d v).hard = s.hard := rfl
@[simp] theorem setDie_seifs (s : State) (d : Nat) (v : Die) : (s.setDie d v).seifs = s.seifs := rfl
@[simp] theorem setDie_frSeq (s : State) (d : Nat) (v : Die) : (s.setDie d v).frSeq = s.frSeq := rfl
@[simp] theorem setDie_heldExtend (s : State) (d : Nat) (v : Die) : (s.setDie d v).heldExtend = s.heldExtend := rfl
@[simp] theorem setDie_attSnap (s : State) (d : Nat) (v : Die) : (s.setDie d v).attSnap = s.attSnap := rfl
@[simp] theorem setDie_queue (s : State) (d : Nat) (v : Die) : (s.setDie d v).queue = s.queue := rfl
@[simp] theorem setDie_coal (s : State) (d : Nat) (v : Die) : (s.setDie d v).coal = s.coal := rfl
@[simp] theorem setDie_regions (s : State) (d : Nat) (v : Die) : (s.setDie d v).regions = s.regions := rfl
@[simp] theorem setDie_tasks (s : State) (d : Nat) (v : Die) : (s.setDie d v).tasks = s.tasks := rfl
@[simp] theorem setDie_msgs (s : State) (d : Nat) (v : Die) : (s.setDie d v).msgs = s.msgs := rfl
@[simp] theorem setDie_ldtCache (s : State) (d : Nat) (v : Die) : (s.setDie d v).ldtCache = s.ldtCache := rfl
@[simp] theorem setDie_ldtOld (s : State) (d : Nat) (v : Die) : (s.setDie d v).ldtOld = s.ldtOld := rfl
@[simp] theorem setDie_moduleNo (s : State) (d : Nat) (v : Die) : (s.setDie d v).moduleNo = s.moduleNo := rfl
@[simp] theorem setDie_link (s : State) (d : Nat) (v : Die) : (s.setDie d v).link = s.link := rfl
@[simp] theorem setDie_hostOut (s : State) (d : Nat) (v : Die) : (s.setDie d v).hostOut = s.hostOut := rfl
@[simp] theorem setDie_fabricOut (s : State) (d : Nat) (v : Die) : (s.setDie d v).fabricOut = s.fabricOut := rfl
@[simp] theorem setDie_nextId (s : State) (d : Nat) (v : Die) : (s.setDie d v).nextId = s.nextId := rfl
@[simp] theorem setDie_cur (s : State) (d : Nat) (v : Die) : (s.setDie d v).cur = s.cur := rfl
@[simp] theorem setDie_agenda (s : State) (d : Nat) (v : Die) : (s.setDie d v).agenda = s.agenda := rfl
@[simp] theorem setDie_fresh (s : State) (d : Nat) (v : Die) : (s.setDie d v).fresh = s.fresh := rfl

/-! ### setReg -/

@[simp] theorem setReg_power (s : State) (off : Nat) (v : Word64) : (s.setReg off v).power = s.power := rfl
@[simp] theorem setReg_time (s : State) (off : Nat) (v : Word64) : (s.setReg off v).time = s.time := rfl
@[simp] theorem setReg_withheld (s : State) (off : Nat) (v : Word64) : (s.setReg off v).withheld = s.withheld := rfl
@[simp] theorem setReg_mem (s : State) (off : Nat) (v : Word64) : (s.setReg off v).mem = s.mem := rfl
@[simp] theorem setReg_poison (s : State) (off : Nat) (v : Word64) : (s.setReg off v).poison = s.poison := rfl
@[simp] theorem setReg_tags (s : State) (off : Nat) (v : Word64) : (s.setReg off v).tags = s.tags := rfl
theorem setReg_regs (s : State) (off : Nat) (v : Word64) : (s.setReg off v).regs = fset (regReset off) s.regs off v := rfl
@[simp] theorem setReg_arrayErr (s : State) (off : Nat) (v : Word64) : (s.setReg off v).arrayErr = s.arrayErr := rfl
@[simp] theorem setReg_soft (s : State) (off : Nat) (v : Word64) : (s.setReg off v).soft = s.soft := rfl
@[simp] theorem setReg_dies (s : State) (off : Nat) (v : Word64) : (s.setReg off v).dies = s.dies := rfl
@[simp] theorem setReg_cores (s : State) (off : Nat) (v : Word64) : (s.setReg off v).cores = s.cores := rfl
@[simp] theorem setReg_ctxs (s : State) (off : Nat) (v : Word64) : (s.setReg off v).ctxs = s.ctxs := rfl
@[simp] theorem setReg_hard (s : State) (off : Nat) (v : Word64) : (s.setReg off v).hard = s.hard := rfl
@[simp] theorem setReg_seifs (s : State) (off : Nat) (v : Word64) : (s.setReg off v).seifs = s.seifs := rfl
@[simp] theorem setReg_frSeq (s : State) (off : Nat) (v : Word64) : (s.setReg off v).frSeq = s.frSeq := rfl
@[simp] theorem setReg_heldExtend (s : State) (off : Nat) (v : Word64) : (s.setReg off v).heldExtend = s.heldExtend := rfl
@[simp] theorem setReg_attSnap (s : State) (off : Nat) (v : Word64) : (s.setReg off v).attSnap = s.attSnap := rfl
@[simp] theorem setReg_queue (s : State) (off : Nat) (v : Word64) : (s.setReg off v).queue = s.queue := rfl
@[simp] theorem setReg_coal (s : State) (off : Nat) (v : Word64) : (s.setReg off v).coal = s.coal := rfl
@[simp] theorem setReg_regions (s : State) (off : Nat) (v : Word64) : (s.setReg off v).regions = s.regions := rfl
@[simp] theorem setReg_tasks (s : State) (off : Nat) (v : Word64) : (s.setReg off v).tasks = s.tasks := rfl
@[simp] theorem setReg_msgs (s : State) (off : Nat) (v : Word64) : (s.setReg off v).msgs = s.msgs := rfl
@[simp] theorem setReg_ldtCache (s : State) (off : Nat) (v : Word64) : (s.setReg off v).ldtCache = s.ldtCache := rfl
@[simp] theorem setReg_ldtOld (s : State) (off : Nat) (v : Word64) : (s.setReg off v).ldtOld = s.ldtOld := rfl
@[simp] theorem setReg_moduleNo (s : State) (off : Nat) (v : Word64) : (s.setReg off v).moduleNo = s.moduleNo := rfl
@[simp] theorem setReg_link (s : State) (off : Nat) (v : Word64) : (s.setReg off v).link = s.link := rfl
@[simp] theorem setReg_hostOut (s : State) (off : Nat) (v : Word64) : (s.setReg off v).hostOut = s.hostOut := rfl
@[simp] theorem setReg_fabricOut (s : State) (off : Nat) (v : Word64) : (s.setReg off v).fabricOut = s.fabricOut := rfl
@[simp] theorem setReg_nextId (s : State) (off : Nat) (v : Word64) : (s.setReg off v).nextId = s.nextId := rfl
@[simp] theorem setReg_cur (s : State) (off : Nat) (v : Word64) : (s.setReg off v).cur = s.cur := rfl
@[simp] theorem setReg_agenda (s : State) (off : Nat) (v : Word64) : (s.setReg off v).agenda = s.agenda := rfl
@[simp] theorem setReg_fresh (s : State) (off : Nat) (v : Word64) : (s.setReg off v).fresh = s.fresh := rfl

/-! ### write -/

@[simp] theorem write_power (s : State) (pa : Nat) (bs : List Byte) : (s.write pa bs).power = s.power := rfl
@[simp] theorem write_time (s : State) (pa : Nat) (bs : List Byte) : (s.write pa bs).time = s.time := rfl
@[simp] theorem write_withheld (s : State) (pa : Nat) (bs : List Byte) : (s.write pa bs).withheld = s.withheld := rfl
theorem write_mem (s : State) (pa : Nat) (bs : List Byte) : (s.write pa bs).mem = memPut s.mem pa bs := rfl
@[simp] theorem write_tags (s : State) (pa : Nat) (bs : List Byte) : (s.write pa bs).tags = s.tags := rfl
@[simp] theorem write_regs (s : State) (pa : Nat) (bs : List Byte) : (s.write pa bs).regs = s.regs := rfl
@[simp] theorem write_arrayErr (s : State) (pa : Nat) (bs : List Byte) : (s.write pa bs).arrayErr = s.arrayErr := rfl
@[simp] theorem write_dies (s : State) (pa : Nat) (bs : List Byte) : (s.write pa bs).dies = s.dies := rfl
@[simp] theorem write_cores (s : State) (pa : Nat) (bs : List Byte) : (s.write pa bs).cores = s.cores := rfl
@[simp] theorem write_ctxs (s : State) (pa : Nat) (bs : List Byte) : (s.write pa bs).ctxs = s.ctxs := rfl
@[simp] theorem write_hard (s : State) (pa : Nat) (bs : List Byte) : (s.write pa bs).hard = s.hard := rfl
@[simp] theorem write_seifs (s : State) (pa : Nat) (bs : List Byte) : (s.write pa bs).seifs = s.seifs := rfl
@[simp] theorem write_frSeq (s : State) (pa : Nat) (bs : List Byte) : (s.write pa bs).frSeq = s.frSeq := rfl
@[simp] theorem write_heldExtend (s : State) (pa : Nat) (bs : List Byte) : (s.write pa bs).heldExtend = s.heldExtend := rfl
@[simp] theorem write_attSnap (s : State) (pa : Nat) (bs : List Byte) : (s.write pa bs).attSnap = s.attSnap := rfl
@[simp] theorem write_queue (s : State) (pa : Nat) (bs : List Byte) : (s.write pa bs).queue = s.queue := rfl
@[simp] theorem write_coal (s : State) (pa : Nat) (bs : List Byte) : (s.write pa bs).coal = s.coal := rfl
@[simp] theorem write_regions (s : State) (pa : Nat) (bs : List Byte) : (s.write pa bs).regions = s.regions := rfl
@[simp] theorem write_tasks (s : State) (pa : Nat) (bs : List Byte) : (s.write pa bs).tasks = s.tasks := rfl
@[simp] theorem write_msgs (s : State) (pa : Nat) (bs : List Byte) : (s.write pa bs).msgs = s.msgs := rfl
@[simp] theorem write_ldtCache (s : State) (pa : Nat) (bs : List Byte) : (s.write pa bs).ldtCache = s.ldtCache := rfl
@[simp] theorem write_ldtOld (s : State) (pa : Nat) (bs : List Byte) : (s.write pa bs).ldtOld = s.ldtOld := rfl
@[simp] theorem write_moduleNo (s : State) (pa : Nat) (bs : List Byte) : (s.write pa bs).moduleNo = s.moduleNo := rfl
@[simp] theorem write_link (s : State) (pa : Nat) (bs : List Byte) : (s.write pa bs).link = s.link := rfl
@[simp] theorem write_hostOut (s : State) (pa : Nat) (bs : List Byte) : (s.write pa bs).hostOut = s.hostOut := rfl
@[simp] theorem write_fabricOut (s : State) (pa : Nat) (bs : List Byte) : (s.write pa bs).fabricOut = s.fabricOut := rfl
@[simp] theorem write_nextId (s : State) (pa : Nat) (bs : List Byte) : (s.write pa bs).nextId = s.nextId := rfl
@[simp] theorem write_cur (s : State) (pa : Nat) (bs : List Byte) : (s.write pa bs).cur = s.cur := rfl
@[simp] theorem write_agenda (s : State) (pa : Nat) (bs : List Byte) : (s.write pa bs).agenda = s.agenda := rfl
@[simp] theorem write_fresh (s : State) (pa : Nat) (bs : List Byte) : (s.write pa bs).fresh = s.fresh := rfl

/-! ### poisonWords -/

@[simp] theorem poisonWords_power (s : State) (pa n : Nat) : (s.poisonWords pa n).power = s.power := rfl
@[simp] theorem poisonWords_time (s : State) (pa n : Nat) : (s.poisonWords pa n).time = s.time := rfl
@[simp] theorem poisonWords_withheld (s : State) (pa n : Nat) : (s.poisonWords pa n).withheld = s.withheld := rfl
@[simp] theorem poisonWords_tags (s : State) (pa n : Nat) : (s.poisonWords pa n).tags = s.tags := rfl
@[simp] theorem poisonWords_regs (s : State) (pa n : Nat) : (s.poisonWords pa n).regs = s.regs := rfl
@[simp] theorem poisonWords_arrayErr (s : State) (pa n : Nat) : (s.poisonWords pa n).arrayErr = s.arrayErr := rfl
@[simp] theorem poisonWords_soft (s : State) (pa n : Nat) : (s.poisonWords pa n).soft = s.soft := rfl
@[simp] theorem poisonWords_dies (s : State) (pa n : Nat) : (s.poisonWords pa n).dies = s.dies := rfl
@[simp] theorem poisonWords_cores (s : State) (pa n : Nat) : (s.poisonWords pa n).cores = s.cores := rfl
@[simp] theorem poisonWords_ctxs (s : State) (pa n : Nat) : (s.poisonWords pa n).ctxs = s.ctxs := rfl
@[simp] theorem poisonWords_hard (s : State) (pa n : Nat) : (s.poisonWords pa n).hard = s.hard := rfl
@[simp] theorem poisonWords_seifs (s : State) (pa n : Nat) : (s.poisonWords pa n).seifs = s.seifs := rfl
@[simp] theorem poisonWords_frSeq (s : State) (pa n : Nat) : (s.poisonWords pa n).frSeq = s.frSeq := rfl
@[simp] theorem poisonWords_heldExtend (s : State) (pa n : Nat) : (s.poisonWords pa n).heldExtend = s.heldExtend := rfl
@[simp] theorem poisonWords_attSnap (s : State) (pa n : Nat) : (s.poisonWords pa n).attSnap = s.attSnap := rfl
@[simp] theorem poisonWords_queue (s : State) (pa n : Nat) : (s.poisonWords pa n).queue = s.queue := rfl
@[simp] theorem poisonWords_coal (s : State) (pa n : Nat) : (s.poisonWords pa n).coal = s.coal := rfl
@[simp] theorem poisonWords_regions (s : State) (pa n : Nat) : (s.poisonWords pa n).regions = s.regions := rfl
@[simp] theorem poisonWords_tasks (s : State) (pa n : Nat) : (s.poisonWords pa n).tasks = s.tasks := rfl
@[simp] theorem poisonWords_msgs (s : State) (pa n : Nat) : (s.poisonWords pa n).msgs = s.msgs := rfl
@[simp] theorem poisonWords_ldtCache (s : State) (pa n : Nat) : (s.poisonWords pa n).ldtCache = s.ldtCache := rfl
@[simp] theorem poisonWords_ldtOld (s : State) (pa n : Nat) : (s.poisonWords pa n).ldtOld = s.ldtOld := rfl
@[simp] theorem poisonWords_moduleNo (s : State) (pa n : Nat) : (s.poisonWords pa n).moduleNo = s.moduleNo := rfl
@[simp] theorem poisonWords_link (s : State) (pa n : Nat) : (s.poisonWords pa n).link = s.link := rfl
@[simp] theorem poisonWords_hostOut (s : State) (pa n : Nat) : (s.poisonWords pa n).hostOut = s.hostOut := rfl
@[simp] theorem poisonWords_fabricOut (s : State) (pa n : Nat) : (s.poisonWords pa n).fabricOut = s.fabricOut := rfl
@[simp] theorem poisonWords_nextId (s : State) (pa n : Nat) : (s.poisonWords pa n).nextId = s.nextId := rfl
@[simp] theorem poisonWords_cur (s : State) (pa n : Nat) : (s.poisonWords pa n).cur = s.cur := rfl
@[simp] theorem poisonWords_agenda (s : State) (pa n : Nat) : (s.poisonWords pa n).agenda = s.agenda := rfl
@[simp] theorem poisonWords_fresh (s : State) (pa n : Nat) : (s.poisonWords pa n).fresh = s.fresh := rfl

/-! ### setTag -/

@[simp] theorem setTag_power (s : State) (pa : Nat) (v : BitVec 9) : (s.setTag pa v).power = s.power := rfl
@[simp] theorem setTag_time (s : State) (pa : Nat) (v : BitVec 9) : (s.setTag pa v).time = s.time := rfl
@[simp] theorem setTag_withheld (s : State) (pa : Nat) (v : BitVec 9) : (s.setTag pa v).withheld = s.withheld := rfl
@[simp] theorem setTag_mem (s : State) (pa : Nat) (v : BitVec 9) : (s.setTag pa v).mem = s.mem := rfl
@[simp] theorem setTag_poison (s : State) (pa : Nat) (v : BitVec 9) : (s.setTag pa v).poison = s.poison := rfl
theorem setTag_tags (s : State) (pa : Nat) (v : BitVec 9) : (s.setTag pa v).tags = fset tagUnset s.tags (pa / 512) v := rfl
@[simp] theorem setTag_regs (s : State) (pa : Nat) (v : BitVec 9) : (s.setTag pa v).regs = s.regs := rfl
@[simp] theorem setTag_arrayErr (s : State) (pa : Nat) (v : BitVec 9) : (s.setTag pa v).arrayErr = s.arrayErr := rfl
@[simp] theorem setTag_soft (s : State) (pa : Nat) (v : BitVec 9) : (s.setTag pa v).soft = s.soft := rfl
@[simp] theorem setTag_dies (s : State) (pa : Nat) (v : BitVec 9) : (s.setTag pa v).dies = s.dies := rfl
@[simp] theorem setTag_cores (s : State) (pa : Nat) (v : BitVec 9) : (s.setTag pa v).cores = s.cores := rfl
@[simp] theorem setTag_ctxs (s : State) (pa : Nat) (v : BitVec 9) : (s.setTag pa v).ctxs = s.ctxs := rfl
@[simp] theorem setTag_hard (s : State) (pa : Nat) (v : BitVec 9) : (s.setTag pa v).hard = s.hard := rfl
@[simp] theorem setTag_seifs (s : State) (pa : Nat) (v : BitVec 9) : (s.setTag pa v).seifs = s.seifs := rfl
@[simp] theorem setTag_frSeq (s : State) (pa : Nat) (v : BitVec 9) : (s.setTag pa v).frSeq = s.frSeq := rfl
@[simp] theorem setTag_heldExtend (s : State) (pa : Nat) (v : BitVec 9) : (s.setTag pa v).heldExtend = s.heldExtend := rfl
@[simp] theorem setTag_attSnap (s : State) (pa : Nat) (v : BitVec 9) : (s.setTag pa v).attSnap = s.attSnap := rfl
@[simp] theorem setTag_queue (s : State) (pa : Nat) (v : BitVec 9) : (s.setTag pa v).queue = s.queue := rfl
@[simp] theorem setTag_coal (s : State) (pa : Nat) (v : BitVec 9) : (s.setTag pa v).coal = s.coal := rfl
@[simp] theorem setTag_regions (s : State) (pa : Nat) (v : BitVec 9) : (s.setTag pa v).regions = s.regions := rfl
@[simp] theorem setTag_tasks (s : State) (pa : Nat) (v : BitVec 9) : (s.setTag pa v).tasks = s.tasks := rfl
@[simp] theorem setTag_msgs (s : State) (pa : Nat) (v : BitVec 9) : (s.setTag pa v).msgs = s.msgs := rfl
@[simp] theorem setTag_ldtCache (s : State) (pa : Nat) (v : BitVec 9) : (s.setTag pa v).ldtCache = s.ldtCache := rfl
@[simp] theorem setTag_ldtOld (s : State) (pa : Nat) (v : BitVec 9) : (s.setTag pa v).ldtOld = s.ldtOld := rfl
@[simp] theorem setTag_moduleNo (s : State) (pa : Nat) (v : BitVec 9) : (s.setTag pa v).moduleNo = s.moduleNo := rfl
@[simp] theorem setTag_link (s : State) (pa : Nat) (v : BitVec 9) : (s.setTag pa v).link = s.link := rfl
@[simp] theorem setTag_hostOut (s : State) (pa : Nat) (v : BitVec 9) : (s.setTag pa v).hostOut = s.hostOut := rfl
@[simp] theorem setTag_fabricOut (s : State) (pa : Nat) (v : BitVec 9) : (s.setTag pa v).fabricOut = s.fabricOut := rfl
@[simp] theorem setTag_nextId (s : State) (pa : Nat) (v : BitVec 9) : (s.setTag pa v).nextId = s.nextId := rfl
@[simp] theorem setTag_cur (s : State) (pa : Nat) (v : BitVec 9) : (s.setTag pa v).cur = s.cur := rfl
@[simp] theorem setTag_agenda (s : State) (pa : Nat) (v : BitVec 9) : (s.setTag pa v).agenda = s.agenda := rfl
@[simp] theorem setTag_fresh (s : State) (pa : Nat) (v : BitVec 9) : (s.setTag pa v).fresh = s.fresh := rfl

/-! ### send -/

@[simp] theorem send_power (s : State) (m : HostMsg) : (s.send m).power = s.power := rfl
@[simp] theorem send_time (s : State) (m : HostMsg) : (s.send m).time = s.time := rfl
@[simp] theorem send_withheld (s : State) (m : HostMsg) : (s.send m).withheld = s.withheld := rfl
@[simp] theorem send_mem (s : State) (m : HostMsg) : (s.send m).mem = s.mem := rfl
@[simp] theorem send_poison (s : State) (m : HostMsg) : (s.send m).poison = s.poison := rfl
@[simp] theorem send_tags (s : State) (m : HostMsg) : (s.send m).tags = s.tags := rfl
@[simp] theorem send_regs (s : State) (m : HostMsg) : (s.send m).regs = s.regs := rfl
@[simp] theorem send_arrayErr (s : State) (m : HostMsg) : (s.send m).arrayErr = s.arrayErr := rfl
@[simp] theorem send_soft (s : State) (m : HostMsg) : (s.send m).soft = s.soft := rfl
@[simp] theorem send_dies (s : State) (m : HostMsg) : (s.send m).dies = s.dies := rfl
@[simp] theorem send_cores (s : State) (m : HostMsg) : (s.send m).cores = s.cores := rfl
@[simp] theorem send_ctxs (s : State) (m : HostMsg) : (s.send m).ctxs = s.ctxs := rfl
@[simp] theorem send_hard (s : State) (m : HostMsg) : (s.send m).hard = s.hard := rfl
@[simp] theorem send_seifs (s : State) (m : HostMsg) : (s.send m).seifs = s.seifs := rfl
@[simp] theorem send_frSeq (s : State) (m : HostMsg) : (s.send m).frSeq = s.frSeq := rfl
@[simp] theorem send_heldExtend (s : State) (m : HostMsg) : (s.send m).heldExtend = s.heldExtend := rfl
@[simp] theorem send_attSnap (s : State) (m : HostMsg) : (s.send m).attSnap = s.attSnap := rfl
@[simp] theorem send_queue (s : State) (m : HostMsg) : (s.send m).queue = s.queue := rfl
@[simp] theorem send_coal (s : State) (m : HostMsg) : (s.send m).coal = s.coal := rfl
@[simp] theorem send_regions (s : State) (m : HostMsg) : (s.send m).regions = s.regions := rfl
@[simp] theorem send_tasks (s : State) (m : HostMsg) : (s.send m).tasks = s.tasks := rfl
@[simp] theorem send_msgs (s : State) (m : HostMsg) : (s.send m).msgs = s.msgs := rfl
@[simp] theorem send_ldtCache (s : State) (m : HostMsg) : (s.send m).ldtCache = s.ldtCache := rfl
@[simp] theorem send_ldtOld (s : State) (m : HostMsg) : (s.send m).ldtOld = s.ldtOld := rfl
@[simp] theorem send_moduleNo (s : State) (m : HostMsg) : (s.send m).moduleNo = s.moduleNo := rfl
@[simp] theorem send_link (s : State) (m : HostMsg) : (s.send m).link = s.link := rfl
theorem send_hostOut (s : State) (m : HostMsg) : (s.send m).hostOut = s.hostOut ++ [m] := rfl
@[simp] theorem send_fabricOut (s : State) (m : HostMsg) : (s.send m).fabricOut = s.fabricOut := rfl
@[simp] theorem send_nextId (s : State) (m : HostMsg) : (s.send m).nextId = s.nextId := rfl
@[simp] theorem send_cur (s : State) (m : HostMsg) : (s.send m).cur = s.cur := rfl
@[simp] theorem send_agenda (s : State) (m : HostMsg) : (s.send m).agenda = s.agenda := rfl
@[simp] theorem send_fresh (s : State) (m : HostMsg) : (s.send m).fresh = s.fresh := rfl

/-! ### Reading after an update -/

theorem modCtx_eq (s : State) (x : Nat) (f : Ctx → Ctx) : s.modCtx x f = s.setCtx x (f (s.ctx x)) := rfl
theorem modCore_eq (s : State) (k : Nat) (f : Core → Core) : s.modCore k f = s.setCore k (f (s.core k)) := rfl
theorem modDie_eq (s : State) (d : Nat) (f : Die → Die) : s.modDie d f = s.setDie d (f (s.die d)) := rfl

@[simp] theorem setCtx_ctx_same (s : State) (x : Nat) (c : Ctx) : (s.setCtx x c).ctx x = c := fget_fput_same _ _ _ _
theorem setCtx_ctx_ne (s : State) {x y : Nat} (c : Ctx) (h : y ≠ x) : (s.setCtx x c).ctx y = s.ctx y :=
  fget_fput_ne _ _ _ h
@[simp] theorem setCore_core_same (s : State) (k : Nat) (c : Core) : (s.setCore k c).core k = c := fget_fput_same _ _ _ _
theorem setCore_core_ne (s : State) {k l : Nat} (c : Core) (h : l ≠ k) : (s.setCore k c).core l = s.core l :=
  fget_fput_ne _ _ _ h
@[simp] theorem setDie_die_same (s : State) (d : Nat) (v : Die) : (s.setDie d v).die d = v := fget_fput_same _ _ _ _
theorem setDie_die_ne (s : State) {d e : Nat} (v : Die) (h : e ≠ d) : (s.setDie d v).die e = s.die e :=
  fget_fput_ne _ _ _ h
@[simp] theorem setCtx_setCtx (s : State) (x : Nat) (c d : Ctx) : (s.setCtx x c).setCtx x d = s.setCtx x d := by
  simp [State.setCtx]
@[simp] theorem setCore_setCore (s : State) (k : Nat) (c d : Core) : (s.setCore k c).setCore k d = s.setCore k d := by
  simp [State.setCore]
@[simp] theorem setCtx_core (s : State) (x k : Nat) (c : Ctx) : (s.setCtx x c).core k = s.core k := rfl
@[simp] theorem setCtx_die (s : State) (x d : Nat) (c : Ctx) : (s.setCtx x c).die d = s.die d := rfl
@[simp] theorem setCore_ctx (s : State) (k x : Nat) (c : Core) : (s.setCore k c).ctx x = s.ctx x := rfl
@[simp] theorem setCore_die (s : State) (k d : Nat) (c : Core) : (s.setCore k c).die d = s.die d := rfl
@[simp] theorem setDie_ctx (s : State) (d x : Nat) (v : Die) : (s.setDie d v).ctx x = s.ctx x := rfl
@[simp] theorem setDie_core (s : State) (d k : Nat) (v : Die) : (s.setDie d v).core k = s.core k := rfl
@[simp] theorem write_ctx (s : State) (pa x : Nat) (bs : List Byte) : (s.write pa bs).ctx x = s.ctx x := rfl
@[simp] theorem write_core (s : State) (pa k : Nat) (bs : List Byte) : (s.write pa bs).core k = s.core k := rfl
@[simp] theorem write_reg (s : State) (pa off : Nat) (bs : List Byte) : (s.write pa bs).reg off = s.reg off := rfl
@[simp] theorem setCtx_reg (s : State) (x off : Nat) (c : Ctx) : (s.setCtx x c).reg off = s.reg off := rfl
@[simp] theorem setCore_reg (s : State) (k off : Nat) (c : Core) : (s.setCore k c).reg off = s.reg off := rfl
@[simp] theorem setCtx_byte (s : State) (x a : Nat) (c : Ctx) : (s.setCtx x c).byte a = s.byte a := rfl
@[simp] theorem setCore_byte (s : State) (k a : Nat) (c : Core) : (s.setCore k c).byte a = s.byte a := rfl
@[simp] theorem setDie_byte (s : State) (d a : Nat) (v : Die) : (s.setDie d v).byte a = s.byte a := rfl
@[simp] theorem setReg_byte (s : State) (off a : Nat) (v : Word64) : (s.setReg off v).byte a = s.byte a := rfl
@[simp] theorem setReg_reg_same (s : State) (off : Nat) (v : Word64) : (s.setReg off v).reg off = v := fget_fset_same _ _ _ _
theorem setReg_reg_ne (s : State) {off off' : Nat} (v : Word64) (h : off' ≠ off) : (s.setReg off v).reg off' = s.reg off' :=
  fget_fset_other _ _ _ _ h

end Sys2Proof.Machine
end

