-- ==== Sys2Proof/Laws/Op.lean ====
section
/-! SUPPORT. Laws/Op.lean: how operations run: sequencing, the state's accessors, and the operand forms. -/

namespace Sys2Proof.Machine

variable {α β : Type}

@[simp] theorem op_pure (a : α) (s : State) : (pure a : Op α) s = .ok a s := rfl

@[simp] theorem op_bind (x : Op α) (f : α → Op β) (s : State) :
    (x >>= f) s = match x s with | .ok a t => f a t | .error e t => .error e t := by
  show EStateM.bind x f s = _
  unfold EStateM.bind
  cases x s <;> rfl

@[simp] theorem op_get (s : State) : (get : Op State) s = .ok s s := rfl
@[simp] theorem op_set (t s : State) : (set t : Op Unit) s = .ok () t := rfl
@[simp] theorem op_modify (f : State → State) (s : State) : (modify f : Op Unit) s = .ok () (f s) := rfl
@[simp] theorem op_throw (e : Exit) (s : State) : (throw e : Op α) s = .error e s := rfl
@[simp] theorem op_modC (f : Ctx → Ctx) (s : State) : modC f s = .ok () (s.modCtx s.cur.x f) := rfl
@[simp] theorem op_modL (f : Live → Live) (s : State) :
    modL f s = .ok () (s.modCtx s.cur.x fun c => { c with live := f c.live }) := rfl
@[simp] theorem op_modK (f : Core → Core) (s : State) : modK f s = .ok () (s.modCore (coreOf s.cur.x) f) := rfl
@[simp] theorem op_modCur (f : Cursor → Cursor) (s : State) : modCur f s = .ok () { s with cur := f s.cur } := rfl
@[simp] theorem op_getS (r : BitVec 6) (s : State) : getS r s = .ok (s.cur.src.sv r) s := rfl
@[simp] theorem op_getV (r : BitVec 9) (s : State) : getV r s = .ok (s.cur.src.vv r) s := rfl
@[simp] theorem op_getP (r : BitVec 4) (s : State) : getP r s = .ok (s.cur.src.pv r) s := rfl
@[simp] theorem op_writeS (r : BitVec 6) (v : Word64) (s : State) :
    writeS r v s = .ok () (s.modCtx s.cur.x fun c => { c with live := c.live.putS r v }) := rfl
@[simp] theorem op_writeV (r : BitVec 9) (v : VReg) (s : State) :
    writeV r v s = .ok () (s.modCtx s.cur.x fun c => Ctx.touchV { c with live := c.live.putV r v } r.toNat) := rfl
@[simp] theorem op_writeP (r : BitVec 4) (v : PReg) (s : State) :
    writeP r v s = .ok () (s.modCtx s.cur.x fun c => { c with live := c.live.putP r v }) := rfl

theorem op_trapAt (cause : Nat) (info : Word64) (s : State) :
    (trapAt cause info : Op α) s =
      .error (.trap { cause := cause, info := info, slotField := s.cur.slot, deferred := false, tpc := s.cur.pc,
                      slotRes := s.cur.slot, repLeft := s.cur.rep - s.cur.j }) s := rfl

@[simp] theorem op_forEach_nil (f : α → Op Unit) : forEach [] f = pure () := rfl
theorem op_forEach_cons (a : α) (l : List α) (f : α → Op Unit) : forEach (a :: l) f = (do f a; forEach l f) := rfl
@[simp] theorem op_mapEach_nil (f : α → Op β) : mapEach [] f = pure [] := rfl

/-! ### Sources -/

/-- Every source of a list is full. -/
theorem need_ok (l : List Source) (s : State) (h : ∀ r ∈ l, s.cur.src.isEmpty r = false) : need l s = .ok () s := by
  have h1 : (l.find? fun r => !r.2.2 && s.cur.src.isEmpty r) = none := by
    rw [List.find?_eq_none]
    intro r hr
    simp [h r hr]
  have h2 : (l.find? fun r => s.cur.src.isEmpty r) = none := by
    rw [List.find?_eq_none]
    intro r hr
    simp [h r hr]
  simp [need, h1, h2]

/-! ### Registers after a write -/

theorem putS_sv_same (l : Live) (r : BitVec 6) (v : Word64) : (l.putS r v).sv r = if r = 0 then 0 else v := by
  unfold Live.putS Live.sv
  split <;> simp

theorem putS_sv_ne (l : Live) {r q : BitVec 6} (v : Word64) (h : q ≠ r) : (l.putS r v).sv q = l.sv q := by
  have hn : q.toNat ≠ r.toNat := fun e => h (BitVec.eq_of_toNat_eq e)
  by_cases hr : r = 0
  · rw [Live.putS, if_pos hr]
  · rw [Live.putS, if_neg hr]
    simp only [Live.sv, fget_fset_ne _ _ v hn]

theorem putV_vv_same (l : Live) (r : BitVec 9) (v : VReg) : (l.putV r v).vv r = v := by simp [Live.putV, Live.vv]

theorem putV_vv_ne (l : Live) {r q : BitVec 9} (v : VReg) (h : q ≠ r) : (l.putV r v).vv q = l.vv q := by
  have hn : q.toNat ≠ r.toNat := fun e => h (BitVec.eq_of_toNat_eq e)
  simp [Live.putV, Live.vv, fget_fset_ne _ _ v hn]

theorem putP_pv_same (l : Live) (r : BitVec 4) (v : PReg) :
    (l.putP r v).pv r = if r = 0 then BitVec.allOnes 128 else v := by
  unfold Live.putP Live.pv
  split <;> simp

theorem putP_pv_ne (l : Live) {r q : BitVec 4} (v : PReg) (h : q ≠ r) : (l.putP r v).pv q = l.pv q := by
  have hn : q.toNat ≠ r.toNat := fun e => h (BitVec.eq_of_toNat_eq e)
  by_cases hr : r = 0
  · rw [Live.putP, if_pos hr]
  · rw [Live.putP, if_neg hr]
    simp only [Live.pv, fget_fset_ne _ _ v hn]

end Sys2Proof.Machine
end

