-- ==== Sys2Proof/Laws/Issue.lean ====
section
/-! SUPPORT. Laws/Issue.lean: what one operation performed as an issue of its own comes to, where nothing else acts in the issue:
the state in which it performs, and the state in which the issue ends. -/

namespace Sys2Proof.Machine

open Sys2Proof.Safety

/-! ### What the words of an issue tell -/

theorem vDests_length (i : Instr) : i.vDests.length ≤ 2 := by
  cases i <;> simp [Instr.vDests] <;> split <;> simp

theorem overflows_false {c : Ctx} {o : SlotOp} (hg : c.gate.length ≤ 63) (hv : c.vSince.length ≤ 62) :
    c.overflows [o] = false := by
  have h1 : ∀ (l vs : List Nat),
      (l.foldl (fun vs r => if vs.contains r then vs else r :: vs) vs).length ≤ vs.length + l.length := by
    intro l
    induction l with
    | nil => exact fun vs => Nat.le_refl _
    | cons r rest grow =>
      intro vs
      have one : (if vs.contains r then vs else r :: vs).length ≤ vs.length + 1 := by split <;> simp
      exact Nat.le_trans (grow _) (Nat.le_trans (Nat.add_le_add_right one _) (by rw [List.length_cons]; omega))
  have h2 : ([o].filter (·.instr.isStore)).length ≤ 1 := List.length_filter_le _ _
  have h3 := h1 o.instr.vDests c.vSince
  have h4 := vDests_length o.instr
  simp only [Ctx.overflows, Bool.or_eq_false_iff, decide_eq_false_iff_not, List.foldl_cons, List.foldl_nil]
  refine ⟨?_, ?_⟩
  · omega
  · have h5 := Nat.le_trans h3 (Nat.add_le_add_left h4 _)
    have h6 := Nat.le_trans h5 (Nat.add_le_add_right hv 2)
    exact decide_eq_false (Nat.not_lt.2 h6)

/-! ### The beginning of the issue -/

/-- The state in which the slots of an issue perform, where no H-slot write is pending (R121). -/
def State.begun (s : State) : State :=
  { s.modCtx s.cur.x fun c => { c with blocked := false } with
    cur := { s.cur with src := s.cctx.live, target := none, disarm := false, needMark := false, left := false,
                        atEnd := none, hFail := none } }

theorem beginIssue_plain {s : State} (h : s.cctx.live.hPend = []) : beginIssue s = .ok () s.begun := by
  have hl : { s.cctx.live with hPend := [] } = s.cctx.live := by
    rw [← h]
  unfold beginIssue State.begun
  simp only [op_bind, op_get, op_modC, op_modCur, h, List.filter_nil, List.foldl_nil, ite_self, List.map_nil, List.nil_append, hl]
  rfl

/-- The operation of an issue of its own. -/
def soleOp (i : Instr) (op : Op Unit) (s : State) : SlotOp :=
  { slot := s.cur.slot, k := s.cur.k, written := true, instr := i, perform := op }

/-- The live part after the slot has been armed or disarmed (R122). -/
def Live.armFor (l : Live) (i : Instr) (slot j : Nat) : Live :=
  if j == 0 then { l with armed := if i.sticky then fput l.armed slot { op := i, next := 0 } else fdel l.armed slot } else l

/-- The state in which the sole operation of an issue performs. -/
def State.opened (s : State) (i : Instr) : State :=
  s.begun.modCtx s.cur.x fun c => { c with live := c.live.armFor i s.cur.slot s.cur.j }

theorem issue_start {i : Instr} {op : Op Unit} {s : State} (hp : Plain s) (hpre : i.preMark = false)
    (hnb : s.issueBlocks [soleOp i op s] = none) :
    slotRun i op s = settle s (performIssue [soleOp i op s] s) := by
  have hm : preMarks false [soleOp i op s] s = .ok () s := by
    simp [preMarks, hpre, soleOp, overflows_false hp.gate hp.shadow, List.any]
  unfold slotRun runIssue
  rw [show ({ slot := s.cur.slot, k := s.cur.k, written := true, instr := i, perform := op } : SlotOp) = soleOp i op s from rfl,
    hnb]
  simp only [hm]

/-! ### The operation -/

/-- A live part after the slot has stepped (R122). -/
def Live.stepFor (l : Live) (i : Instr) (slot k : Nat) : Live :=
  match fget? l.armed slot with
  | some a => if a.op = i then { l with armed := fput l.armed slot { a with next := k + 1 } } else l
  | none => l

/-- The state after the slot has stepped. -/
def State.stepped (t : State) (i : Instr) (slot k : Nat) : State :=
  { t.modCtx t.cur.x fun c => { c with live := c.live.stepFor i slot k } with
    cur := { t.cur with needMark := t.cur.needMark || i.endMark } }

theorem raiseShape_none {s : State} (h : s.cur.hFail = none) : raiseShape s = .ok () s := by
  simp [raiseShape, h]

theorem begun_cctx (s : State) : s.begun.cctx = { s.cctx with blocked := false } := by
  simp [State.begun, State.cctx, modCtx_eq, State.ctx, State.setCtx]

theorem opened_cctx (s : State) (i : Instr) :
    (s.opened i).cctx = { s.cctx with blocked := false, live := s.cctx.live.armFor i s.cur.slot s.cur.j } := by
  have h := begun_cctx s
  unfold State.cctx at h ⊢
  have hx : (s.opened i).cur.x = s.cur.x := rfl
  rw [hx]
  unfold State.opened
  rw [modCtx_eq, setCtx_ctx_same]
  have hx : s.begun.cur.x = s.cur.x := rfl
  rw [hx] at h
  rw [h]

theorem armFor_none {l : Live} {i : Instr} {slot j : Nat} (h : (j == 0) = false) : l.armFor i slot j = l := by
  simp [Live.armFor, h]

theorem opened_armed (s : State) (i : Instr) (op : Op Unit) : armSlot (soleOp i op s) s.begun = .ok () (s.opened i) := by
  unfold armSlot
  rw [op_bind, op_get]
  show (if (true && s.cur.j == 0) = true then _ else _ : Op Unit) s.begun = _
  by_cases h : (s.cur.j == 0) = true
  · rw [if_pos (by rw [h]; rfl), op_modL]
    simp only [State.opened, Live.armFor, if_pos h]
    rfl
  · rw [if_neg (by simpa using h), op_pure]
    have h0 : (s.cur.j == 0) = false := by simpa using h
    unfold State.opened State.begun
    simp only [modCtx_eq, armFor_none h0]
    simp [State.setCtx, State.ctx]

theorem performAtEnd_none {t : State} (h : t.cur.atEnd = none) : performAtEnd t = .ok () t := by
  unfold performAtEnd
  rw [op_bind, op_get]
  simp only [h]
  rfl

theorem performSlotOp_sole {i : Instr} {op : Op Unit} {s t : State} (ht : tileOn s i) (hop : op (s.opened i) = .ok () t)
    (ha : t.cur.atEnd = none) : performSlotOp (soleOp i op s) s.begun = .ok () (t.stepped i s.cur.slot s.cur.k) := by
  have h1 : ({ s.begun with cur := { s.begun.cur with slot := s.cur.slot, k := s.cur.k } } : State) = s.begun := rfl
  have h4 : s.begun.cctx.live.tileOff i s.cur.k = false := by
    rw [begun_cctx]
    exact ht
  unfold performSlotOp
  rw [op_bind, op_modCur, show (soleOp i op s).slot = s.cur.slot from rfl, show (soleOp i op s).k = s.cur.k from rfl]
  simp only [h1]
  rw [op_bind, op_get]
  show (if s.begun.cur.left = true then _ else _ : Op Unit) s.begun = _
  rw [if_neg (by simp [State.begun]), op_bind, opened_armed]
  show (if s.begun.cctx.live.tileOff i s.cur.k = true then _ else _ : Op Unit) (s.opened i) = _
  rw [if_neg (by rw [h4]; simp)]
  rw [op_bind, show (soleOp i op s).perform = op from rfl, hop]
  simp only []
  rw [op_bind, performAtEnd_none ha]
  rfl

theorem forEach_one {α : Type} (a : α) (f : α → Op Unit) (s : State) :
    forEach [a] f s = f a s := by
  rw [op_forEach_cons, op_bind]
  cases f a s <;> rfl

/-- An issue of one operation: it performs in the state that the issue has opened, and the issue is closed. -/
theorem slotRun_ok {i : Instr} {op : Op Unit} {s t : State} (hp : Plain s) (hpre : i.preMark = false) (ht : tileOn s i)
    (hnb : s.issueBlocks [soleOp i op s] = none) (hop : op (s.opened i) = .ok () t) (hf : t.cur.hFail = none)
    (ha : t.cur.atEnd = none) :
    slotRun i op s = settle s (endIssue (t.stepped i s.cur.slot s.cur.k)) := by
  rw [issue_start hp hpre hnb]
  congr 1
  have h1 : raiseShape s.begun = .ok () s.begun := raiseShape_none rfl
  have h2 := performSlotOp_sole ht hop ha
  have h3 : raiseShape (t.stepped i s.cur.slot s.cur.k) = .ok () (t.stepped i s.cur.slot s.cur.k) := raiseShape_none hf
  unfold performIssue
  rw [op_bind, beginIssue_plain hp.hPend]
  simp only []
  by_cases h : s.cur.slot < 5
  · have e1 : ([soleOp i op s].filter (·.slot < 5)) = [soleOp i op s] := by simp [soleOp, h]
    have e2 : ([soleOp i op s].filter (5 ≤ ·.slot)) = [] := by simp [soleOp, h]
    rw [e1, e2, op_bind, forEach_one, h2]
    simp only []
    rw [op_bind, h3]
    simp only []
    rw [op_bind]
    rfl
  · have e1 : ([soleOp i op s].filter (·.slot < 5)) = [] := by simp [soleOp, h]
    have e2 : ([soleOp i op s].filter (5 ≤ ·.slot)) = [soleOp i op s] := by
      simp only [soleOp, List.filter_cons, List.filter_nil]
      rw [if_pos (by simpa using h)]
    rw [e1, e2, op_bind, op_forEach_nil, op_pure]
    simp only []
    rw [op_bind, h1]
    simp only []
    rw [op_bind, forEach_one, h2]

/-! ### What blocks an operation -/

/-- The state in which an operation of an issue of its own is tested for a block. -/
def State.tested (s : State) : State := { s with cur := { s.cur with src := s.cctx.live } }

theorem issueBlocks_none {i : Instr} {op : Op Unit} {s t : State} (hi : ∀ r, i ≠ .cwr r) (hop : op s.tested = .ok () t) :
    s.issueBlocks [soleOp i op s] = none := by
  have h1 : s.tested.afterCwrQ [soleOp i op s] = s.tested := by
    unfold State.afterCwrQ
    simp only [List.head?_cons, soleOp]
  have h2 : ({ s.tested with cur := { s.tested.cur with slot := s.cur.slot, k := s.cur.k } } : State) = s.tested := rfl
  show (State.afterCwrQ s.tested [soleOp i op s] |> fun s' => [soleOp i op s].findSome? s'.blocks) = none
  rw [h1]
  simp only [List.findSome?_cons, List.findSome?_nil]
  unfold State.blocks
  simp only [soleOp]
  split <;> simp_all

/-- What an operation of an issue of its own meets, where it is tested and where it performs: the registers as they stood at the
start, and the state but for the issue's own book-keeping. -/
structure Like (s t : State) : Prop where
  src : t.cur.src = s.cctx.live
  x : t.cur.x = s.cur.x
  slot : t.cur.slot = s.cur.slot
  k : t.cur.k = s.cur.k
  pc : t.cur.pc = s.cur.pc
  next : t.cur.next = s.cur.next
  rep : t.cur.rep = s.cur.rep
  isEnd : t.cur.isEnd = s.cur.isEnd
  j : t.cur.j = s.cur.j
  ctx : ∃ a b, t.cctx = { s.cctx with live := { s.cctx.live with armed := a }, blocked := b }
  others : ∀ y, y ≠ s.cur.x → t.ctx y = s.ctx y
  machine : { t with ctxs := [], cur := Cursor.init } = { s with ctxs := [], cur := Cursor.init }

theorem like_tested (s : State) : Like s s.tested :=
  ⟨rfl, rfl, rfl, rfl, rfl, rfl, rfl, rfl, rfl, ⟨s.cctx.live.armed, s.cctx.blocked, rfl⟩, fun _ _ => rfl, rfl⟩

theorem armFor_armed (l : Live) (i : Instr) (slot j : Nat) : ∃ a, l.armFor i slot j = { l with armed := a } := by
  unfold Live.armFor
  split
  · exact ⟨_, rfl⟩
  · exact ⟨l.armed, rfl⟩

theorem like_opened (s : State) (i : Instr) : Like s (s.opened i) := by
  refine ⟨rfl, rfl, rfl, rfl, rfl, rfl, rfl, rfl, rfl, ?_, ?_, rfl⟩
  · obtain ⟨a, ha⟩ := armFor_armed s.cctx.live i s.cur.slot s.cur.j
    exact ⟨a, false, by rw [opened_cctx, ha]⟩
  · intro y hy
    unfold State.opened State.begun
    simp only [modCtx_eq]
    rw [setCtx_ctx_ne _ _ hy]
    exact setCtx_ctx_ne s _ hy

/-! ### Handing issue on -/

/-- From `s` to `t` only which contexts issue has changed: their states and yield marks, and a core's choice. -/
structure Stir (K : Nat) (s t : State) : Prop where
  cur : t.cur = s.cur
  ctx : ∀ y, ∃ st w b, t.ctx y = { s.ctx y with state := st, why := w, yielded := b }
  core : coreRest (t.core K) = coreRest (s.core K)
  cores : ∀ k, k ≠ K → t.core k = s.core k
  machine : machineRest t = machineRest s

theorem Stir.refl (K : Nat) (s : State) : Stir K s s :=
  ⟨rfl, fun y => ⟨(s.ctx y).state, (s.ctx y).why, (s.ctx y).yielded, rfl⟩, rfl, fun _ _ => rfl, rfl⟩

theorem Stir.trans {K : Nat} {s t u : State} (h : Stir K s t) (g : Stir K t u) : Stir K s u := by
  refine ⟨g.cur.trans h.cur, fun y => ?_, g.core.trans h.core, fun k hk => (g.cores k hk).trans (h.cores k hk),
    g.machine.trans h.machine⟩
  obtain ⟨a, b, c, h1⟩ := h.ctx y
  obtain ⟨a', b', c', h2⟩ := g.ctx y
  exact ⟨a', b', c', by rw [h2, h1]⟩

theorem stir_ctx (K : Nat) (s : State) (x : Nat) (f : Ctx → Ctx)
    (hf : ∀ c, ∃ st w b, f c = { c with state := st, why := w, yielded := b }) : Stir K s (s.modCtx x f) := by
  refine ⟨rfl, fun y => ?_, rfl, fun _ _ => rfl, rfl⟩
  by_cases h : y = x
  · subst h
    obtain ⟨a, b, c, hc⟩ := hf (s.ctx y)
    exact ⟨a, b, c, by rw [modCtx_eq, setCtx_ctx_same, hc]⟩
  · exact ⟨(s.ctx y).state, (s.ctx y).why, (s.ctx y).yielded, by rw [modCtx_eq, setCtx_ctx_ne _ _ h]⟩

theorem stir_core (K : Nat) (s : State) (i l : Nat) :
    Stir K s (s.setCore K { s.core K with issuing := i, last := l }) := by
  refine ⟨rfl, fun y => ⟨(s.ctx y).state, (s.ctx y).why, (s.ctx y).yielded, rfl⟩, ?_, fun k hk => ?_, rfl⟩
  · rw [setCore_core_same]
    rfl
  · rw [setCore_core_ne _ _ hk]

theorem stir_handIssue (K : Nat) (s : State) : Stir K s (s.handIssue K) := by
  unfold State.handIssue
  split
  · exact Stir.refl K s
  · simp only []
    split
    · exact stir_core K s _ _
    · exact (stir_core K s _ _).trans (stir_ctx K _ _ _ fun c => ⟨.running, c.why, c.yielded, rfl⟩)

theorem stir_makeReady (s : State) (x : Nat) : Stir (coreOf x) s (s.makeReady x) :=
  (stir_ctx (coreOf x) s x _ fun c => ⟨.ready, .none, c.yielded, rfl⟩).trans (stir_handIssue _ _)

theorem stir_leave (s : State) (x : Nat) (st : CtxState) (why : BlockWhy) : Stir (coreOf x) s (s.leave x st why) :=
  (stir_ctx (coreOf x) s x _ fun c => ⟨st, why, c.yielded, rfl⟩).trans (stir_handIssue _ _)

theorem stir_foldl {K : Nat} {f : State → Nat → State} (l : List Nat) (hf : ∀ i ∈ l, ∀ s, Stir K s (f s i)) :
    ∀ s, Stir K s (l.foldl f s) := by
  induction l with
  | nil => exact fun s => Stir.refl K s
  | cons a l ih =>
    intro s
    exact (hf a (by simp) s).trans (ih (fun i hi => hf i (by simp [hi])) _)

theorem mem_upTo {n i : Nat} (h : i ∈ upTo n) : i < n := by
  unfold upTo at h
  exact List.mem_range.1 h

theorem stir_releaseYield (s : State) (x : Nat) : Stir (coreOf x) s (s.releaseYield x) := by
  unfold State.releaseYield
  refine stir_foldl (upTo 4) (fun i hi t => ?_) s
  have h4 := mem_upTo hi
  simp only []
  split
  · have hk : coreOf (x / 4 * 4 + i) = coreOf x := by unfold coreOf; omega
    have h1 := stir_makeReady (t.modCtx (x / 4 * 4 + i) fun c => { c with yielded := true }) (x / 4 * 4 + i)
    rw [hk] at h1
    exact (stir_ctx (coreOf x) t _ _ fun c => ⟨c.state, c.why, true, rfl⟩).trans h1
  · exact Stir.refl _ t

end Sys2Proof.Machine
end

