-- ==== Sys2Proof/Laws/Keeps.lean ====
section
/-! SUPPORT. Laws/Keeps.lean: how an issue of one operation ends, and what it leaves as it was. -/

namespace Sys2Proof.Machine

open Sys2Proof.Safety

theorem keeps_refl (e : Strike) (s : State) : Keeps e s s [] [] [] where
  issuer := rfl
  sKept _ _ := rfl
  sFull _ _ := rfl
  vKept _ _ := rfl
  vFull _ _ := rfl
  pKept _ _ := rfl
  liveKept := rfl
  armedKept _ _ _ _ := rfl
  ctxKept := rfl
  othersKept _ _ := rfl
  coreKept := rfl
  coresKept _ _ := rfl
  machineKept := rfl
  bytesKept _ _ := rfl

/-- What two parts of an issue keep, the issue keeps: the second writes no register. -/
theorem keeps_trans {e : Strike} {s t u : State} {ds dv dp} (h : Keeps e s t ds dv dp) (g : Keeps {} t u [] [] [])
    (hs : t.cur.slot = s.cur.slot) (hd : u.cur.disarm = false → t.cur.disarm = false) : Keeps e s u ds dv dp where
  issuer := g.issuer.trans h.issuer
  sKept r hr := (g.sKept r (by simp)).trans (h.sKept r hr)
  sFull r hr := (g.sFull r (by simp)).trans (h.sFull r hr)
  vKept r hr := (g.vKept r (by simp)).trans (h.vKept r hr)
  vFull r hr := (g.vFull r (by simp)).trans (h.vFull r hr)
  pKept r hr := (g.pKept r (by simp)).trans (h.pKept r hr)
  liveKept := by rw [show liveRest u.cctx.live = liveRest t.cctx.live from g.liveKept]; exact h.liveKept
  armedKept he i hi hd' := (g.armedKept rfl i (by rw [hs]; exact hi) hd').trans (h.armedKept he i hi (hd hd'))
  ctxKept := by rw [show ctxRest u.cctx = ctxRest t.cctx from g.ctxKept]; exact h.ctxKept
  othersKept y hy := (g.othersKept y (by rw [h.issuer]; exact hy)).trans (h.othersKept y hy)
  coreKept := by rw [show coreRest u.ccore = coreRest t.ccore from g.coreKept]; exact h.coreKept
  coresKept k hk := (g.coresKept k (by rw [h.issuer]; exact hk)).trans (h.coresKept k hk)
  machineKept := by rw [show machineRest u = machineRest t from g.machineKept]; exact h.machineKept
  bytesKept a ha := (g.bytesKept a (by simp)).trans (h.bytesKept a ha)

/-- The same with the parts in the other order: the first writes no register. -/
theorem keeps_after {e : Strike} {s t u : State} {ds dv dp} (h : Keeps {} s t [] [] []) (g : Keeps e t u ds dv dp)
    (hs : t.cur.slot = s.cur.slot) (hd : t.cur.disarm = false) : Keeps e s u ds dv dp where
  issuer := g.issuer.trans h.issuer
  sKept r hr := (g.sKept r hr).trans (h.sKept r (by simp))
  sFull r hr := (g.sFull r hr).trans (h.sFull r (by simp))
  vKept r hr := (g.vKept r hr).trans (h.vKept r (by simp))
  vFull r hr := (g.vFull r hr).trans (h.vFull r (by simp))
  pKept r hr := (g.pKept r hr).trans (h.pKept r (by simp))
  liveKept := by rw [g.liveKept, show liveRest t.cctx.live = liveRest s.cctx.live from h.liveKept]
  armedKept he i hi hd' := (g.armedKept he i (by rw [hs]; exact hi) hd').trans (h.armedKept rfl i hi hd)
  ctxKept := by rw [g.ctxKept, show ctxRest t.cctx = ctxRest s.cctx from h.ctxKept]
  othersKept y hy := (g.othersKept y (by rw [h.issuer]; exact hy)).trans (h.othersKept y hy)
  coreKept := by rw [g.coreKept, show coreRest t.ccore = coreRest s.ccore from h.coreKept]
  coresKept k hk := (g.coresKept k (by rw [h.issuer]; exact hk)).trans (h.coresKept k hk)
  machineKept := by rw [g.machineKept, show machineRest t = machineRest s from h.machineKept]
  bytesKept a ha := (g.bytesKept a ha).trans (h.bytesKept a (by simp))

/-- Two live parts that differ in their armed slots and counts only. -/
structure SameRegs (l m : Live) : Prop where
  s : m.s = l.s
  sWait : m.sWait = l.sWait
  v : m.v = l.v
  vWait : m.vWait = l.vWait
  p : m.p = l.p
  rest : liveRest m = liveRest l

theorem SameRegs.sv {l m : Live} (h : SameRegs l m) (r : BitVec 6) : m.sv r = l.sv r := by unfold Live.sv; rw [h.s]
theorem SameRegs.vv {l m : Live} (h : SameRegs l m) (r : BitVec 9) : m.vv r = l.vv r := by unfold Live.vv; rw [h.v]
theorem SameRegs.pv {l m : Live} (h : SameRegs l m) (r : BitVec 4) : m.pv r = l.pv r := by unfold Live.pv; rw [h.p]

/-- A change of the issuing context that leaves its registers and the rest of it as they were. -/
theorem keeps_modCtx {s : State} {f : Ctx → Ctx} (hl : SameRegs s.cctx.live (f s.cctx).live)
    (hr : ctxRest (f s.cctx) = ctxRest s.cctx)
    (ha : ∀ i, i ≠ s.cur.slot → s.cur.disarm = false → fget? (f s.cctx).live.armed i = fget? s.cctx.live.armed i) :
    Keeps {} s (s.modCtx s.cur.x f) [] [] [] := by
  have hc : (s.modCtx s.cur.x f).cctx = f s.cctx := by
    simp [State.cctx, modCtx_eq]
  exact {
    issuer := rfl
    sKept := fun r _ => by rw [hc, hl.sv]
    sFull := fun r _ => by rw [hc, hl.sWait]
    vKept := fun r _ => by rw [hc, hl.vv]
    vFull := fun r _ => by rw [hc, hl.vWait]
    pKept := fun r _ => by rw [hc, hl.pv]
    liveKept := hc ▸ hl.rest
    armedKept := fun _ i hi hd => hc ▸ ha i hi hd
    ctxKept := hc ▸ hr
    othersKept := fun y hy => by rw [modCtx_eq, setCtx_ctx_ne _ _ hy]
    coreKept := rfl
    coresKept := fun _ _ => rfl
    machineKept := rfl
    bytesKept := fun _ _ => rfl }

/-- A change of the cursor that leaves the issuer as it is. -/
theorem keeps_cur {s : State} {c : Cursor} (hx : c.x = s.cur.x) : Keeps {} s { s with cur := c } [] [] [] := by
  have hc : ({ s with cur := c } : State).cctx = s.cctx := by
    show s.ctx c.x = s.ctx s.cur.x
    rw [hx]
  have hk : ({ s with cur := c } : State).ccore = s.ccore := by
    show s.core (coreOf c.x) = s.core (coreOf s.cur.x)
    rw [hx]
  exact {
    issuer := hx
    sKept := fun r _ => by rw [hc]
    sFull := fun r _ => by rw [hc]
    vKept := fun r _ => by rw [hc]
    vFull := fun r _ => by rw [hc]
    pKept := fun r _ => by rw [hc]
    liveKept := by rw [hc]
    armedKept := fun _ i _ _ => by rw [hc]
    ctxKept := by rw [hc]
    othersKept := fun _ _ => rfl
    coreKept := by rw [hk]
    coresKept := fun _ _ => rfl
    machineKept := rfl
    bytesKept := fun _ _ => rfl }

/-- Handing issue on keeps everything. -/
theorem Stir.keeps {s t : State} (h : Stir (coreOf s.cur.x) s t) : Keeps {} s t [] [] [] := by
  obtain ⟨a, b, c, hc⟩ := h.ctx s.cur.x
  have hc : t.cctx = { s.cctx with state := a, why := b, yielded := c } := by
    unfold State.cctx
    rw [h.cur, hc]
  exact {
    issuer := by rw [h.cur]
    sKept := fun r _ => by rw [hc]
    sFull := fun r _ => by rw [hc]
    vKept := fun r _ => by rw [hc]
    vFull := fun r _ => by rw [hc]
    pKept := fun r _ => by rw [hc]
    liveKept := by rw [hc]
    armedKept := fun _ i _ _ => by rw [hc]
    ctxKept := by rw [hc]; rfl
    othersKept := fun y _ => by
      obtain ⟨st, why, yl, hy⟩ := h.ctx y
      rw [hy]
      rfl
    coreKept := by
      show coreRest (t.core (coreOf t.cur.x)) = _
      rw [h.cur]
      exact h.core
    coresKept := fun k hk => h.cores k hk
    machineKept := h.machine
    bytesKept := fun a _ => by
      have hm := congrArg State.mem h.machine
      show fget unwritten t.mem a = fget unwritten s.mem a
      rw [show t.mem = s.mem from hm] }

theorem begun_keeps (s : State) : Keeps {} s s.begun [] [] [] :=
  keeps_after (t := { s with cur := s.begun.cur }) (keeps_cur rfl)
    (keeps_modCtx (f := fun c => { c with blocked := false }) ⟨rfl, rfl, rfl, rfl, rfl, rfl⟩ rfl (fun _ _ _ => rfl)) rfl rfl

theorem armFor_same (l : Live) (i : Instr) (slot j : Nat) : SameRegs l (l.armFor i slot j) := by
  obtain ⟨a, ha⟩ := armFor_armed l i slot j
  rw [ha]
  exact ⟨rfl, rfl, rfl, rfl, rfl, rfl⟩

theorem armFor_ne (l : Live) (i : Instr) {slot m : Nat} (j : Nat) (h : m ≠ slot) :
    fget? (l.armFor i slot j).armed m = fget? l.armed m := by
  unfold Live.armFor
  split
  · simp only []
    split
    · exact fget?_fput_ne _ _ h
    · exact fget?_fdel_ne _ h
  · rfl

/-- Opening an issue keeps everything. -/
theorem opened_keeps (s : State) (i : Instr) : Keeps {} s (s.opened i) [] [] [] := by
  have h : Keeps {} s.begun (s.opened i) [] [] [] :=
    keeps_modCtx (armFor_same _ _ _ _) rfl (fun m hm _ => armFor_ne _ _ _ hm)
  exact keeps_after (begun_keeps s) h rfl rfl

theorem stepFor_same (l : Live) (i : Instr) (slot k : Nat) : SameRegs l (l.stepFor i slot k) := by
  unfold Live.stepFor
  split
  · split <;> exact ⟨rfl, rfl, rfl, rfl, rfl, rfl⟩
  · exact ⟨rfl, rfl, rfl, rfl, rfl, rfl⟩

theorem stepFor_ne (l : Live) (i : Instr) {slot m : Nat} (k : Nat) (h : m ≠ slot) :
    fget? (l.stepFor i slot k).armed m = fget? l.armed m := by
  unfold Live.stepFor
  split
  · split
    · exact fget?_fput_ne _ _ h
    · rfl
  · rfl

theorem stepped_keeps (t : State) (i : Instr) (k : Nat) : Keeps {} t (t.stepped i t.cur.slot k) [] [] [] :=
  keeps_trans (keeps_modCtx (f := fun c => { c with live := c.live.stepFor i t.cur.slot k }) (stepFor_same _ _ _ _) rfl
    (fun _ hm _ => stepFor_ne _ _ _ hm)) (keeps_cur rfl) rfl id

/-! ### The end of an issue without a mark -/

/-- The context at the continuation of its issue, counted. -/
def Ctx.counted (c : Ctx) (k : Cursor) : Ctx :=
  { c with yielded := false
           live := { c.live.countIssue c.handler with armed := if k.disarm then [] else c.live.armed } }.goTo k.continuation

/-- The state after the end of an issue that takes no mark. -/
def State.closed (u : State) : State := (u.modCtx u.cur.x fun c => c.counted u.cur).releaseYield u.cur.x

theorem going_not_ended {k : Cursor} (h : k.isEnd = true → k.j < k.rep) : k.continuation.ended = false := by
  unfold Cursor.continuation
  split
  · rfl
  · split
    · rfl
    · next hj =>
      split
      · next he => exact absurd (h he) hj
      · rfl

theorem endIssue_plain {u : State} (hl : u.cur.left = false) (hm : u.cur.needMark = false)
    (hg : u.cur.isEnd = true → u.cur.j < u.cur.rep) : endIssue u = .ok () u.closed := by
  have he := going_not_ended hg
  unfold endIssue State.closed
  rw [op_bind, op_get]
  show (if u.cur.left = true then _ else _ : Op Unit) u = _
  rw [if_neg (by simp [hl]), op_bind, op_modC]
  show (if (u.cur.needMark || u.cur.continuation.ended) = true then _ else _ : Op Unit) _ = _
  rw [if_neg (by simp [hm, he])]
  show (do modC fun c => c.goTo u.cur.continuation; _ : Op Unit) _ = _
  rw [op_bind, op_modC]
  simp only []
  rw [op_bind, op_get]
  show (if (u.cur.continuation.ended && _) = true then _ else _ : Op Unit) _ = _
  rw [if_neg (by simp [he]), op_modify]
  simp only [modCtx_eq, setCtx_ctx_same, setCtx_cur, setCtx_setCtx]
  rfl

theorem counted_same (c : Ctx) (k : Cursor) : SameRegs c.live (c.counted k).live := by
  unfold Ctx.counted Live.countIssue Ctx.goTo
  split <;> exact ⟨rfl, rfl, rfl, rfl, rfl, rfl⟩

theorem closed_cur (u : State) : u.closed.cur = u.cur := (stir_releaseYield _ _).cur

theorem closed_keeps (u : State) : Keeps {} u u.closed [] [] [] := by
  have h1 : Keeps {} u (u.modCtx u.cur.x fun c => c.counted u.cur) [] [] [] := by
    refine keeps_modCtx (counted_same _ _) rfl (fun i _ hd => ?_)
    unfold Ctx.counted Live.countIssue Ctx.goTo
    simp [hd]
  exact keeps_trans h1 (stir_releaseYield _ _).keeps rfl (by rw [closed_cur]; exact id)

theorem closed_point (u : State) : u.closed.cctx.point = u.cur.continuation := by
  obtain ⟨a, b, c, h⟩ := (stir_releaseYield (u.modCtx u.cur.x fun c => c.counted u.cur) u.cur.x).ctx u.cur.x
  unfold State.cctx
  rw [closed_cur]
  unfold State.closed
  rw [h, modCtx_eq, setCtx_ctx_same]
  rfl

/-! ### An issue of one operation that takes no mark -/

/-- What an operation that completes leaves of the cursor. -/
structure Ran (s t : State) : Prop where
  x : t.cur.x = s.cur.x
  slot : t.cur.slot = s.cur.slot
  rep : t.cur.rep = s.cur.rep
  isEnd : t.cur.isEnd = s.cur.isEnd
  j : t.cur.j = s.cur.j
  left : t.cur.left = false
  needMark : t.cur.needMark = false
  hFail : t.cur.hFail = none
  atEnd : t.cur.atEnd = none

/-- An operation that takes no mark completes: the state its issue ends in keeps all that the operation left. -/
theorem slotRun_plain {i : Instr} {op : Op Unit} {s t : State} (hp : Plain s) (hpre : i.preMark = false) (hend : i.endMark = false)
    (ht : tileOn s i) (hnb : s.issueBlocks [soleOp i op s] = none) (hop : op (s.opened i) = .ok () t) (hr : Ran s t) :
    ∃ u, slotRun i op s = .next u ∧ Keeps {} t u [] [] [] ∧ u.cur = t.cur ∧ u.cctx.point = t.cur.continuation := by
  refine ⟨(t.stepped i s.cur.slot s.cur.k).closed, ?_, ?_, ?_, ?_⟩
  · rw [slotRun_ok hp hpre ht hnb hop hr.hFail hr.atEnd, endIssue_plain]
    · rfl
    · exact hr.left
    · show (t.cur.needMark || i.endMark) = false
      rw [hr.needMark, hend]
      rfl
    · show t.cur.isEnd = true → t.cur.j < t.cur.rep
      rw [hr.isEnd, hr.j, hr.rep]
      exact hp.going
  · have h := stepped_keeps t i s.cur.k
    rw [hr.slot] at h
    exact keeps_trans h (closed_keeps _) rfl (by rw [closed_cur]; exact id)
  · rw [closed_cur]
    show { t.cur with needMark := t.cur.needMark || i.endMark } = t.cur
    rw [hend, Bool.or_false]
  · rw [closed_point]
    rfl

end Sys2Proof.Machine
end

