-- ==== Sys2Proof/Laws/PerInstr.lean ====
section
/-! SUPPORT. Laws/PerInstr.lean: what holds of every instruction by its syntax, one lemma per constructor: each of its words is a
32-bit word that no fetch takes for a header (R111, R114). -/

namespace Sys2Proof

open Machine (fld b2n)

theorem b2n_le (b : Bool) : b2n b ≤ 1 := by cases b <;> decide

theorem RR.bits_lt (r : RR) : r.bits < 2 ^ 26 + 2 ^ 20 := by
  have := b2n_le r.sk
  have := r.d.isLt
  have := r.a.isLt
  have := r.b.isLt
  have := b2n_le r.wa
  have := b2n_le r.wb
  unfold RR.bits
  omega

theorem RU.bits_lt (r : RU) : r.bits < 2 ^ 26 + 2 ^ 20 := by
  have := b2n_le r.sk
  have := r.d.isLt
  have := r.a.isLt
  have := b2n_le r.wa
  unfold RU.bits
  omega

theorem RI.bits_lt (r : RI) : r.bits < 2 ^ 26 + 2 ^ 20 := by
  have := b2n_le r.sk
  have := r.d.isLt
  have := r.a.isLt
  have := b2n_le r.wa
  unfold RI.bits
  omega

theorem Bfx.bits_lt (r : Bfx) : r.bits < 2 ^ 26 + 2 ^ 20 := by
  have := b2n_le r.sk
  have := r.d.isLt
  have := r.a.isLt
  have := b2n_le r.wa
  unfold Bfx.bits
  omega

theorem Bfi.bits_lt (r : Bfi) : r.bits < 2 ^ 26 + 2 ^ 20 := by
  have := b2n_le r.sk
  have := r.d.isLt
  have := r.a.isLt
  have := b2n_le r.wa
  have := b2n_le r.wd
  unfold Bfi.bits
  omega

theorem Csel.bits_lt (r : Csel) : r.bits < 2 ^ 26 + 2 ^ 20 := by
  have := b2n_le r.sk
  have := r.d.isLt
  have := r.a.isLt
  have := r.b.isLt
  have := b2n_le r.wa
  have := b2n_le r.wb
  unfold Csel.bits
  omega

theorem Li.bits_lt (r : Li) : r.bits < 2 ^ 26 + 2 ^ 20 := by
  have := b2n_le r.sk
  have := r.d.isLt
  have := b2n_le r.i31
  unfold Li.bits
  omega

theorem Lih.bits_lt (r : Lih) : r.bits < 2 ^ 26 + 2 ^ 20 := by
  have := b2n_le r.sk
  have := r.d.isLt
  have := r.a.isLt
  have := b2n_le r.wa
  have := b2n_le r.i31
  unfold Lih.bits
  omega

theorem La.bits_lt (r : La) : r.bits < 2 ^ 26 + 2 ^ 20 := by
  have := b2n_le r.sk
  have := r.d.isLt
  have := b2n_le r.m
  have := b2n_le r.i31
  unfold La.bits
  omega

theorem Br.bits_lt (r : Br) : r.bits < 2 ^ 26 + 2 ^ 20 := by
  have := b2n_le r.dis
  unfold Br.bits
  omega

theorem Call.bits_lt (r : Call) : r.bits < 2 ^ 26 + 2 ^ 20 := by
  have := r.d.isLt
  have := b2n_le r.dis
  unfold Call.bits
  omega

theorem Bc.bits_lt (r : Bc) : r.bits < 2 ^ 26 + 2 ^ 20 := by
  have := r.a.isLt
  have := r.b.isLt
  have := b2n_le r.wa
  have := b2n_le r.wb
  unfold Bc.bits
  omega

theorem Jr.bits_lt (r : Jr) : r.bits < 2 ^ 26 + 2 ^ 20 := by
  have := r.a.isLt
  have := b2n_le r.wa
  unfold Jr.bits
  omega

theorem Callr.bits_lt (r : Callr) : r.bits < 2 ^ 26 + 2 ^ 20 := by
  have := r.d.isLt
  have := r.a.isLt
  have := b2n_le r.wa
  unfold Callr.bits
  omega

theorem Ld.bits_lt (r : Ld) : r.bits < 2 ^ 26 + 2 ^ 20 := by
  have := b2n_le r.sk
  have := r.d.isLt
  have := r.a.isLt
  have := r.cls.isLt
  have := r.ord.isLt
  have := b2n_le r.wa
  unfold Ld.bits
  omega

theorem St.bits_lt (r : St) : r.bits < 2 ^ 26 + 2 ^ 20 := by
  have := b2n_le r.sk
  have := r.d.isLt
  have := r.a.isLt
  have := r.cls.isLt
  have := r.ord.isLt
  have := b2n_le r.wa
  have := b2n_le r.wd
  unfold St.bits
  omega

theorem At.bits_lt (r : At) : r.bits < 2 ^ 26 + 2 ^ 20 := by
  have := b2n_le r.sk
  have := r.d.isLt
  have := r.a.isLt
  have := r.cls.isLt
  have := r.ord.isLt
  have := b2n_le r.wa
  have := b2n_le r.wd
  unfold At.bits
  omega

theorem Ato.bits_lt (r : Ato) : r.bits < 2 ^ 26 + 2 ^ 20 := by
  have := b2n_le r.sk
  have := r.d.isLt
  have := r.a.isLt
  have := r.cls.isLt
  have := r.ord.isLt
  have := b2n_le r.opt
  have := b2n_le r.wa
  have := b2n_le r.wd
  unfold Ato.bits
  omega

theorem Fence.bits_lt (r : Fence) : r.bits < 2 ^ 26 + 2 ^ 20 := by
  have := r.scope.isLt
  have := r.kind.isLt
  unfold Fence.bits
  omega

theorem Waitm.bits_lt (r : Waitm) : r.bits < 2 ^ 26 + 2 ^ 20 := by
  have := r.d.isLt
  have := r.a.isLt
  have := r.b.isLt
  have := b2n_le r.wa
  have := b2n_le r.wb
  unfold Waitm.bits
  omega

theorem Barrive.bits_lt (r : Barrive) : r.bits < 2 ^ 26 + 2 ^ 20 := by
  have := b2n_le r.e
  have := r.a.isLt
  have := r.b.isLt
  have := b2n_le r.wa
  have := b2n_le r.wb
  unfold Barrive.bits
  omega

theorem Bexpect.bits_lt (r : Bexpect) : r.bits < 2 ^ 26 + 2 ^ 20 := by
  have := r.a.isLt
  have := r.b.isLt
  have := b2n_le r.wa
  have := b2n_le r.wb
  unfold Bexpect.bits
  omega

theorem Bwait.bits_lt (r : Bwait) : r.bits < 2 ^ 26 + 2 ^ 20 := by
  have := r.d.isLt
  have := r.a.isLt
  have := r.b.isLt
  have := b2n_le r.wa
  have := b2n_le r.wb
  unfold Bwait.bits
  omega

theorem Tkget.bits_lt (r : Tkget) : r.bits < 2 ^ 26 + 2 ^ 20 := by
  have := r.d.isLt
  unfold Tkget.bits
  omega

theorem Tkpost.bits_lt (r : Tkpost) : r.bits < 2 ^ 26 + 2 ^ 20 := by
  have := r.a.isLt
  have := b2n_le r.wa
  unfold Tkpost.bits
  omega

theorem Tkdone.bits_lt (r : Tkdone) : r.bits < 2 ^ 26 + 2 ^ 20 := by
  have := r.a.isLt
  have := r.b.isLt
  have := b2n_le r.wa
  have := b2n_le r.wb
  unfold Tkdone.bits
  omega

theorem Crd.bits_lt (r : Crd) : r.bits < 2 ^ 26 + 2 ^ 20 := by
  have := r.d.isLt
  have := r.cr.isLt
  unfold Crd.bits
  omega

theorem Cwr.bits_lt (r : Cwr) : r.bits < 2 ^ 26 + 2 ^ 20 := by
  have := r.cr.isLt
  have := r.a.isLt
  have := b2n_le r.wa
  unfold Cwr.bits
  omega

theorem VF.bits_lt (r : VF) : r.bits < 2 ^ 26 + 2 ^ 20 := by
  have := b2n_le r.sk
  have := r.w.isLt
  have := r.d.isLt
  have := r.a.isLt
  unfold VF.bits
  omega

theorem VM.bits_lt (r : VM) : r.bits < 2 ^ 26 + 2 ^ 20 := by
  have := b2n_le r.sk
  have := r.w.isLt
  have := r.v.isLt
  have := r.s.isLt
  have := b2n_le r.wb
  have := b2n_le r.wv
  unfold VM.bits
  omega

theorem VG.bits_lt (r : VG) : r.bits < 2 ^ 26 + 2 ^ 20 := by
  have := b2n_le r.sk
  have := r.w.isLt
  have := r.v.isLt
  have := r.s.isLt
  have := b2n_le r.wb
  have := b2n_le r.wv
  unfold VG.bits
  omega

theorem Fopen.bits_lt (r : Fopen) : r.bits < 2 ^ 26 + 2 ^ 20 := by
  have := r.f.isLt
  have := r.a.isLt
  have := b2n_le r.wa
  have := b2n_le r.o
  have := r.disp.isLt
  unfold Fopen.bits
  omega

theorem Fnext.bits_lt (r : Fnext) : r.bits < 2 ^ 26 + 2 ^ 20 := by
  have := b2n_le r.sk
  have := r.f.isLt
  have := r.nm1.isLt
  unfold Fnext.bits
  omega

theorem Fskip.bits_lt (r : Fskip) : r.bits < 2 ^ 26 + 2 ^ 20 := by
  have := b2n_le r.sk
  have := r.f.isLt
  have := r.b.isLt
  have := b2n_le r.wb
  have := b2n_le r.t
  unfold Fskip.bits
  omega

theorem Fjoin.bits_lt (r : Fjoin) : r.bits < 2 ^ 26 + 2 ^ 20 := by
  have := b2n_le r.sk
  have := r.d.isLt
  have := r.x.isLt
  have := r.y.isLt
  unfold Fjoin.bits
  omega

theorem Fmerge.bits_lt (r : Fmerge) : r.bits < 2 ^ 26 + 2 ^ 20 := by
  have := b2n_le r.sk
  have := r.fo.isLt
  have := r.fu.isLt
  have := r.fmt.isLt
  have := b2n_le r.z
  unfold Fmerge.bits
  omega

theorem Fldv.bits_lt (r : Fldv) : r.bits < 2 ^ 26 + 2 ^ 20 := by
  have := b2n_le r.sk
  have := r.f.isLt
  have := r.w.isLt
  have := b2n_le r.k
  have := b2n_le r.side
  unfold Fldv.bits
  omega

theorem Fcrd.bits_lt (r : Fcrd) : r.bits < 2 ^ 26 + 2 ^ 20 := by
  have := b2n_le r.sk
  have := r.f.isLt
  have := r.w.isLt
  have := b2n_le r.k
  unfold Fcrd.bits
  omega

theorem Femit.bits_lt (r : Femit) : r.bits < 2 ^ 26 + 2 ^ 20 := by
  have := b2n_le r.sk
  have := r.f.isLt
  have := r.w.isLt
  have := r.p.isLt
  have := b2n_le r.wv
  unfold Femit.bits
  omega

theorem Fstat.bits_lt (r : Fstat) : r.bits < 2 ^ 26 + 2 ^ 20 := by
  have := b2n_le r.sk
  have := r.f.isLt
  have := r.d.isLt
  have := r.sel.isLt
  unfold Fstat.bits
  omega

theorem Fimg.bits_lt (r : Fimg) : r.bits < 2 ^ 26 + 2 ^ 20 := by
  have := r.f.isLt
  have := r.a.isLt
  have := b2n_le r.wa
  unfold Fimg.bits
  omega

theorem Fclose.bits_lt (r : Fclose) : r.bits < 2 ^ 26 + 2 ^ 20 := by
  have := r.f.isLt
  unfold Fclose.bits
  omega

theorem Xscale.bits_lt (r : Xscale) : r.bits < 2 ^ 26 + 2 ^ 20 := by
  have := b2n_le r.sk
  have := r.a.isLt
  have := b2n_le r.wa
  unfold Xscale.bits
  omega

theorem Xexpv.bits_lt (r : Xexpv) : r.bits < 2 ^ 26 + 2 ^ 20 := by
  have := b2n_le r.sk
  unfold Xexpv.bits
  omega

theorem Xfix.bits_lt (r : Xfix) : r.bits < 2 ^ 26 + 2 ^ 20 := by
  have := b2n_le r.sk
  have := r.b.isLt
  have := r.g.isLt
  have := r.a.isLt
  have := b2n_le r.wa
  have := b2n_le r.pop
  unfold Xfix.bits
  omega

theorem Xcvt.bits_lt (r : Xcvt) : r.bits < 2 ^ 26 + 2 ^ 20 := by
  have := b2n_le r.sk
  have := r.b.isLt
  have := r.mode.isLt
  unfold Xcvt.bits
  omega

theorem Hmem.bits_lt (r : Hmem) : r.bits < 2 ^ 26 + 2 ^ 20 := by
  have := b2n_le r.sk
  have := r.h.isLt
  have := r.a.isLt
  have := b2n_le r.wa
  unfold Hmem.bits
  omega

theorem Hset.bits_lt (r : Hset) : r.bits < 2 ^ 26 + 2 ^ 20 := by
  have := b2n_le r.sk
  have := r.h.isLt
  have := r.field.isLt
  have := r.a.isLt
  have := b2n_le r.wa
  unfold Hset.bits
  omega

theorem Hfence.bits_lt (r : Hfence) : r.bits < 2 ^ 26 + 2 ^ 20 := by
  have := b2n_le r.one
  have := r.a.isLt
  have := b2n_le r.wa
  unfold Hfence.bits
  omega

theorem Acalloc.bits_lt (r : Acalloc) : r.bits < 2 ^ 26 + 2 ^ 20 := by
  have := b2n_le r.qe
  have := r.q.isLt
  have := r.b.isLt
  have := r.fmt.isLt
  unfold Acalloc.bits
  omega

theorem Acfree.bits_lt (r : Acfree) : r.bits < 2 ^ 26 + 2 ^ 20 := by
  have := b2n_le r.qe
  have := r.q.isLt
  have := r.b.isLt
  unfold Acfree.bits
  omega

theorem Acgrant.bits_lt (r : Acgrant) : r.bits < 2 ^ 26 + 2 ^ 20 := by
  have := b2n_le r.qe
  have := r.q.isLt
  have := r.b.isLt
  have := r.ctx.isLt
  have := b2n_le r.r
  unfold Acgrant.bits
  omega

theorem Aczero.bits_lt (r : Aczero) : r.bits < 2 ^ 26 + 2 ^ 20 := by
  have := b2n_le r.sk
  have := b2n_le r.qe
  have := r.q.isLt
  have := r.b.isLt
  unfold Aczero.bits
  omega

theorem Acrd.bits_lt (r : Acrd) : r.bits < 2 ^ 26 + 2 ^ 20 := by
  have := b2n_le r.sk
  have := b2n_le r.qe
  have := r.q.isLt
  have := r.b.isLt
  have := r.row.isLt
  have := b2n_le r.h
  unfold Acrd.bits
  omega

theorem AcrdSt.bits_lt (r : AcrdSt) : r.bits < 2 ^ 26 + 2 ^ 20 - 2 ^ 10 := by
  have := b2n_le r.sk
  have := b2n_le r.qe
  have := r.q.isLt
  have := r.b.isLt
  unfold AcrdSt.bits
  omega

theorem Acwr.bits_lt (r : Acwr) : r.bits < 2 ^ 26 + 2 ^ 20 := by
  have := b2n_le r.sk
  have := b2n_le r.qe
  have := r.q.isLt
  have := r.b.isLt
  have := r.row.isLt
  have := b2n_le r.h
  unfold Acwr.bits
  omega

theorem Mma.bits_lt (r : Mma) : r.bits < 2 ^ 26 + 2 ^ 20 := by
  have := b2n_le r.sk
  have := b2n_le r.qe
  have := r.q.isLt
  have := r.b.isLt
  have := r.ga.isLt
  have := r.gb.isLt
  have := b2n_le r.ka
  have := b2n_le r.kb
  have := b2n_le r.wit
  unfold Mma.bits
  omega

theorem Mcnt.bits_lt (r : Mcnt) : r.bits < 2 ^ 26 + 2 ^ 20 := by
  have := b2n_le r.sk
  have := b2n_le r.qe
  have := r.q.isLt
  have := r.n.isLt
  have := r.ga.isLt
  have := r.gb.isLt
  have := b2n_le r.ka
  have := b2n_le r.kb
  unfold Mcnt.bits
  omega

theorem Nclr.bits_lt (r : Nclr) : r.bits < 2 ^ 26 + 2 ^ 20 := by
  have := b2n_le r.qe
  have := r.q.isLt
  have := r.n.isLt
  unfold Nclr.bits
  omega

theorem Nimg.bits_lt (r : Nimg) : r.bits < 2 ^ 26 + 2 ^ 20 := by
  have := b2n_le r.sk
  have := b2n_le r.qe
  have := r.q.isLt
  have := r.n.isLt
  have := r.a.isLt
  have := b2n_le r.wa
  unfold Nimg.bits
  omega

theorem Ndrain.bits_lt (r : Ndrain) : r.bits < 2 ^ 26 + 2 ^ 20 := by
  have := b2n_le r.sk
  have := b2n_le r.qe
  have := r.q.isLt
  have := r.b.isLt
  have := r.n.isLt
  have := b2n_le r.c
  have := b2n_le r.r
  unfold Ndrain.bits
  omega

theorem Nchk.bits_lt (r : Nchk) : r.bits < 2 ^ 26 + 2 ^ 20 := by
  have := b2n_le r.sk
  have := b2n_le r.qe
  have := r.q.isLt
  have := r.n.isLt
  have := r.d.isLt
  unfold Nchk.bits
  omega

theorem Rgset.bits_lt (r : Rgset) : r.bits < 2 ^ 26 + 2 ^ 20 := by
  have := b2n_le r.qe
  have := r.q.isLt
  have := r.g.isLt
  have := r.size.isLt
  unfold Rgset.bits
  omega

theorem Copy.bits_lt (r : Copy) : r.bits < 2 ^ 26 + 2 ^ 20 := by
  have := b2n_le r.sk
  have := b2n_le r.qe
  have := r.q.isLt
  have := r.hd.isLt
  have := r.hs.isLt
  have := r.cid.isLt
  have := b2n_le r.ds
  have := b2n_le r.dt
  unfold Copy.bits
  omega

theorem Copyt.bits_lt (r : Copyt) : r.bits < 2 ^ 26 + 2 ^ 20 := by
  have := b2n_le r.sk
  have := b2n_le r.qe
  have := r.q.isLt
  have := r.hd.isLt
  have := r.hs.isLt
  have := r.cid.isLt
  have := b2n_le r.ds
  unfold Copyt.bits
  omega

theorem Cidx.bits_lt (r : Cidx) : r.bits < 2 ^ 26 + 2 ^ 20 := by
  have := b2n_le r.sk
  have := b2n_le r.qe
  have := r.q.isLt
  have := r.hd.isLt
  have := r.hs.isLt
  have := r.cid.isLt
  unfold Cidx.bits
  omega

theorem Cred.bits_lt (r : Cred) : r.bits < 2 ^ 26 + 2 ^ 20 := by
  have := b2n_le r.sk
  have := b2n_le r.qe
  have := r.q.isLt
  have := r.hd.isLt
  have := r.hs.isLt
  have := r.cid.isLt
  have := b2n_le r.ds
  have := b2n_le r.sr
  unfold Cred.bits
  omega

theorem Cring.bits_lt (r : Cring) : r.bits < 2 ^ 26 + 2 ^ 20 := by
  have := b2n_le r.sk
  have := b2n_le r.qe
  have := r.q.isLt
  have := r.g.isLt
  have := r.hs.isLt
  have := r.cid.isLt
  unfold Cring.bits
  omega

theorem Cwait.bits_lt (r : Cwait) : r.bits < 2 ^ 26 + 2 ^ 20 := by
  have := r.a.isLt
  have := r.cid.isLt
  have := b2n_le r.wa
  unfold Cwait.bits
  omega

theorem Ctest.bits_lt (r : Ctest) : r.bits < 2 ^ 26 + 2 ^ 20 := by
  have := r.d.isLt
  have := r.cid.isLt
  unfold Ctest.bits
  omega

theorem Publish.bits_lt (r : Publish) : r.bits < 2 ^ 26 + 2 ^ 20 := by
  have := r.h.isLt
  have := r.cid.isLt
  unfold Publish.bits
  omega

theorem Upd.bits_lt (r : Upd) : r.bits < 2 ^ 26 + 2 ^ 20 := by
  have := r.h.isLt
  have := r.cid.isLt
  unfold Upd.bits
  omega

theorem Tmode.bits_lt (r : Tmode) : r.bits < 2 ^ 26 + 2 ^ 20 := by
  have := r.mode.isLt
  have := r.a.isLt
  have := b2n_le r.wa
  unfold Tmode.bits
  omega

theorem Tevid.bits_lt (r : Tevid) : r.bits < 2 ^ 26 + 2 ^ 20 := by
  have := b2n_le r.sk
  have := r.a.isLt
  have := b2n_le r.wa
  have := r.b.isLt
  have := b2n_le r.wb
  unfold Tevid.bits
  omega

theorem Tseed.bits_lt (r : Tseed) : r.bits < 2 ^ 26 + 2 ^ 20 := by
  have := r.a.isLt
  have := b2n_le r.wa
  unfold Tseed.bits
  omega

theorem Tfwd.bits_lt (r : Tfwd) : r.bits < 2 ^ 26 + 2 ^ 20 := by
  have := b2n_le r.sk
  have := b2n_le r.qe
  have := r.q.isLt
  have := r.a.isLt
  have := b2n_le r.wa
  have := r.ph.isLt
  have := r.w.isLt
  unfold Tfwd.bits
  omega

theorem Trev.bits_lt (r : Trev) : r.bits < 2 ^ 26 + 2 ^ 20 := by
  have := b2n_le r.sk
  have := b2n_le r.qe
  have := r.q.isLt
  have := r.a.isLt
  have := b2n_le r.wa
  unfold Trev.bits
  omega

theorem Tratio.bits_lt (r : Tratio) : r.bits < 2 ^ 26 + 2 ^ 20 := by
  have := b2n_le r.sk
  have := b2n_le r.qe
  have := r.q.isLt
  have := r.a.isLt
  have := b2n_le r.wa
  have := r.b.isLt
  have := b2n_le r.wb
  unfold Tratio.bits
  omega

theorem Twclr.bits_lt (r : Twclr) : r.bits < 2 ^ 26 + 2 ^ 20 := by
  have := b2n_le r.sk
  have := b2n_le r.all
  have := r.w.isLt
  unfold Twclr.bits
  omega

theorem Tstat.bits_lt (r : Tstat) : r.bits < 2 ^ 26 + 2 ^ 20 := by
  have := b2n_le r.sk
  have := r.d.isLt
  have := r.sel.isLt
  unfold Tstat.bits
  omega

theorem RI.ext_lt (r : RI) : r.ext < 2 ^ 31 := by
  have := r.imm.isLt
  unfold RI.ext
  omega

theorem Bfx.ext_lt (r : Bfx) : r.ext < 2 ^ 31 := by
  have := r.wm1.isLt
  have := r.pos.isLt
  unfold Bfx.ext
  omega

theorem Bfi.ext_lt (r : Bfi) : r.ext < 2 ^ 31 := by
  have := r.wm1.isLt
  have := r.pos.isLt
  unfold Bfi.ext
  omega

theorem Csel.ext_lt (r : Csel) : r.ext < 2 ^ 31 := by
  have := b2n_le r.wc
  have := r.c.isLt
  unfold Csel.ext
  omega

theorem Li.ext_lt (r : Li) : r.ext < 2 ^ 31 := by
  have := r.imm.isLt
  unfold Li.ext
  omega

theorem Lih.ext_lt (r : Lih) : r.ext < 2 ^ 31 := by
  have := r.imm.isLt
  unfold Lih.ext
  omega

theorem La.ext_lt (r : La) : r.ext < 2 ^ 31 := by
  have := r.imm.isLt
  unfold La.ext
  omega

theorem Br.ext_lt (r : Br) : r.ext < 2 ^ 31 := by
  have := r.off.isLt
  unfold Br.ext
  omega

theorem Call.ext_lt (r : Call) : r.ext < 2 ^ 31 := by
  have := r.off.isLt
  unfold Call.ext
  omega

theorem Bc.ext_lt (r : Bc) : r.ext < 2 ^ 31 := by
  have := r.off.isLt
  unfold Bc.ext
  omega

theorem Ld.ext_lt (r : Ld) : r.ext < 2 ^ 31 := by
  have := r.disp.isLt
  have := r.stride.isLt
  have := r.scope.isLt
  unfold Ld.ext
  omega

theorem St.ext_lt (r : St) : r.ext < 2 ^ 31 := by
  have := r.disp.isLt
  have := r.stride.isLt
  have := r.scope.isLt
  unfold St.ext
  omega

theorem At.ext_lt (r : At) : r.ext < 2 ^ 31 := by
  have := r.disp.isLt
  have := r.stride.isLt
  have := r.scope.isLt
  unfold At.ext
  omega

theorem Ato.ext_lt (r : Ato) : r.ext < 2 ^ 31 := by
  have := r.disp.isLt
  have := r.stride.isLt
  have := r.scope.isLt
  unfold Ato.ext
  omega

theorem Waitm.ext_lt (r : Waitm) : r.ext < 2 ^ 31 := by
  have := r.disp.isLt
  have := r.cls.isLt
  unfold Waitm.ext
  omega

theorem BarX.ext_lt (r : BarX) : r.ext < 2 ^ 31 := by
  have := r.disp.isLt
  unfold BarX.ext
  omega

theorem TrapX.ext_lt (r : TrapX) : r.ext < 2 ^ 31 := by
  have := r.imm.isLt
  unfold TrapX.ext
  omega

theorem VF.ext_lt (r : VF) : r.ext < 2 ^ 31 := by
  have := r.b.isLt
  have := r.c.isLt
  have := r.p.isLt
  have := b2n_le r.wa
  have := b2n_le r.wb
  have := b2n_le r.wc
  have := b2n_le r.fi
  have := b2n_le r.fo
  have := b2n_le r.sat
  have := r.sub.isLt
  unfold VF.ext
  omega

theorem VM.ext_lt (r : VM) : r.ext < 2 ^ 31 := by
  have := r.disp.isLt
  have := r.stride.isLt
  have := r.cls.isLt
  have := r.p.isLt
  unfold VM.ext
  omega

theorem VG.ext_lt (r : VG) : r.ext < 2 ^ 31 := by
  have := r.x.isLt
  have := b2n_le r.wx
  have := r.cls.isLt
  have := r.p.isLt
  unfold VG.ext
  omega

theorem FopenX.ext_lt (r : FopenX) : r.ext < 2 ^ 31 := by
  have := r.b.isLt
  have := b2n_le r.wb
  have := r.segi.isLt
  unfold FopenX.ext
  omega

theorem Fmerge.ext_lt (r : Fmerge) : r.ext < 2 ^ 31 := by
  have := r.a.isLt
  have := b2n_le r.wa
  have := r.b.isLt
  have := b2n_le r.wb
  unfold Fmerge.ext
  omega

theorem Fldv.ext_lt (r : Fldv) : r.ext < 2 ^ 31 := by
  have := r.vd.isLt
  have := r.a.isLt
  have := b2n_le r.wa
  unfold Fldv.ext
  omega

theorem Fcrd.ext_lt (r : Fcrd) : r.ext < 2 ^ 31 := by
  have := r.vd.isLt
  unfold Fcrd.ext
  omega

theorem Femit.ext_lt (r : Femit) : r.ext < 2 ^ 31 := by
  have := r.v.isLt
  unfold Femit.ext
  omega

theorem Xexpv.ext_lt (r : Xexpv) : r.ext < 2 ^ 31 := by
  have := b2n_le r.wa
  have := r.va.isLt
  unfold Xexpv.ext
  omega

theorem Xfix.ext_lt (r : Xfix) : r.ext < 2 ^ 31 := by
  have := r.km.isLt
  unfold Xfix.ext
  omega

theorem Xcvt.ext_lt (r : Xcvt) : r.ext < 2 ^ 31 := by
  have := r.e.isLt
  unfold Xcvt.ext
  omega

theorem HmemX.ext_lt (r : HmemX) : r.ext < 2 ^ 31 := by
  have := r.stride.isLt
  have := r.disp.isLt
  unfold HmemX.ext
  omega

theorem Acrd.ext_lt (r : Acrd) : r.ext < 2 ^ 31 := by
  have := r.stride.isLt
  have := r.vd.isLt
  unfold Acrd.ext
  omega

theorem AcrdSt.ext_lt (r : AcrdSt) : r.ext < 2 ^ 31 := by
  have := r.sd.isLt
  unfold AcrdSt.ext
  omega

theorem Acwr.ext_lt (r : Acwr) : r.ext < 2 ^ 31 := by
  have := r.stride.isLt
  have := b2n_le r.wv
  have := r.vs.isLt
  unfold Acwr.ext
  omega

theorem Mma.ext_lt (r : Mma) : r.ext < 2 ^ 31 := by
  have := r.km.isLt
  unfold Mma.ext
  omega

theorem Mcnt.ext_lt (r : Mcnt) : r.ext < 2 ^ 31 := by
  have := r.km.isLt
  unfold Mcnt.ext
  omega

theorem Rgset.ext_lt (r : Rgset) : r.ext < 2 ^ 31 := by
  have := r.base.isLt
  unfold Rgset.ext
  omega

theorem CopyX.ext_lt (r : CopyX) : r.ext < 2 ^ 31 := by
  have := r.stride.isLt
  have := r.a.isLt
  have := b2n_le r.wa
  have := b2n_le r.ba
  unfold CopyX.ext
  omega

theorem Cidx.ext_lt (r : Cidx) : r.ext < 2 ^ 31 := by
  have := r.stride.isLt
  have := r.a.isLt
  have := b2n_le r.wa
  have := b2n_le r.ba
  have := r.x.isLt
  have := b2n_le r.wx
  unfold Cidx.ext
  omega

theorem Upd.ext_lt (r : Upd) : r.ext < 2 ^ 31 := by
  have := r.a.isLt
  have := b2n_le r.wa
  have := r.g.isLt
  have := b2n_le r.wg
  unfold Upd.ext
  omega

theorem Tmode.ext_lt (r : Tmode) : r.ext < 2 ^ 31 := by
  have := r.b.isLt
  have := b2n_le r.wb
  unfold Tmode.ext
  omega

theorem TrecX.ext_lt (r : TrecX) : r.ext < 2 ^ 31 := by
  have := r.stride.isLt
  have := r.disp.isLt
  unfold TrecX.ext
  omega

theorem Tratio.ext_lt (r : Tratio) : r.ext < 2 ^ 31 := by
  have := r.c.isLt
  have := b2n_le r.wc
  unfold Tratio.ext
  omega

namespace Laws.PlainWords

/-- Every word of the instruction is a 32-bit word whose bits [31:28] are not those of a header. -/
def Statement (i : Instr) : Prop := ∀ w ∈ encode i, w < 2 ^ 32 ∧ fld w 31 28 ≠ 15

theorem plain {w : Nat} (h : w < 15 * 2 ^ 28) : w < 2 ^ 32 ∧ fld w 31 28 ≠ 15 := by
  unfold fld
  omega

theorem one {major minor f : Nat} (h1 : major < 15) (h2 : minor < 64) (h3 : f < 2 ^ 26 + 2 ^ 20) :
    ∀ w ∈ word1 major minor f, w < 2 ^ 32 ∧ fld w 31 28 ≠ 15 := by
  intro w hw
  simp only [word1, List.mem_singleton] at hw
  exact plain (by omega)

theorem both {major minor f x : Nat} (h1 : major < 15) (h2 : minor < 64) (h3 : f < 2 ^ 26 + 2 ^ 20) (h4 : x < 2 ^ 31) :
    ∀ w ∈ word2 major minor f x, w < 2 ^ 32 ∧ fld w 31 28 ≠ 15 := by
  intro w hw
  simp only [word2, List.mem_cons, List.not_mem_nil, or_false] at hw
  rcases hw with rfl | rfl
  · exact plain (by omega)
  · exact plain (by omega)

theorem none {i : Instr} (h : encode i = []) : Statement i := by
  intro w hw
  rw [h] at hw
  exact absurd hw List.not_mem_nil

theorem sNop : Statement (.sNop) := one (by decide) (by decide) (by decide)
theorem add (r : RR) : Statement (.add r) := one (by decide) (by decide) r.bits_lt
theorem sub (r : RR) : Statement (.sub r) := one (by decide) (by decide) r.bits_lt
theorem mul (r : RR) : Statement (.mul r) := one (by decide) (by decide) r.bits_lt
theorem mulh (r : RR) : Statement (.mulh r) := one (by decide) (by decide) r.bits_lt
theorem mulhu (r : RR) : Statement (.mulhu r) := one (by decide) (by decide) r.bits_lt
theorem div (r : RR) : Statement (.div r) := one (by decide) (by decide) r.bits_lt
theorem divu (r : RR) : Statement (.divu r) := one (by decide) (by decide) r.bits_lt
theorem rem (r : RR) : Statement (.rem r) := one (by decide) (by decide) r.bits_lt
theorem remu (r : RR) : Statement (.remu r) := one (by decide) (by decide) r.bits_lt
theorem and (r : RR) : Statement (.and r) := one (by decide) (by decide) r.bits_lt
theorem or (r : RR) : Statement (.or r) := one (by decide) (by decide) r.bits_lt
theorem xor (r : RR) : Statement (.xor r) := one (by decide) (by decide) r.bits_lt
theorem andn (r : RR) : Statement (.andn r) := one (by decide) (by decide) r.bits_lt
theorem shl (r : RR) : Statement (.shl r) := one (by decide) (by decide) r.bits_lt
theorem shr (r : RR) : Statement (.shr r) := one (by decide) (by decide) r.bits_lt
theorem sra (r : RR) : Statement (.sra r) := one (by decide) (by decide) r.bits_lt
theorem min (r : RR) : Statement (.min r) := one (by decide) (by decide) r.bits_lt
theorem max (r : RR) : Statement (.max r) := one (by decide) (by decide) r.bits_lt
theorem minu (r : RR) : Statement (.minu r) := one (by decide) (by decide) r.bits_lt
theorem maxu (r : RR) : Statement (.maxu r) := one (by decide) (by decide) r.bits_lt
theorem clz (r : RU) : Statement (.clz r) := one (by decide) (by decide) r.bits_lt
theorem ctz (r : RU) : Statement (.ctz r) := one (by decide) (by decide) r.bits_lt
theorem popc (r : RU) : Statement (.popc r) := one (by decide) (by decide) r.bits_lt
theorem mov (r : RU) : Statement (.mov r) := one (by decide) (by decide) r.bits_lt
theorem bfx (r : Bfx) : Statement (.bfx r) := both (by decide) (by decide) r.bits_lt r.ext_lt
theorem bfi (r : Bfi) : Statement (.bfi r) := both (by decide) (by decide) r.bits_lt r.ext_lt
theorem cmp (cc : BitVec 4) (r : RR) : Statement (.cmp cc r) := one (by decide) (by have := cc.isLt; omega) r.bits_lt
theorem csel (r : Csel) : Statement (.csel r) := both (by decide) (by decide) r.bits_lt r.ext_lt
theorem addImmediate (r : RI) : Statement (.addImmediate r) := both (by decide) (by decide) r.bits_lt r.ext_lt
theorem subImmediate (r : RI) : Statement (.subImmediate r) := both (by decide) (by decide) r.bits_lt r.ext_lt
theorem mulImmediate (r : RI) : Statement (.mulImmediate r) := both (by decide) (by decide) r.bits_lt r.ext_lt
theorem andImmediate (r : RI) : Statement (.andImmediate r) := both (by decide) (by decide) r.bits_lt r.ext_lt
theorem orImmediate (r : RI) : Statement (.orImmediate r) := both (by decide) (by decide) r.bits_lt r.ext_lt
theorem xorImmediate (r : RI) : Statement (.xorImmediate r) := both (by decide) (by decide) r.bits_lt r.ext_lt
theorem andnImmediate (r : RI) : Statement (.andnImmediate r) := both (by decide) (by decide) r.bits_lt r.ext_lt
theorem shlImmediate (r : RI) : Statement (.shlImmediate r) := both (by decide) (by decide) r.bits_lt r.ext_lt
theorem shrImmediate (r : RI) : Statement (.shrImmediate r) := both (by decide) (by decide) r.bits_lt r.ext_lt
theorem sraImmediate (r : RI) : Statement (.sraImmediate r) := both (by decide) (by decide) r.bits_lt r.ext_lt
theorem minImmediate (r : RI) : Statement (.minImmediate r) := both (by decide) (by decide) r.bits_lt r.ext_lt
theorem maxImmediate (r : RI) : Statement (.maxImmediate r) := both (by decide) (by decide) r.bits_lt r.ext_lt
theorem minuImmediate (r : RI) : Statement (.minuImmediate r) := both (by decide) (by decide) r.bits_lt r.ext_lt
theorem maxuImmediate (r : RI) : Statement (.maxuImmediate r) := both (by decide) (by decide) r.bits_lt r.ext_lt
theorem cmpImmediate (cc : BitVec 4) (r : RI) : Statement (.cmpImmediate cc r) := both (by decide) (by have := cc.isLt; omega) r.bits_lt r.ext_lt
theorem li (r : Li) : Statement (.li r) := both (by decide) (by decide) r.bits_lt r.ext_lt
theorem lih (r : Lih) : Statement (.lih r) := both (by decide) (by decide) r.bits_lt r.ext_lt
theorem la (r : La) : Statement (.la r) := both (by decide) (by decide) r.bits_lt r.ext_lt
theorem br (r : Br) : Statement (.br r) := both (by decide) (by decide) r.bits_lt r.ext_lt
theorem call (r : Call) : Statement (.call r) := both (by decide) (by decide) r.bits_lt r.ext_lt
theorem bc (cc : BitVec 4) (r : Bc) : Statement (.bc cc r) := both (by decide) (by have := cc.isLt; omega) r.bits_lt r.ext_lt
theorem jr (r : Jr) : Statement (.jr r) := one (by decide) (by decide) r.bits_lt
theorem callr (r : Callr) : Statement (.callr r) := one (by decide) (by decide) r.bits_lt
theorem ret (r : Jr) : Statement (.ret r) := one (by decide) (by decide) r.bits_lt
theorem ldB (r : Ld) : Statement (.ldB r) := both (by decide) (by decide) r.bits_lt r.ext_lt
theorem ldBu (r : Ld) : Statement (.ldBu r) := both (by decide) (by decide) r.bits_lt r.ext_lt
theorem ldH (r : Ld) : Statement (.ldH r) := both (by decide) (by decide) r.bits_lt r.ext_lt
theorem ldHu (r : Ld) : Statement (.ldHu r) := both (by decide) (by decide) r.bits_lt r.ext_lt
theorem ldW (r : Ld) : Statement (.ldW r) := both (by decide) (by decide) r.bits_lt r.ext_lt
theorem ldWu (r : Ld) : Statement (.ldWu r) := both (by decide) (by decide) r.bits_lt r.ext_lt
theorem ldD (r : Ld) : Statement (.ldD r) := both (by decide) (by decide) r.bits_lt r.ext_lt
theorem stB (r : St) : Statement (.stB r) := both (by decide) (by decide) r.bits_lt r.ext_lt
theorem stH (r : St) : Statement (.stH r) := both (by decide) (by decide) r.bits_lt r.ext_lt
theorem stW (r : St) : Statement (.stW r) := both (by decide) (by decide) r.bits_lt r.ext_lt
theorem stD (r : St) : Statement (.stD r) := both (by decide) (by decide) r.bits_lt r.ext_lt
theorem atopAdd (r : At) : Statement (.atopAdd r) := both (by decide) (by decide) r.bits_lt r.ext_lt
theorem atopAnd (r : At) : Statement (.atopAnd r) := both (by decide) (by decide) r.bits_lt r.ext_lt
theorem atopOr (r : At) : Statement (.atopOr r) := both (by decide) (by decide) r.bits_lt r.ext_lt
theorem atopXor (r : At) : Statement (.atopXor r) := both (by decide) (by decide) r.bits_lt r.ext_lt
theorem atopMin (r : At) : Statement (.atopMin r) := both (by decide) (by decide) r.bits_lt r.ext_lt
theorem atopMax (r : At) : Statement (.atopMax r) := both (by decide) (by decide) r.bits_lt r.ext_lt
theorem atopSub (r : At) : Statement (.atopSub r) := both (by decide) (by decide) r.bits_lt r.ext_lt
theorem atswp (r : At) : Statement (.atswp r) := both (by decide) (by decide) r.bits_lt r.ext_lt
theorem atcas (r : Ato) : Statement (.atcas r) := both (by decide) (by decide) r.bits_lt r.ext_lt
theorem atfadd (r : Ato) : Statement (.atfadd r) := both (by decide) (by decide) r.bits_lt r.ext_lt
theorem atadds (r : At) : Statement (.atadds r) := both (by decide) (by decide) r.bits_lt r.ext_lt
theorem fence (r : Fence) : Statement (.fence r) := one (by decide) (by decide) r.bits_lt
theorem waitm (r : Waitm) : Statement (.waitm r) := both (by decide) (by decide) r.bits_lt r.ext_lt
theorem barrive (r : Barrive) : Statement (.barrive r) := one (by decide) (by decide) r.bits_lt
theorem barriveExt (r : Barrive) (e : BarX) : Statement (.barriveExt r e) := both (by decide) (by decide) r.bits_lt e.ext_lt
theorem bexpect (r : Bexpect) : Statement (.bexpect r) := one (by decide) (by decide) r.bits_lt
theorem bexpectExt (r : Bexpect) (e : BarX) : Statement (.bexpectExt r e) := both (by decide) (by decide) r.bits_lt e.ext_lt
theorem bwait (r : Bwait) : Statement (.bwait r) := one (by decide) (by decide) r.bits_lt
theorem bwaitExt (r : Bwait) (e : BarX) : Statement (.bwaitExt r e) := both (by decide) (by decide) r.bits_lt e.ext_lt
theorem btest (r : Bwait) : Statement (.btest r) := one (by decide) (by decide) r.bits_lt
theorem btestExt (r : Bwait) (e : BarX) : Statement (.btestExt r e) := both (by decide) (by decide) r.bits_lt e.ext_lt
theorem tkget (r : Tkget) : Statement (.tkget r) := one (by decide) (by decide) r.bits_lt
theorem tkpost (r : Tkpost) : Statement (.tkpost r) := one (by decide) (by decide) r.bits_lt
theorem tkdone (r : Tkdone) : Statement (.tkdone r) := one (by decide) (by decide) r.bits_lt
theorem trap : Statement (.trap) := one (by decide) (by decide) (by decide)
theorem trapExt (r : TrapX) : Statement (.trapExt r) := both (by decide) (by decide) (by decide) r.ext_lt
theorem tret : Statement (.tret) := one (by decide) (by decide) (by decide)
theorem crd (r : Crd) : Statement (.crd r) := one (by decide) (by decide) r.bits_lt
theorem cwr (r : Cwr) : Statement (.cwr r) := one (by decide) (by decide) r.bits_lt
theorem hbeat : Statement (.hbeat) := one (by decide) (by decide) (by decide)
theorem yield : Statement (.yield) := one (by decide) (by decide) (by decide)
theorem vadd (r : VF) : Statement (.vadd r) := both (by decide) (by decide) r.bits_lt r.ext_lt
theorem vsub (r : VF) : Statement (.vsub r) := both (by decide) (by decide) r.bits_lt r.ext_lt
theorem vmul (r : VF) : Statement (.vmul r) := both (by decide) (by decide) r.bits_lt r.ext_lt
theorem vmulh (r : VF) : Statement (.vmulh r) := both (by decide) (by decide) r.bits_lt r.ext_lt
theorem vmin (r : VF) : Statement (.vmin r) := both (by decide) (by decide) r.bits_lt r.ext_lt
theorem vmax (r : VF) : Statement (.vmax r) := both (by decide) (by decide) r.bits_lt r.ext_lt
theorem vabs (r : VF) : Statement (.vabs r) := both (by decide) (by decide) r.bits_lt r.ext_lt
theorem vand (r : VF) : Statement (.vand r) := both (by decide) (by decide) r.bits_lt r.ext_lt
theorem vor (r : VF) : Statement (.vor r) := both (by decide) (by decide) r.bits_lt r.ext_lt
theorem vxor (r : VF) : Statement (.vxor r) := both (by decide) (by decide) r.bits_lt r.ext_lt
theorem vandn (r : VF) : Statement (.vandn r) := both (by decide) (by decide) r.bits_lt r.ext_lt
theorem vshl (r : VF) : Statement (.vshl r) := both (by decide) (by decide) r.bits_lt r.ext_lt
theorem vshr (r : VF) : Statement (.vshr r) := both (by decide) (by decide) r.bits_lt r.ext_lt
theorem vsra (r : VF) : Statement (.vsra r) := both (by decide) (by decide) r.bits_lt r.ext_lt
theorem vfadd (r : VF) : Statement (.vfadd r) := both (by decide) (by decide) r.bits_lt r.ext_lt
theorem vfsub (r : VF) : Statement (.vfsub r) := both (by decide) (by decide) r.bits_lt r.ext_lt
theorem vfmul (r : VF) : Statement (.vfmul r) := both (by decide) (by decide) r.bits_lt r.ext_lt
theorem vfma (r : VF) : Statement (.vfma r) := both (by decide) (by decide) r.bits_lt r.ext_lt
theorem vfms (r : VF) : Statement (.vfms r) := both (by decide) (by decide) r.bits_lt r.ext_lt
theorem vfmin (r : VF) : Statement (.vfmin r) := both (by decide) (by decide) r.bits_lt r.ext_lt
theorem vfmax (r : VF) : Statement (.vfmax r) := both (by decide) (by decide) r.bits_lt r.ext_lt
theorem vrcp (r : VF) : Statement (.vrcp r) := both (by decide) (by decide) r.bits_lt r.ext_lt
theorem vrsq (r : VF) : Statement (.vrsq r) := both (by decide) (by decide) r.bits_lt r.ext_lt
theorem vexp2 (r : VF) : Statement (.vexp2 r) := both (by decide) (by decide) r.bits_lt r.ext_lt
theorem vlog2 (r : VF) : Statement (.vlog2 r) := both (by decide) (by decide) r.bits_lt r.ext_lt
theorem vcmp (cc : BitVec 4) (r : VF) : Statement (.vcmp cc r) := both (by decide) (by have := cc.isLt; omega) r.bits_lt r.ext_lt
theorem vfcmp (cc : BitVec 4) (r : VF) : Statement (.vfcmp cc r) := both (by decide) (by have := cc.isLt; omega) r.bits_lt r.ext_lt
theorem vNop : Statement (.vNop) := both (by decide) (by decide) (by decide) (by decide)
theorem pand (r : VF) : Statement (.pand r) := both (by decide) (by decide) r.bits_lt r.ext_lt
theorem por (r : VF) : Statement (.por r) := both (by decide) (by decide) r.bits_lt r.ext_lt
theorem pxor (r : VF) : Statement (.pxor r) := both (by decide) (by decide) r.bits_lt r.ext_lt
theorem pnot (r : VF) : Statement (.pnot r) := both (by decide) (by decide) r.bits_lt r.ext_lt
theorem ppop (r : VF) : Statement (.ppop r) := both (by decide) (by decide) r.bits_lt r.ext_lt
theorem pfirst (r : VF) : Statement (.pfirst r) := both (by decide) (by decide) r.bits_lt r.ext_lt
theorem vcvt (r : VF) : Statement (.vcvt r) := both (by decide) (by decide) r.bits_lt r.ext_lt
theorem vsxpack (r : VF) : Statement (.vsxpack r) := both (by decide) (by decide) r.bits_lt r.ext_lt
theorem vsxunpack (r : VF) : Statement (.vsxunpack r) := both (by decide) (by decide) r.bits_lt r.ext_lt
theorem vperm (r : VF) : Statement (.vperm r) := both (by decide) (by decide) r.bits_lt r.ext_lt
theorem vshuf (r : VF) : Statement (.vshuf r) := both (by decide) (by decide) r.bits_lt r.ext_lt
theorem vbcast (r : VF) : Statement (.vbcast r) := both (by decide) (by decide) r.bits_lt r.ext_lt
theorem vmovs (r : VF) : Statement (.vmovs r) := both (by decide) (by decide) r.bits_lt r.ext_lt
theorem vsel (r : VF) : Statement (.vsel r) := both (by decide) (by decide) r.bits_lt r.ext_lt
theorem vcompress (r : VF) : Statement (.vcompress r) := both (by decide) (by decide) r.bits_lt r.ext_lt
theorem vexpand (r : VF) : Statement (.vexpand r) := both (by decide) (by decide) r.bits_lt r.ext_lt
theorem vred (r : VF) : Statement (.vred r) := both (by decide) (by decide) r.bits_lt r.ext_lt
theorem vscan (r : VF) : Statement (.vscan r) := both (by decide) (by decide) r.bits_lt r.ext_lt
theorem vtopk (r : VF) : Statement (.vtopk r) := both (by decide) (by decide) r.bits_lt r.ext_lt
theorem vlpmul (r : VF) : Statement (.vlpmul r) := both (by decide) (by decide) r.bits_lt r.ext_lt
theorem vlpadd (r : VF) : Statement (.vlpadd r) := both (by decide) (by decide) r.bits_lt r.ext_lt
theorem vlpmax (r : VF) : Statement (.vlpmax r) := both (by decide) (by decide) r.bits_lt r.ext_lt
theorem vlpdiv (r : VF) : Statement (.vlpdiv r) := both (by decide) (by decide) r.bits_lt r.ext_lt
theorem vlpcvt (r : VF) : Statement (.vlpcvt r) := both (by decide) (by decide) r.bits_lt r.ext_lt
theorem vlpsplit (r : VF) : Statement (.vlpsplit r) := both (by decide) (by decide) r.bits_lt r.ext_lt
theorem vlpjoin (r : VF) : Statement (.vlpjoin r) := both (by decide) (by decide) r.bits_lt r.ext_lt
theorem vrand (r : VF) : Statement (.vrand r) := both (by decide) (by decide) r.bits_lt r.ext_lt
theorem vld (r : VM) : Statement (.vld r) := both (by decide) (by decide) r.bits_lt r.ext_lt
theorem vst (r : VM) : Statement (.vst r) := both (by decide) (by decide) r.bits_lt r.ext_lt
theorem vlds (r : VM) : Statement (.vlds r) := both (by decide) (by decide) r.bits_lt r.ext_lt
theorem vsts (r : VM) : Statement (.vsts r) := both (by decide) (by decide) r.bits_lt r.ext_lt
theorem vgath (r : VG) : Statement (.vgath r) := both (by decide) (by decide) r.bits_lt r.ext_lt
theorem vscat (r : VG) : Statement (.vscat r) := both (by decide) (by decide) r.bits_lt r.ext_lt
theorem vldb (r : VM) : Statement (.vldb r) := both (by decide) (by decide) r.bits_lt r.ext_lt
theorem fNop : Statement (.fNop) := one (by decide) (by decide) (by decide)
theorem fopen (r : Fopen) : Statement (.fopen r) := one (by decide) (by decide) r.bits_lt
theorem fopenExt (r : Fopen) (e : FopenX) : Statement (.fopenExt r e) := both (by decide) (by decide) r.bits_lt e.ext_lt
theorem fnext (r : Fnext) : Statement (.fnext r) := one (by decide) (by decide) r.bits_lt
theorem fskip (r : Fskip) : Statement (.fskip r) := one (by decide) (by decide) r.bits_lt
theorem fisect (r : Fjoin) : Statement (.fisect r) := one (by decide) (by decide) r.bits_lt
theorem funion (r : Fjoin) : Statement (.funion r) := one (by decide) (by decide) r.bits_lt
theorem fmerge (r : Fmerge) : Statement (.fmerge r) := both (by decide) (by decide) r.bits_lt r.ext_lt
theorem fldv (r : Fldv) : Statement (.fldv r) := both (by decide) (by decide) r.bits_lt r.ext_lt
theorem fcrd (r : Fcrd) : Statement (.fcrd r) := both (by decide) (by decide) r.bits_lt r.ext_lt
theorem femit (r : Femit) : Statement (.femit r) := both (by decide) (by decide) r.bits_lt r.ext_lt
theorem fstat (r : Fstat) : Statement (.fstat r) := one (by decide) (by decide) r.bits_lt
theorem fsave (r : Fimg) : Statement (.fsave r) := one (by decide) (by decide) r.bits_lt
theorem frest (r : Fimg) : Statement (.frest r) := one (by decide) (by decide) r.bits_lt
theorem fclose (r : Fclose) : Statement (.fclose r) := one (by decide) (by decide) r.bits_lt
theorem xNop : Statement (.xNop) := one (by decide) (by decide) (by decide)
theorem xscale (r : Xscale) : Statement (.xscale r) := one (by decide) (by decide) r.bits_lt
theorem xexpv (r : Xexpv) : Statement (.xexpv r) := both (by decide) (by decide) r.bits_lt r.ext_lt
theorem xfix (r : Xfix) : Statement (.xfix r) := both (by decide) (by decide) r.bits_lt r.ext_lt
theorem xcvt (r : Xcvt) : Statement (.xcvt r) := both (by decide) (by decide) r.bits_lt r.ext_lt
theorem hNop : Statement (.hNop) := one (by decide) (by decide) (by decide)
theorem hld (r : Hmem) : Statement (.hld r) := one (by decide) (by decide) r.bits_lt
theorem hldExt (r : Hmem) (e : HmemX) : Statement (.hldExt r e) := both (by decide) (by decide) r.bits_lt e.ext_lt
theorem hst (r : Hmem) : Statement (.hst r) := one (by decide) (by decide) r.bits_lt
theorem hstExt (r : Hmem) (e : HmemX) : Statement (.hstExt r e) := both (by decide) (by decide) r.bits_lt e.ext_lt
theorem hset (r : Hset) : Statement (.hset r) := one (by decide) (by decide) r.bits_lt
theorem hfence (r : Hfence) : Statement (.hfence r) := one (by decide) (by decide) r.bits_lt
theorem mNop : Statement (.mNop) := one (by decide) (by decide) (by decide)
theorem acalloc (r : Acalloc) : Statement (.acalloc r) := one (by decide) (by decide) r.bits_lt
theorem acfree (r : Acfree) : Statement (.acfree r) := one (by decide) (by decide) r.bits_lt
theorem acgrant (r : Acgrant) : Statement (.acgrant r) := one (by decide) (by decide) r.bits_lt
theorem aczero (r : Aczero) : Statement (.aczero r) := one (by decide) (by decide) r.bits_lt
theorem acrd (r : Acrd) : Statement (.acrd r) := both (by decide) (by decide) r.bits_lt r.ext_lt
theorem acrdSt (r : AcrdSt) : Statement (.acrdSt r) := both (by decide) (by decide) (by have := r.bits_lt; omega) r.ext_lt
theorem acwr (r : Acwr) : Statement (.acwr r) := both (by decide) (by decide) r.bits_lt r.ext_lt
theorem mmaBf16 (r : Mma) : Statement (.mmaBf16 r) := both (by decide) (by decide) r.bits_lt r.ext_lt
theorem mmaFp16 (r : Mma) : Statement (.mmaFp16 r) := both (by decide) (by decide) r.bits_lt r.ext_lt
theorem mmaE4m3 (r : Mma) : Statement (.mmaE4m3 r) := both (by decide) (by decide) r.bits_lt r.ext_lt
theorem mmaE5m2 (r : Mma) : Statement (.mmaE5m2 r) := both (by decide) (by decide) r.bits_lt r.ext_lt
theorem mmaInt8 (r : Mma) : Statement (.mmaInt8 r) := both (by decide) (by decide) r.bits_lt r.ext_lt
theorem mmaSx8 (r : Mma) : Statement (.mmaSx8 r) := both (by decide) (by decide) r.bits_lt r.ext_lt
theorem mmaSx5 (r : Mma) : Statement (.mmaSx5 r) := both (by decide) (by decide) r.bits_lt r.ext_lt
theorem mmaSx3 (r : Mma) : Statement (.mmaSx3 r) := both (by decide) (by decide) r.bits_lt r.ext_lt
theorem mcntInt4 (r : Mcnt) : Statement (.mcntInt4 r) := both (by decide) (by decide) r.bits_lt r.ext_lt
theorem mcntE2m1 (r : Mcnt) : Statement (.mcntE2m1 r) := both (by decide) (by decide) r.bits_lt r.ext_lt
theorem nclr (r : Nclr) : Statement (.nclr r) := one (by decide) (by decide) r.bits_lt
theorem nmerge (r : Nimg) : Statement (.nmerge r) := one (by decide) (by decide) r.bits_lt
theorem ndump (r : Nimg) : Statement (.ndump r) := one (by decide) (by decide) r.bits_lt
theorem nload (r : Nimg) : Statement (.nload r) := one (by decide) (by decide) r.bits_lt
theorem ndrain (r : Ndrain) : Statement (.ndrain r) := one (by decide) (by decide) r.bits_lt
theorem nchk (r : Nchk) : Statement (.nchk r) := one (by decide) (by decide) r.bits_lt
theorem rgset (r : Rgset) : Statement (.rgset r) := both (by decide) (by decide) r.bits_lt r.ext_lt
theorem cNop : Statement (.cNop) := one (by decide) (by decide) (by decide)
theorem copy (r : Copy) : Statement (.copy r) := one (by decide) (by decide) r.bits_lt
theorem copyExt (r : Copy) (e : CopyX) : Statement (.copyExt r e) := both (by decide) (by decide) r.bits_lt e.ext_lt
theorem copyt (r : Copyt) : Statement (.copyt r) := one (by decide) (by decide) r.bits_lt
theorem copytExt (r : Copyt) (e : CopyX) : Statement (.copytExt r e) := both (by decide) (by decide) r.bits_lt e.ext_lt
theorem cgath (r : Cidx) : Statement (.cgath r) := both (by decide) (by decide) r.bits_lt r.ext_lt
theorem cscat (r : Cidx) : Statement (.cscat r) := both (by decide) (by decide) r.bits_lt r.ext_lt
theorem cred (r : Cred) : Statement (.cred r) := one (by decide) (by decide) r.bits_lt
theorem credExt (r : Cred) (e : CopyX) : Statement (.credExt r e) := both (by decide) (by decide) r.bits_lt e.ext_lt
theorem cring (r : Cring) : Statement (.cring r) := one (by decide) (by decide) r.bits_lt
theorem cringExt (r : Cring) (e : CopyX) : Statement (.cringExt r e) := both (by decide) (by decide) r.bits_lt e.ext_lt
theorem cwait (r : Cwait) : Statement (.cwait r) := one (by decide) (by decide) r.bits_lt
theorem ctest (r : Ctest) : Statement (.ctest r) := one (by decide) (by decide) r.bits_lt
theorem publish (r : Publish) : Statement (.publish r) := one (by decide) (by decide) r.bits_lt
theorem upd (r : Upd) : Statement (.upd r) := both (by decide) (by decide) r.bits_lt r.ext_lt
theorem tNop : Statement (.tNop) := one (by decide) (by decide) (by decide)
theorem tmode (r : Tmode) : Statement (.tmode r) := both (by decide) (by decide) r.bits_lt r.ext_lt
theorem tevid (r : Tevid) : Statement (.tevid r) := one (by decide) (by decide) r.bits_lt
theorem tseed (r : Tseed) : Statement (.tseed r) := one (by decide) (by decide) r.bits_lt
theorem tfwd (r : Tfwd) : Statement (.tfwd r) := one (by decide) (by decide) r.bits_lt
theorem tfwdExt (r : Tfwd) (e : TrecX) : Statement (.tfwdExt r e) := both (by decide) (by decide) r.bits_lt e.ext_lt
theorem trev (r : Trev) : Statement (.trev r) := one (by decide) (by decide) r.bits_lt
theorem trevExt (r : Trev) (e : TrecX) : Statement (.trevExt r e) := both (by decide) (by decide) r.bits_lt e.ext_lt
theorem tsamp (r : Trev) : Statement (.tsamp r) := one (by decide) (by decide) r.bits_lt
theorem targm (r : Trev) : Statement (.targm r) := one (by decide) (by decide) r.bits_lt
theorem tratio (r : Tratio) : Statement (.tratio r) := both (by decide) (by decide) r.bits_lt r.ext_lt
theorem twclr (r : Twclr) : Statement (.twclr r) := one (by decide) (by decide) r.bits_lt
theorem tstat (r : Tstat) : Statement (.tstat r) := one (by decide) (by decide) r.bits_lt
theorem hint (i : BitVec 27) : Statement (.hint i) := by
  intro w hw
  have := i.isLt
  simp only [encode, List.mem_singleton] at hw
  exact plain (by omega)
theorem hintExt (i : BitVec 27) (ext : BitVec 31) : Statement (.hintExt i ext) := by
  intro w hw
  have := i.isLt
  have := ext.isLt
  simp only [encode, List.mem_cons, List.not_mem_nil, or_false] at hw
  rcases hw with rfl | rfl
  · exact plain (by omega)
  · exact plain (by omega)
theorem bundleIssue (a0 : Nat) : Statement (.bundleIssue a0) := none rfl
theorem blockRelease (a0 : Nat) : Statement (.blockRelease a0) := none rfl
theorem gateTimeoutMark (a0 : Nat) : Statement (.gateTimeoutMark a0) := none rfl
theorem loadArrival (a0 : Nat) (a1 : Nat) : Statement (.loadArrival a0 a1) := none rfl
theorem accessRefusal (a0 : Nat) (a1 : Nat) (a2 : Nat) : Statement (.accessRefusal a0 a1 a2) := none rfl
theorem deferredTrap (a0 : Nat) : Statement (.deferredTrap a0) := none rfl
theorem heartbeatExpiry (a0 : Nat) : Statement (.heartbeatExpiry a0) := none rfl
theorem contextRetire (a0 : Nat) : Statement (.contextRetire a0) := none rfl
theorem taskDispatch (a0 : Nat) : Statement (.taskDispatch a0) := none rfl
theorem taskDecrement (a0 : Nat) : Statement (.taskDecrement a0) := none rfl
theorem taskCancellation (a0 : Nat) : Statement (.taskCancellation a0) := none rfl
theorem regionAdmit (a0 : Nat) : Statement (.regionAdmit a0) := none rfl
theorem partitionPreempt (a0 : Nat) (a1 : Nat) : Statement (.partitionPreempt a0 a1) := none rfl
theorem partitionSwapOut (a0 : Nat) (a1 : Nat) : Statement (.partitionSwapOut a0 a1) := none rfl
theorem partitionSwapIn (a0 : Nat) (a1 : Nat) : Statement (.partitionSwapIn a0 a1) := none rfl
theorem barrierArrival (a0 : Nat) (a1 : BarrierAct) : Statement (.barrierArrival a0 a1) := none rfl
theorem mCommandPerform (a0 : Nat) : Statement (.mCommandPerform a0) := none rfl
theorem mmaRetirement (a0 : Nat) : Statement (.mmaRetirement a0) := none rfl
theorem tCommandPerform (a0 : Nat) : Statement (.tCommandPerform a0) := none rfl
theorem fibreQueuePerform (a0 : Nat) : Statement (.fibreQueuePerform a0) := none rfl
theorem copyChunkWritten (a0 : Nat) (a1 : Nat) (a2 : Nat) : Statement (.copyChunkWritten a0 a1 a2) := none rfl
theorem cringRoom (a0 : Nat) (a1 : Nat) : Statement (.cringRoom a0 a1) := none rfl
theorem publishExchange (a0 : Nat) (a1 : Nat) : Statement (.publishExchange a0 a1) := none rfl
theorem updGateOpen (a0 : Nat) (a1 : Nat) : Statement (.updGateOpen a0 a1) := none rfl
theorem powerOn : Statement (.powerOn) := none rfl
theorem powerRemoval : Statement (.powerRemoval) := none rfl
theorem bootctlGo : Statement (.bootctlGo) := none rfl
theorem warmReset : Statement (.warmReset) := none rfl
theorem extend (a0 : BitVec 3) : Statement (.extend a0) := none rfl
theorem heldExtend : Statement (.heldExtend) := none rfl
theorem attestation : Statement (.attestation) := none rfl
theorem extctlErrRead (a0 : BitVec 16) : Statement (.extctlErrRead a0) := none rfl
theorem throttleUpdate (a0 : BitVec 4) (a1 : BitVec 3) : Statement (.throttleUpdate a0 a1) := none rfl
theorem mwr (a0 : BitVec 64) (a1 : List (BitVec 8)) : Statement (.mwr a0 a1) := none rfl
theorem mrd (a0 : BitVec 64) (a1 : Nat) (a2 : BitVec 16) : Statement (.mrd a0 a1 a2) := none rfl
theorem dbell (a0 : Nat) (a1 : BitVec 64) : Statement (.dbell a0 a1) := none rfl
theorem unknownMessageType (a0 : BitVec 16) : Statement (.unknownMessageType a0) := none rfl
theorem linkModuleDisable (a0 : Nat) : Statement (.linkModuleDisable a0) := none rfl
theorem flitCrcFailure (a0 : Nat) : Statement (.flitCrcFailure a0) := none rfl
theorem registerWrite (a0 : Nat) (a1 : BitVec 64) : Statement (.registerWrite a0 a1) := none rfl
theorem qtailWrite (a0 : Nat) (a1 : BitVec 64) : Statement (.qtailWrite a0 a1) := none rfl
theorem launch (a0 : Nat) : Statement (.launch a0) := none rfl
theorem post (a0 : Nat) : Statement (.post a0) := none rfl
theorem marker (a0 : Nat) : Statement (.marker a0) := none rfl
theorem queueEntryBadOp (a0 : Nat) : Statement (.queueEntryBadOp a0) := none rfl
theorem queueCompletion (a0 : Nat) : Statement (.queueCompletion a0) := none rfl
theorem qctlTeardown (a0 : Nat) : Statement (.qctlTeardown a0) := none rfl
theorem qctlReset (a0 : Nat) : Statement (.qctlReset a0) := none rfl
theorem frovfRead (a0 : BitVec 16) : Statement (.frovfRead a0) := none rfl
theorem resumeContext (a0 : BitVec 64) : Statement (.resumeContext a0) := none rfl
theorem resumeCopy (a0 : BitVec 64) : Statement (.resumeCopy a0) := none rfl
theorem resumeAll (a0 : BitVec 64) : Statement (.resumeAll a0) := none rfl
theorem tlbinvPage (a0 : Nat) (a1 : BitVec 64) : Statement (.tlbinvPage a0 a1) := none rfl
theorem tlbinvAsid (a0 : Nat) (a1 : BitVec 64) : Statement (.tlbinvAsid a0 a1) := none rfl
theorem tlbinvAll (a0 : Nat) (a1 : BitVec 64) : Statement (.tlbinvAll a0 a1) := none rfl
theorem tlbinvDone (a0 : Nat) : Statement (.tlbinvDone a0) := none rfl
theorem suspend : Statement (.suspend) := none rfl
theorem unsuspend : Statement (.unsuspend) := none rfl
theorem stopmark : Statement (.stopmark) := none rfl
theorem stopmarkContextStop (a0 : Nat) : Statement (.stopmarkContextStop a0) := none rfl
theorem save : Statement (.save) := none rfl
theorem restore : Statement (.restore) := none rfl
theorem ldtctlDrop (a0 : Nat) : Statement (.ldtctlDrop a0) := none rfl
theorem ldtctlDropAll : Statement (.ldtctlDropAll) := none rfl
theorem ldtctlDone : Statement (.ldtctlDone) := none rfl
theorem diePowerUp (a0 : Nat) : Statement (.diePowerUp a0) := none rfl
theorem diePowerDown (a0 : Nat) : Statement (.diePowerDown a0) := none rfl
theorem strataDump : Statement (.strataDump) := none rfl
theorem telclr : Statement (.telclr) := none rfl
theorem dieLoss (a0 : Nat) : Statement (.dieLoss a0) := none rfl
theorem cheadWrite (a0 : Nat) (a1 : BitVec 64) : Statement (.cheadWrite a0 a1) := none rfl
theorem corePowerGating (a0 : Nat) : Statement (.corePowerGating a0) := none rfl

end Laws.PlainWords

end Sys2Proof
end

