-- ==== Sys2Proof/Laws/Writes.lean ====
section
/-! SUPPORT. Laws/Writes.lean: operations that write registers and nothing else, as issues of their own. -/

namespace Sys2Proof.Machine

open Sys2Proof.Safety

theorem Like.tail {s t : State} (h : Like s t) : t.cur.slot = s.cur.slot ∧ t.cur.x = s.cur.x := ⟨h.slot, h.x⟩

/-- A register-only operation changes the issuing context alone. -/
theorem keeps_regs {t : State} {f : Ctx → Ctx} {ds dv dp}
    (hs : ∀ r, r ∉ ds → (f t.cctx).live.sv r = t.cctx.live.sv r ∧ fget? (f t.cctx).live.sWait r.toNat = fget? t.cctx.live.sWait r.toNat)
    (hv : ∀ r, r ∉ dv → (f t.cctx).live.vv r = t.cctx.live.vv r ∧ fget? (f t.cctx).live.vWait r.toNat = fget? t.cctx.live.vWait r.toNat)
    (hp : ∀ r, r ∉ dp → (f t.cctx).live.pv r = t.cctx.live.pv r)
    (hl : liveRest (f t.cctx).live = liveRest t.cctx.live) (ha : (f t.cctx).live.armed = t.cctx.live.armed)
    (hc : ctxRest (f t.cctx) = ctxRest t.cctx) : Keeps {} t (t.modCtx t.cur.x f) ds dv dp := by
  have e : (t.modCtx t.cur.x f).cctx = f t.cctx := by simp [State.cctx, modCtx_eq]
  exact {
    issuer := rfl
    sKept := fun r h => e ▸ (hs r h).1
    sFull := fun r h => e ▸ (hs r h).2
    vKept := fun r h => e ▸ (hv r h).1
    vFull := fun r h => e ▸ (hv r h).2
    pKept := fun r h => e ▸ hp r h
    liveKept := e ▸ hl
    armedKept := fun _ _ _ _ => by rw [e, ha]
    ctxKept := e ▸ hc
    othersKept := fun y hy => by rw [modCtx_eq, setCtx_ctx_ne _ _ hy]
    coreKept := rfl
    coresKept := fun _ _ => rfl
    machineKept := rfl
    bytesKept := fun _ _ => rfl }

/-- The state in which an issue performs has a clean cursor. -/
theorem ran_opened {s : State} {i : Instr} (f : Ctx → Ctx) : Ran s ((s.opened i).modCtx s.cur.x f) :=
  ⟨rfl, rfl, rfl, rfl, rfl, rfl, rfl, rfl, rfl⟩

/-- An operation that writes registers only completes, and what it wrote stands. -/
theorem completes_regs {i : Instr} {op : Op Unit} {s : State} {f : Ctx → Ctx} {ds dv dp} (hp : Plain s) (hpre : i.preMark = false)
    (hend : i.endMark = false) (ht : tileOn s i) (hi : ∀ r, i ≠ .cwr r)
    (hop : ∀ t, Like s t → op t = .ok () (t.modCtx t.cur.x f))
    (hk : ∀ t, Like s t → Keeps {} t (t.modCtx t.cur.x f) ds dv dp) :
    ∃ u t, slotRun i op s = .next u ∧ t = s.opened i ∧ Like s t ∧ Keeps {} (t.modCtx t.cur.x f) u [] [] [] ∧
      u.cctx.point = ({ s.cur with target := none } : Cursor).continuation ∧ Keeps {} s u ds dv dp := by
  obtain ⟨u, h1, h2, h3, h4⟩ := slotRun_plain hp hpre hend ht (issueBlocks_none hi (hop _ (like_tested s))) (hop _ (like_opened s i))
    (ran_opened f)
  refine ⟨u, _, h1, rfl, like_opened s i, h2, ?_, ?_⟩
  · rw [h4]; rfl
  · have a := keeps_after (opened_keeps s i) (hk _ (like_opened s i)) rfl rfl
    exact keeps_trans a h2 rfl (by rw [h3]; exact id)

theorem putS_full (l : Live) {r : BitVec 6} (v : Word64) (h : r ≠ 0) : fget? (l.putS r v).sWait r.toNat = none := by
  rw [Live.putS, if_neg h]
  exact fget?_fdel_same _ _

theorem putS_wait_ne (l : Live) {r q : BitVec 6} (v : Word64) (h : q ≠ r) :
    fget? (l.putS r v).sWait q.toNat = fget? l.sWait q.toNat := by
  have hn : q.toNat ≠ r.toNat := fun e => h (BitVec.eq_of_toNat_eq e)
  unfold Live.putS
  split
  · rfl
  · exact fget?_fdel_ne _ hn

theorem putS_rest (l : Live) (r : BitVec 6) (v : Word64) : liveRest (l.putS r v) = liveRest l := by
  unfold Live.putS
  split <;> rfl

theorem putS_armed (l : Live) (r : BitVec 6) (v : Word64) : (l.putS r v).armed = l.armed := by
  unfold Live.putS
  split <;> rfl

theorem putS_vv (l : Live) (r : BitVec 6) (v : Word64) (q : BitVec 9) :
    (l.putS r v).vv q = l.vv q ∧ fget? (l.putS r v).vWait q.toNat = fget? l.vWait q.toNat := by
  unfold Live.putS
  split <;> exact ⟨rfl, rfl⟩

theorem putS_pv (l : Live) (r : BitVec 6) (v : Word64) (q : BitVec 4) : (l.putS r v).pv q = l.pv q := by
  unfold Live.putS
  split <;> rfl

theorem keeps_putS (t : State) (d : BitVec 6) (v : Word64) :
    Keeps {} t (t.modCtx t.cur.x fun c => { c with live := c.live.putS d v }) [d] [] [] :=
  keeps_regs (fun _ h => ⟨putS_sv_ne _ _ (by simpa using h), putS_wait_ne _ _ (by simpa using h)⟩)
    (fun _ _ => putS_vv _ _ _ _) (fun _ _ => putS_pv _ _ _ _) (putS_rest _ _ _) (putS_armed _ _ _) rfl

/-- An operation that writes S[d] only. -/
theorem completes_s {i : Instr} {op : Op Unit} {s : State} {d : BitVec 6} {v : Word64} (hp : Plain s) (hpre : i.preMark = false)
    (hend : i.endMark = false) (ht : tileOn s i) (hi : ∀ r, i ≠ .cwr r) (hop : ∀ t, Like s t → op t = writeS d v t) :
    ∃ u, slotRun i op s = .next u ∧ u.cctx.live.sv d = (if d = 0 then 0 else v) ∧
      (d ≠ 0 → fget? u.cctx.live.sWait d.toNat = none) ∧ u.cctx.point = ({ s.cur with target := none } : Cursor).continuation ∧
      Keeps {} s u [d] [] [] := by
  obtain ⟨u, t, h1, -, -, h4, h5, h6⟩ := completes_regs hp hpre hend ht hi (fun t h => (hop t h).trans (op_writeS d v t))
    (fun t _ => keeps_putS t d v)
  have e : (t.modCtx t.cur.x fun c => { c with live := c.live.putS d v }).cctx.live = t.cctx.live.putS d v := by
    simp [State.cctx, modCtx_eq]
  refine ⟨u, h1, ?_, fun hd => ?_, h5, h6⟩
  · rw [h4.sKept d (by simp), e, putS_sv_same]
  · rw [h4.sFull d (by simp), e, putS_full _ _ hd]

theorem need_like {s t : State} {l : List Source} (h : Like s t) (hf : full s l) : need l t = .ok () t :=
  need_ok l t fun r hr => by rw [h.src]; exact hf r hr

end Sys2Proof.Machine
end

