-- ==== Sys2Proof/Tests/Slice0.lean ====
section
/-! SUPPORT. Tests/Slice0.lean: the refusal of ill-formed terms, decoding of words, small steps, and a witness for each statement with
hypotheses. -/

namespace Sys2Proof.Tests

set_option Elab.async false

open Sys2Proof.Machine Sys2Proof.Safety Sys2Proof.Rules

/-! ### States -/

/-- The reset state with context 0 changed, RUNNING. -/
def with0 (f : Ctx → Ctx) : State := State.reset.modCtx 0 fun c => f { c with state := .running }

/-- And with s registers of given values. -/
def regs0 (l : List (Nat × Word64)) (f : Ctx → Ctx := id) : State :=
  with0 fun c => f { c with live := { c.live with s := l } }

/-- What holds of every element of an empty list. -/
theorem ofNone {α : Type} {l : List α} {p : α → Prop} (h : l = []) : ∀ a ∈ l, p a := by
  rw [h]
  exact fun _ hn => absurd hn List.not_mem_nil

def plainB (s : State) : Bool :=
  decide (s.cctx.live.hPend = [] ∧ s.cctx.gate.length ≤ 63 ∧ s.cctx.vSince.length ≤ 62 ∧ (s.cur.isEnd = true → s.cur.j < s.cur.rep))

theorem plain_of {s : State} (h : plainB s = true) : Plain s :=
  let p := of_decide_eq_true h
  ⟨p.1, p.2.1, p.2.2.1, p.2.2.2⟩

def quietB (s : State) : Bool :=
  plainB s && decide (s.cctx.gate = [] ∧ s.cctx.heldX = [] ∧ ∀ c ∈ s.ccore.fq, c.x ≠ s.cur.x)

theorem quiet_of {s : State} (h : quietB s = true) : Quiet s :=
  let p := (Bool.and_eq_true _ _).mp h
  let q := of_decide_eq_true p.2
  ⟨plain_of p.1, q.1, q.2.1, q.2.2⟩

def aloneB (s : State) : Bool := quietB s && decide (s.cur.atEnd = none)

theorem alone_of {s : State} (h : aloneB s = true) : Alone s :=
  let p := (Bool.and_eq_true _ _).mp h
  ⟨quiet_of p.1, of_decide_eq_true p.2⟩

def trapReadyB (s : State) : Bool :=
  aloneB s && decide (s.cctx.handler = false ∧ s.cctx.ctl.tv ≠ 0 ∧ s.cctx.state = .running ∧ s.cur.slot ≤ 8 ∧ s.cur.rep ≤ 15)

theorem trapReady_of {s : State} (h : trapReadyB s = true) : TrapReady s :=
  let p := (Bool.and_eq_true _ _).mp h
  let q := of_decide_eq_true p.2
  ⟨alone_of p.1, q.1, q.2.1, q.2.2.1, q.2.2.2.1, q.2.2.2.2⟩

def settledB (s : State) : Bool :=
  decide ((∀ c ∈ s.ccore.fq, c.x ≠ s.cur.x) ∧ (∀ c ∈ s.ccore.tq, c.x ≠ s.cur.x) ∧ ∀ c ∈ s.ccore.mq, c.x ≠ s.cur.x)

theorem settled_of {s : State} (h : settledB s = true) : Settled s :=
  let p := of_decide_eq_true h
  ⟨p.1, p.2.1, p.2.2⟩

theorem full_of {s : State} {l : List Source} (h : (l.all fun r => !s.cctx.live.isEmpty r) = true) : full s l := by
  simp only [List.all_eq_true, Bool.not_eq_true'] at h
  exact h

/-- A core-local address resolves (R134). -/
theorem resolved_local {s : State} {rq : Req} {acc : Nat} {ea : Word64} {pa : Nat} (h : ea.toNat < 0x300000)
    (hp : pa = scratchBase (coreOf s.cur.x) + ea.toNat) : Resolved s rq acc ea pa := by
  have hc : classify ea = .scratch ea.toNat := by simp [classify, h]
  refine ⟨by rw [hc]; exact AddrClass.noConfusion, fun t _ => ?_⟩
  simp only [locate, hc, hp]
  rfl

/-- The translation of a virtual address is held, to a page of one set in HBM or a vault. -/
def heldAt (s : State) (rq : Req) (acc : Nat) (ea : Word64) (pa : Nat) : Bool :=
  match fget? s.ldtCache (ea.toNat / 2 ^ 49) with
  | none => false
  | some e =>
    match (s.die (fld e.toNat 16 13)).tlb.find? (·.covers rq.asid (ea.toNat % 2 ^ 49 / 65536)) with
    | none => false
    | some te =>
      decide (bitAt e.toNat 0 = true ∧ (fld e.toNat 12 1 != s.moduleNo) = false ∧
        s.dieRefuses (fld e.toNat 16 13) (ea.toNat % 2 ^ 49) = none ∧
        ((acc == accWrite || acc == accAtomic) && !bitAt te.leaf.toNat 2) = false ∧ (acc == accFetch && !bitAt te.leaf.toNat 3) = false ∧
        te.big = false ∧ bitAt te.leaf.toNat 4 = false ∧ rq.shadow = false ∧
        physOf (fld e.toNat 16 13) (fld te.leaf.toNat 48 16 * 2 ^ 16 + ea.toNat % 2 ^ 49 % 2 ^ 16) = pa ∧
        populated pa = true ∧ inWindow (offOf pa) = false)

theorem translate_held {s t : State} {rq : Req} {acc : Nat} {ea : Word64} {pa : Nat} (h : heldAt s rq acc ea pa = true)
    (ht : SameMaps s t) : Machine.translate rq acc ea t = .ok (.here pa) t := by
  obtain ⟨h3, h4, h1, h2⟩ := ht
  have href : ∀ d o, t.dieRefuses d o = s.dieRefuses d o := fun d o => by
    have hb : t.bootState = s.bootState := by
      simp only [State.bootState, State.regF, State.regN, h4 rBOOTCTL (by decide) (by decide) (by decide)]
    have hl : (fget Die.init t.dies d).lost = (fget Die.init s.dies d).lost := (h3 d).2
    have ha : d ≤ 8 → t.dieActive d = s.dieActive d := fun hd => by
      have hm : t.reg (rMCSTAT d) = s.reg (rMCSTAT d) := h4 _ (by unfold rTLBINV rMCSTAT; omega) (by unfold rMCSTAT rTEL; omega)
        (by unfold rMCSTAT rREGCMD; omega)
      have hc : t.reg (rDIECTL d) = s.reg (rDIECTL d) := h4 _ (by unfold rTLBINV rDIECTL; omega) (by unfold rDIECTL rTEL; omega)
        (by unfold rDIECTL rREGCMD; omega)
      unfold State.dieActive
      simp only [hb, hl, State.regF, State.regN, hm, hc]
    unfold State.dieRefuses
    by_cases hd : d ≤ 8
    · rw [(h3 d).2, ha hd]
    · simp only [show d > 8 by omega, decide_true, Bool.true_or, if_true]
  unfold heldAt at h
  split at h
  · exact absurd h (by decide)
  rename_i e he
  split at h
  · exact absurd h (by decide)
  rename_i te hte
  obtain ⟨a1, a2, a3, a4, a5, a6, a7, a8, a9, a10, a11⟩ := of_decide_eq_true h
  have hw : windowRefuses t pa = false := by simp [windowRefuses, a11]
  have hh : t.hardServes rq.asid pa = none := by simp [State.hardServes, a11]
  have hl : ldtLookup (ea.toNat / 2 ^ 49) t = .ok e t := by
    unfold ldtLookup
    simp only [op_bind, op_get, h1, he]
    rfl
  have hk : tlbLookup rq acc (fld e.toNat 16 13) (ea.toNat % 2 ^ 49) ea t = .ok te t := by
    unfold tlbLookup
    simp only [op_bind, op_get, (h3 _).1, hte]
    rfl
  have hp : leafPhys rq acc (fld e.toNat 16 13) (ea.toNat % 2 ^ 49) ea te rq.shadow t = .ok pa t := by
    unfold leafPhys
    simp only [a6, a7, a8, Bool.false_eq_true, if_false, Bool.not_false, if_true, a9]
    rfl
  unfold Machine.translate
  simp only [op_bind, hl, op_get, a1, Bool.not_true, Bool.false_eq_true, if_false, h2, a2, href, a3, hk, a4, a5, hp, a10, hh, hw]
  rfl

theorem resolved_held {s : State} {rq : Req} {acc : Nat} {ea : Word64} {pa : Nat} (h : heldAt s rq acc ea pa = true)
    (hv : isVirt ea = true) : Resolved s rq acc ea pa := by
  have hc : classify ea = .virt := by
    simp only [isVirt, decide_eq_true_eq] at hv
    unfold classify
    rw [if_neg (by omega), if_neg (by omega)]
  refine ⟨by rw [hc]; exact AddrClass.noConfusion, fun t ht => ?_⟩
  simp only [locate, hc]
  exact translate_held h ⟨fun d => by simp only [State.die, ht.dies, and_self], fun o _ _ _ => by simp only [State.reg, ht.regs],
    ht.ldtCache, ht.moduleNo⟩

theorem translated_held {s : State} {rq : Req} {acc : Nat} {va : Word64} {pa : Nat} (h : heldAt s rq acc va pa = true) :
    Translated s rq acc va pa :=
  fun _ ht => translate_held h ht.maps

/-- Logical die 0 is die 0 of this module, and page 0x80 of an ASID lies in its HBM at 0x40000, readable, writable, executable. -/
def mapped (asid : Nat) (s : State) : State :=
  { s with ldtCache := [(0, 1)],
           dies := [(0, { Die.init with tlb := [{ asid := asid, page := 0x80, leaf := 0x4000D, big := false, addr := 0 }] })] }

/-! ### Scalar results -/

def rr : RR := { sk := false, d := 3, a := 1, b := 2, wa := false, wb := true }
def ri (imm : BitVec 31) : RI := { sk := true, d := 3, a := 1, wa := false, imm := imm }
/-- s1 = -2^63, s2 = -1, s3 = 6, s4 = 0x2000; slot 4 is armed, and the issue is the second of four. -/
def sA : State :=
  { (regs0 [(1, 0x8000000000000000), (2, 0xFFFFFFFFFFFFFFFF), (3, 6), (4, 0x2000), (9, 0x400)] fun c => { c with
      live := { c.live with armed := [(4, { op := .xscale { sk := true, a := 3, wa := false }, next := 1 })] } }) with
    cur := { Cursor.init with pc := 0x1200, next := 0x1208, rep := 3, j := 1, k := 1 } }
def ru : RU := { sk := false, d := 5, a := 1, wa := false }
def csel : Csel := { sk := false, d := 0, a := 1, b := 2, wa := false, wb := false, wc := true, c := 3 }
def bfx : Bfx := { sk := false, d := 7, a := 1, wa := false, wm1 := 63, pos := 0 }
def bfi : Bfi := { sk := false, d := 3, a := 2, wa := false, wd := false, wm1 := 3, pos := 60 }
def bc : Bc := { a := 1, b := 2, wa := false, wb := false, off := -17 }

theorem witness_scalarBinary : ∃ (i : Instr) (r : RR) (f : Word64 → Word64 → Word64) (s : State),
    binary i = some (r, f) ∧ Plain s ∧ full s (srcRR r) :=
  ⟨.div rr, rr, _, sA, rfl, plain_of (by decide), full_of (by decide)⟩

theorem witness_scalarImmediate : ∃ (i : Instr) (r : RI) (f : Word64 → Word64 → Word64) (s : State),
    immediate i = some (r, f) ∧ i.wellFormed = true ∧ Plain s ∧ full s [srcS r.a r.wa] :=
  ⟨.sraImmediate (ri 63), ri 63, _, sA, rfl, by decide, plain_of (by decide), full_of (by decide)⟩

theorem witness_compare : ∃ (cc : BitVec 4) (r : RR) (s : State), (Instr.cmp cc r).wellFormed = true ∧ Plain s ∧ full s (srcRR r) :=
  ⟨9, rr, sA, by decide, plain_of (by decide), full_of (by decide)⟩

theorem witness_compareImmediate : ∃ (cc : BitVec 4) (r : RI) (s : State),
    (Instr.cmpImmediate cc r).wellFormed = true ∧ Plain s ∧ full s [srcS r.a r.wa] :=
  ⟨2, ri (-1), sA, by decide, plain_of (by decide), full_of (by decide)⟩

theorem witness_select : ∃ (r : Csel) (s : State), Plain s ∧ full s [srcS r.a r.wa, srcS r.b r.wb, srcS r.c r.wc] :=
  ⟨csel, sA, plain_of (by decide), full_of (by decide)⟩

theorem witness_singleOperand : ∃ (r : RU) (s : State), Plain s ∧ full s [srcS r.a r.wa] :=
  ⟨ru, sA, plain_of (by decide), full_of (by decide)⟩

theorem witness_fields : ∃ (r : Bfx) (u : Bfi) (s : State), (Instr.bfx r).wellFormed = true ∧ (Instr.bfi u).wellFormed = true ∧
    Plain s ∧ full s [srcS r.a r.wa] ∧ full s [srcS u.a u.wa, srcS u.d u.wd] :=
  ⟨bfx, bfi, sA, by decide, by decide, plain_of (by decide), full_of (by decide), full_of (by decide)⟩

theorem witness_constants : ∃ (r : Lih) (s : State), Plain s ∧ full s [srcS r.a r.wa] :=
  ⟨{ sk := false, d := 1, a := 1, wa := false, i31 := true, imm := 5 }, sA, plain_of (by decide), full_of (by decide)⟩

theorem witness_branches : ∃ (cc : BitVec 4) (r : Bc) (s : State), (Instr.bc cc r).wellFormed = true ∧ Plain s ∧
    full s [srcS r.a r.wa, srcS r.b r.wb] ∧ holds cc ((regs s).sv r.a) ((regs s).sv r.b) :=
  ⟨2, bc, sA, by decide, plain_of (by decide), full_of (by decide), by unfold holds ccHolds; decide⟩

theorem witness_branchNotTaken : ∃ (cc : BitVec 4) (r : Bc) (s : State), (Instr.bc cc r).wellFormed = true ∧ Plain s ∧
    full s [srcS r.a r.wa, srcS r.b r.wb] ∧ ¬ holds cc ((regs s).sv r.a) ((regs s).sv r.b) :=
  ⟨0, bc, sA, by decide, plain_of (by decide), full_of (by decide), by unfold holds ccHolds; decide⟩

theorem witness_nopsAndHints : ∃ (s : State) (i : Instr), Plain s ∧
    (i ∈ [Instr.sNop, .vNop, .fNop, .xNop, .hNop, .mNop, .cNop, .tNop] ∨ (∃ h, i = .hint h) ∨ ∃ h x, i = .hintExt h x) :=
  ⟨sA, .hintExt 5 6, plain_of (by decide), .inr (.inr ⟨5, 6, rfl⟩)⟩

/-! ### Scalar memory -/

/-- s1 = 0x2000 in the scratchpad of core 0, where bytes 0xF0 to 0xFF stand, s2 = 0x1122334455667788, s3 = -1, s6 = 0x320004 in the
hole, s7 = 0x800000 mapped, s8 = 1; the context is in task mode with tv = 0x100. -/
def sB : State :=
  ((mapped 0 ((regs0 [(1, 0x2000), (2, 0x1122334455667788), (3, 0xFFFFFFFFFFFFFFFF), (5, 0xF7F6F5F4F3F2F1F0), (6, 0x320000), (7, 0x800000),
    (8, 1)] fun c => { c with
      ctl := { c.ctl with tv := 0x100 }
      live := { c.live with armed := [(4, { op := .xscale { sk := true, a := 3, wa := false }, next := 1 })] } }).write
      (scratchBase 0 + 0x2000) ((List.range 16).map fun i => BitVec.ofNat 8 (0xF0 + i)))).write 0x40000
      [0, 0, 0x80, 0x3F, 0, 0, 0, 0])
theorem sB_alone : aloneB sB = true := by decide +kernel

def ld (a : BitVec 6) (disp : BitVec 15) : Ld :=
  { sk := false, d := 9, a := a, cls := 1, ord := 0, wa := false, disp := disp, stride := 0, scope := 0 }
def st (a : BitVec 6) (disp : BitVec 15) : St :=
  { sk := false, d := 2, a := a, cls := 1, ord := 0, wa := false, wd := false, disp := disp, stride := 0, scope := 0 }
def at_ (d a : BitVec 6) : At :=
  { sk := false, d := d, a := a, cls := 0, ord := 0, wa := false, wd := false, disp := 0, stride := 0, scope := 0 }
def ato (d a : BitVec 6) (opt : Bool) : Ato :=
  { sk := false, d := d, a := a, cls := 0, ord := 0, opt := opt, wa := false, wd := false, disp := 0, stride := 0, scope := 0 }

theorem sound_of {s : State} {pa n : Nat} (h : (s.poison.isEmpty && s.soft.isEmpty) = true) : Sound s pa n := by
  simp only [Bool.and_eq_true, List.isEmpty_iff] at h
  refine ⟨by simp [State.poisoned, h.1], fun e he => ?_⟩
  rw [h.2] at he
  cases he

theorem clean_of {s : State} {ea : Word64} {pa n : Nat} (h1 : (s.poison.isEmpty && s.soft.isEmpty) = true) (h2 : s.cctx.gate = []) :
    Clean s ea pa n := by
  refine ⟨sound_of h1, fun i _ => ?_⟩
  rw [h2]
  rfl

theorem witness_scalarLoad : ∃ (i : Instr) (r : Ld) (n : Nat) (sg : Bool) (s : State) (pa : Nat), scalarLoad i = some (r, n, sg) ∧
    Plain s ∧ Settled s ∧ full s [srcS r.a r.wa] ∧ (scalarEa s r.a r.disp r.stride).toNat % n = 0 ∧
    Resolved s (s.reqOf s.cur.x 0 r.cls.toNat) accRead (scalarEa s r.a r.disp r.stride) pa ∧
    Clean s (scalarEa s r.a r.disp r.stride) pa n :=
  ⟨.ldW (ld 1 4), ld 1 4, 4, true, sB, scratchBase 0 + 0x2004, rfl, plain_of (by decide +kernel), settled_of (by decide +kernel),
   full_of (by decide +kernel), by decide +kernel, resolved_local (by decide +kernel) (by decide +kernel),
   clean_of (by decide +kernel) (by decide +kernel)⟩

/-- And with a store in the gate of context 0. -/
def sBg : State := sB.modCtx 0 fun c => { c with gate :=
  [{ id := 1, cls := 1, writes := [(0x2008, [1, 2]), (0x2009, [3])], poison := [], time := 0, ready := true, src := 1, hst := none }] }

theorem witness_scalarStore : ∃ (i : Instr) (r r' : St) (n : Nat) (s : State), scalarStore i = some (r, n) ∧
    scalarStore (.stB r') = some (r', 1) ∧ r.ord ≠ 2 ∧ r'.ord = 2 ∧ GateLocal s.cctx ∧ s.cctx.gate ≠ [] ∧ Plain s ∧ Settled s ∧
    full s [srcS r.a r.wa, srcS r.d r.wd] ∧ full s [srcS r'.a r'.wa, srcS r'.d r'.wd] ∧
    (∀ u ∈ [r, r'], classify (scalarEa s u.a u.disp u.stride) ≠ .hole ∧ (scalarEa s u.a u.disp u.stride).toNat % n = 0) :=
  ⟨.stD (st 1 8), st 1 8, { st 1 8 with ord := 2 }, 8, sBg, rfl, rfl, by decide, by decide, by unfold GateLocal; decide +kernel, by decide +kernel,
   plain_of (by decide +kernel), settled_of (by decide +kernel), full_of (by decide +kernel), full_of (by decide +kernel),
   by decide +kernel⟩

theorem witness_storeInHole : ∃ (i : Instr) (r : St) (n : Nat) (s : State), scalarStore i = some (r, n) ∧ TrapReady s ∧
    full s [srcS r.a r.wa, srcS r.d r.wd] ∧ classify (scalarEa s r.a r.disp r.stride) = .hole :=
  ⟨.stH (st 6 1), st 6 1, 2, sB, rfl, trapReady_of (by decide +kernel), full_of (by decide +kernel), by decide +kernel⟩

theorem witness_storeMisaligned : ∃ (i : Instr) (r : St) (n : Nat) (s : State), scalarStore i = some (r, n) ∧ TrapReady s ∧
    full s [srcS r.a r.wa, srcS r.d r.wd] ∧ classify (scalarEa s r.a r.disp r.stride) ≠ .hole ∧
    (scalarEa s r.a r.disp r.stride).toNat % n ≠ 0 :=
  ⟨.stH (st 1 1), st 1 1, 2, sB, rfl, trapReady_of (by decide +kernel), full_of (by decide +kernel), by decide +kernel,
   by decide +kernel⟩

theorem witness_loadTraps : ∃ (i : Instr) (r u : Ld) (n : Nat) (sg : Bool) (s : State), scalarLoad i = some (r, n, sg) ∧
    scalarLoad (.ldD u) = some (u, 8, true) ∧ TrapReady s ∧ full s [srcS r.a r.wa] ∧ full s [srcS u.a u.wa] ∧
    classify (scalarEa s r.a r.disp r.stride) = .hole ∧ classify (scalarEa s u.a u.disp u.stride) ≠ .hole ∧
    (scalarEa s u.a u.disp u.stride).toNat % 8 ≠ 0 :=
  ⟨.ldB (ld 6 0), ld 6 0, ld 1 4, 1, true, sB, rfl, rfl, trapReady_of (by decide +kernel), full_of (by decide +kernel),
   full_of (by decide +kernel), by decide +kernel, by decide +kernel, by decide +kernel⟩

theorem witness_integerAtomic : ∃ (i : Instr) (f : AtForm) (g : Word64 → Word64 → Word64 → Word64) (s : State) (pa : Nat),
    integerAtomic i = some (f, g) ∧ i.wellFormed = true ∧ Alone s ∧ Settled s ∧ full s f.sources ∧
    (scalarEa s f.a f.disp f.stride).toNat % 8 = 0 ∧
    Resolved s (s.reqOf s.cur.x 0 f.cls.toNat) accAtomic (scalarEa s f.a f.disp f.stride) pa ∧ Sound s pa 8 :=
  ⟨.atcas (ato 4 1 false), _, _, sB, scratchBase 0 + 0x2000, rfl, by decide, alone_of sB_alone, settled_of (by decide +kernel),
   full_of (by decide +kernel), by decide +kernel, resolved_local (by decide +kernel) (by decide +kernel), sound_of (by decide +kernel)⟩

theorem witness_atfadd : ∃ (r : Ato) (s : State) (pa : Nat), (Instr.atfadd r).wellFormed = true ∧ Alone s ∧ Settled s ∧
    full s (formAto r).sources ∧ ((regs s).sv (r.d + 1)).toNat % 4 ≠ 3 ∧
    (scalarEa s r.a r.disp r.stride).toNat % ((addFmt ((regs s).sv (r.d + 1)).toNat).bits / 8) = 0 ∧
    isVirt (scalarEa s r.a r.disp r.stride) = true ∧ inScratch (offOf pa) = false ∧
    Resolved s (s.reqOf s.cur.x 0 r.cls.toNat) accAtomic (scalarEa s r.a r.disp r.stride) pa ∧
    Sound s pa ((addFmt ((regs s).sv (r.d + 1)).toNat).bits / 8) :=
  ⟨ato 8 7 true, sB, 0x40000, by decide, alone_of sB_alone, settled_of (by decide +kernel), full_of (by decide +kernel),
   by decide +kernel, by decide +kernel, by decide +kernel, by decide +kernel,
   resolved_held (by decide +kernel) (by decide +kernel), sound_of (by decide +kernel)⟩

theorem witness_atadds : ∃ (r : At) (s : State) (pa : Nat), (Instr.atadds r).wellFormed = true ∧ Alone s ∧ Settled s ∧
    full s (formAt r true).sources ∧ ((regs s).sv (r.d + 1)).toNat / 256 % 4 < 2 ∧ ((regs s).sv (r.d + 1)).toNat % 256 ≠ 0x80 ∧
    (scalarEa s r.a r.disp r.stride).toNat % ((addsFmt ((regs s).sv (r.d + 1))).bits / 8) = 0 ∧
    isVirt (scalarEa s r.a r.disp r.stride) = true ∧ inScratch (offOf pa) = false ∧
    Resolved s (s.reqOf s.cur.x 0 r.cls.toNat) accAtomic (scalarEa s r.a r.disp r.stride) pa ∧
    Sound s pa ((addsFmt ((regs s).sv (r.d + 1))).bits / 8) :=
  ⟨at_ 8 7, sB, 0x40000, by decide, alone_of sB_alone, settled_of (by decide +kernel), full_of (by decide +kernel),
   by decide +kernel, by decide +kernel, by decide +kernel, by decide +kernel, by decide +kernel,
   resolved_held (by decide +kernel) (by decide +kernel), sound_of (by decide +kernel)⟩

/-! ### Empty registers, waits, barriers, tasks, traps and control registers -/

/-- A state with `f` put to its registers, in task mode with tv = 0x100, s1 = 0x3000, s2 = 2, s3 empty, s6 = 0x3008. -/
def sC : State := regs0 [(1, 0x3000), (2, 2), (6, 0x3008), (7, 0x800000), (8, 0xFFFFFFFE)] fun c => { c with
  ctl := { c.ctl with tv := 0x100, tkeep0 := 7, tkrec := 0x800000 }, tokNext := 2
  live := { c.live with sWait := [(3, 1)], armed := [(4, { op := .xscale { sk := true, a := 3, wa := false }, next := 1 })] } }
theorem sC_alone : aloneB sC = true := by decide
theorem sC_trapReady : trapReadyB sC = true := by decide

def rrW (w : Bool) : RR := { sk := false, d := 4, a := 3, b := 2, wa := w, wb := false }

/-- A vector add of v3, which is empty in `sCv`, to v2. -/
def vaddW (w : Bool) : VF :=
  { sk := false, w := 3, d := 4, a := 3, b := 2, c := 0, p := 0, wa := w, wb := false, wc := false, fi := false, fo := false,
    sat := false, sub := 0 }
def sCv : State := sC.modCtx 0 fun c => { c with live := { c.live with vWait := [(3, 1)] } }

theorem witness_emptyBlocks : ∃ (i j : Instr) (s : State) (e f : Source), (∀ k ∈ [i, j], tileOn s k ∧ hasRoom s k) ∧ Alone s ∧
    s.cctx.state = .running ∧ firstEmpty s (sourcesOf i) false = some e ∧ firstEmpty s (sourcesOf j) false = some f ∧
    e.1 = false ∧ f.1 = true :=
  ⟨.add (rrW false), .vadd (vaddW false), sCv, srcS 3 false, srcV 3 false, fun k hk => by
    simp only [List.mem_cons, List.not_mem_nil, or_false] at hk; rcases hk with rfl | rfl <;> exact ⟨rfl, trivial⟩,
   alone_of (by decide), rfl, by decide, by decide, rfl, rfl⟩

theorem witness_emptyTraps : ∃ (i j : Instr) (s : State) (e f : Source), (∀ k ∈ [i, j], tileOn s k ∧ hasRoom s k) ∧ TrapReady s ∧
    firstEmpty s (sourcesOf i) false = none ∧ firstEmpty s (sourcesOf i) true = some e ∧
    firstEmpty s (sourcesOf j) false = none ∧ firstEmpty s (sourcesOf j) true = some f ∧ e.1 = false ∧ f.1 = true :=
  ⟨.add (rrW true), .vadd (vaddW true), sCv, srcS 3 true, srcV 3 true, fun k hk => by
    simp only [List.mem_cons, List.not_mem_nil, or_false] at hk; rcases hk with rfl | rfl <;> exact ⟨rfl, trivial⟩,
   trapReady_of (by decide), by decide, by decide, by decide, by decide, rfl, rfl⟩

theorem witness_fence : ∃ s : State, Plain s ∧ Settled s ∧ GateLocal s.cctx ∧ s.cctx.gate ≠ [] :=
  ⟨sBg, plain_of (by decide +kernel), settled_of (by decide +kernel), by unfold GateLocal; decide +kernel, by decide +kernel⟩

theorem witness_hbeatYield : ∃ s : State, Alone s ∧ s.mustYield s.cur.x = false := ⟨sC, alone_of sC_alone, by decide⟩

/-- And context 1 of the core is READY. -/
def sReady : State := sC.modCtx 1 fun c => { c with state := .ready }

theorem witness_yieldBlocks : ∃ s : State, Alone s ∧ s.cctx.state = .running ∧ s.mustYield s.cur.x = true :=
  ⟨sReady, alone_of (by decide), by decide, by decide⟩

/-- The 8 bytes at 0x3000 hold 2, and a barrier with EXPECTED = 2, ARRIVED = 1, PHASE = 2^32 - 1 and EP stands there. -/
def sBar : State := sC.write (scratchBase 0 + 0x3000) (toBytes 8 2 ++ toBytes 8 1 ++ toBytes 4 0xFFFFFFFF ++ [0, 1])

def waitm (b : BitVec 6) : Waitm := { d := 4, a := 1, b := b, wa := false, wb := false, disp := 0, cls := 0 }

theorem witness_waitm : ∃ (r u : Waitm) (s : State) (pa : Nat), Alone s ∧ Settled s ∧ full s [srcS r.a r.wa, srcS r.b r.wb] ∧
    full s [srcS u.a u.wa, srcS u.b u.wb] ∧ r.a = u.a ∧ r.disp = u.disp ∧ r.cls = u.cls ∧
    ((regs s).sv r.a + ofI r.disp.toInt).toNat % 8 = 0 ∧
    Resolved s (s.reqOf s.cur.x 0 r.cls.toNat) accRead ((regs s).sv r.a + ofI r.disp.toInt) pa ∧ Sound s pa 8 ∧
    ofN (number 8 fun j => s.byte (pa + j)) = (regs s).sv r.b ∧ ofN (number 8 fun j => s.byte (pa + j)) ≠ (regs s).sv u.b ∧
    s.cctx.state = .running :=
  ⟨waitm 2, waitm 7, sBar, scratchBase 0 + 0x3000, alone_of (by decide +kernel), settled_of (by decide +kernel),
   full_of (by decide +kernel), full_of (by decide +kernel), rfl, rfl, rfl, by decide +kernel,
   resolved_local (by decide +kernel) (by decide +kernel), sound_of (by decide +kernel), by decide +kernel, by decide +kernel,
   by decide +kernel⟩

def barF (b : BitVec 6) : BarForm := { a := 1, b := b, wa := false, wb := false, disp := 0 }

theorem barrierAt_sBar : BarrierAt sBar ((barF 0).ea sBar) (scratchBase 0 + 0x3000) :=
  ⟨by decide +kernel, resolved_local (by decide +kernel) (by decide +kernel), resolved_local (by decide +kernel) (by decide +kernel),
   by decide +kernel, sound_of (by decide +kernel)⟩

theorem witness_barrive : ∃ (i : Instr) (f : BarForm) (err : Bool) (s : State) (pa : Nat), arrivalForm i = some (f, err) ∧
    Alone s ∧ Settled s ∧ full s f.sources ∧ BarrierAt s (f.ea s) pa :=
  ⟨.barrive { e := true, a := 1, b := 0, wa := false, wb := false }, barF 0, true, sBar, scratchBase 0 + 0x3000, rfl,
   alone_of (by decide +kernel), settled_of (by decide +kernel), full_of (by decide +kernel), barrierAt_sBar⟩

theorem witness_bexpect : ∃ (i : Instr) (f : BarForm) (s : State) (pa : Nat), expectForm i = some f ∧ Alone s ∧ Settled s ∧
    full s f.sources ∧ BarrierAt s (f.ea s) pa :=
  ⟨.bexpectExt { a := 1, b := 2, wa := false, wb := false } { disp := 0 }, barF 2, sBar, scratchBase 0 + 0x3000, rfl,
   alone_of (by decide +kernel), settled_of (by decide +kernel), full_of (by decide +kernel), barrierAt_sBar⟩

/-- A test of a phase that has completed (S[8] = 2^32 - 2, before PHASE = 2^32 - 1), and one of phase s2. -/
theorem witness_barrierReads : ∃ (i : Instr) (f g : BarForm) (d : BitVec 6) (s : State) (pa : Nat),
    phaseForm i = some (f, d, true) ∧ Alone s ∧ Settled s ∧ full s f.sources ∧ full s g.sources ∧ g.ea s = f.ea s ∧
    BarrierRead s (f.ea s) pa ∧ Passed (s.bar pa) (((regs s).sv f.b).toNat % 2 ^ 32) ∧
    ¬ Passed (s.bar pa) (((regs s).sv g.b).toNat % 2 ^ 32) ∧ s.cctx.state = .running := by
  have h1 : (sBar.bar (scratchBase 0 + 0x3000)).phase = 0xFFFFFFFF := by decide +kernel
  have h2 : ((regs sBar).sv (barF 2).b).toNat % 2 ^ 32 = 2 := by decide +kernel
  refine ⟨.bwait { d := 4, a := 1, b := 8, wa := false, wb := false }, barF 8, barF 2, 4, sBar, scratchBase 0 + 0x3000, rfl,
    alone_of (by decide +kernel), settled_of (by decide +kernel), full_of (by decide +kernel), full_of (by decide +kernel), rfl,
    ⟨by decide +kernel, resolved_local (by decide +kernel) (by decide +kernel), by decide +kernel,
     resolved_local (by decide +kernel) (by decide +kernel), sound_of (by decide +kernel)⟩,
    ⟨1, by decide, by decide, by decide +kernel⟩, ?_, by decide +kernel⟩
  rintro ⟨d, _, h4, h5⟩
  rw [h1, h2] at h5
  omega

/-- The region of context 0 is region 1 of ASID 5, with RCB 0x900000. -/
def region1 : Region :=
  { id := 1, asid := 5, rcb := 0x900000, rcbAsid := 5, parent := none, pri := 3, fault := 0, cores := 1, contexts := 4, banks := 32,
    vault := 0, hbm := 0, tv := 0, state := .admitted, order := 1, admitOrder := 2, place := [0], queue := none, holdFlag := false,
    used := false, stopping := false, halting := false }

/-- A data task of that region, RUNNING on context 0. -/
def task1 : TaskRec :=
  { id := 1, asid := 5, va := 0x800040, die := 0, region := 1, home := 1, data := true, seif := 1, pri := 3, height := 0,
    state := .running 0, status := 0 }

/-- Its record at 0x800000 lies at 0x40000, NEW, an entry task of region 1, DEP 0, PRI 31 << 3, HEIGHT 9; record 0x800040 is RUNNING
on context 0. -/
def sTask : State :=
  { ((mapped 5 (regs0 [(1, 0x800000), (2, 0x800040), (3, 1)] fun c => { c with
      region := 1, given := some 0x800040, ctl := { c.ctl with tkrec := 0x800040 } })).write 0x40000
      (toBytes 8 0x100000 ++ toBytes 8 0 ++ toBytes 8 0x900000 ++ toBytes 4 0 ++ toBytes 2 9 ++ [0xF8, 0])) with
    regions := [region1]
    tasks := [task1]
    nextId := 3 }

theorem witness_tkget : ∃ (s t : State) (va : Word64), Alone s ∧ s.cctx.given = some va ∧ Alone t ∧ t.cctx.given = none ∧
    t.cctx.state = .running :=
  ⟨sTask, sC, 0x800040, alone_of (by decide +kernel), by decide +kernel, alone_of sC_alone, rfl, rfl⟩

theorem postable_sTask : Postable sTask 5 0x800000 0x40000 region1 1 :=
  ⟨by decide +kernel, by decide +kernel, by decide +kernel, by decide +kernel, by decide +kernel, by decide +kernel,
   by decide +kernel, by decide +kernel, by decide +kernel, sound_of (by decide +kernel)⟩

theorem witness_tkpost : ∃ (r : Tkpost) (s : State) (pa : Nat) (g : Region), Alone s ∧ full s [srcS r.a r.wa] ∧
    ((regs s).sv r.a).toNat % 64 = 0 ∧ Settled s ∧
    (s.msgs.filter fun m => m.held = false ∧ m.die = s.ownerDie ((regs s).sv r.a)).length ≤
      Config.schedRoom (s.ownerDie ((regs s).sv r.a)) ∧
    Translated s (s.reqOf s.cur.x 0 0) accRead ((regs s).sv r.a) pa ∧
    Translated s (schedReq (s.asidOf s.cur.x) (s.ownerDie ((regs s).sv r.a))) accRead ((regs s).sv r.a) pa ∧
    Translated s (schedReq (s.asidOf s.cur.x) (s.ownerDie ((regs s).sv r.a))) accWrite ((regs s).sv r.a) pa ∧
    Postable s (s.asidOf s.cur.x) ((regs s).sv r.a) pa g s.cctx.region :=
  ⟨{ a := 1, wa := false }, sTask, 0x40000, region1, alone_of (by decide +kernel), full_of (by decide +kernel), by decide +kernel,
   settled_of (by decide +kernel), Nat.zero_le _,
   translated_held (by decide +kernel), translated_held (by decide +kernel), translated_held (by decide +kernel), postable_sTask⟩

/-- And as many messages of die 0's scheduler as its queue can hold, and one more. -/
def fullMsg : SchedMsg := { id := 0, die := 0, asid := 0, record := 0, op := .writeState 2, held := false }
def sFull : State := { sTask with msgs := List.replicate (Config.schedRoom 0 + 1) fullMsg }

theorem witness_tkpostBlocks : ∃ (r : Tkpost) (s : State), Alone s ∧ full s [srcS r.a r.wa] ∧
    ((regs s).sv r.a).toNat % 64 = 0 ∧ Routed s ((regs s).sv r.a) ∧ s.cctx.state = .running ∧
    Config.schedRoom (s.ownerDie ((regs s).sv r.a)) <
      (s.msgs.filter fun m => m.held = false ∧ m.die = s.ownerDie ((regs s).sv r.a)).length := by
  have h0 : sTask.ownerDie 0x800000 = 0 := by decide +kernel
  have hd : sFull.ownerDie 0x800000 = 0 := h0
  refine ⟨{ a := 1, wa := false }, sFull, alone_of (show aloneB sTask = true by decide +kernel),
    full_of (s := sTask) (by decide +kernel), show ((regs sTask).sv 1).toNat % 64 = 0 by decide +kernel,
    ⟨1, show fget? sTask.ldtCache _ = some 1 by decide +kernel, by decide +kernel⟩,
    show sTask.cctx.state = .running by decide +kernel, ?_⟩
  have ha : (regs sFull).sv 1 = 0x800000 := show (regs sTask).sv 1 = 0x800000 by decide +kernel
  show Config.schedRoom (sFull.ownerDie ((regs sFull).sv 1)) <
    (sFull.msgs.filter fun m => m.held = false ∧ m.die = sFull.ownerDie ((regs sFull).sv 1)).length
  rw [ha, hd]
  simp [sFull, fullMsg]

/-- Record 0x800040 has a DONE barrier at 0x900000 in a vault, which expects two arrivals and has one, and two successors. -/
def sDone : State :=
  { ((sTask.write 0x40060 (toBytes 8 0x800080 ++ toBytes 2 2)).write 0x40070 (toBytes 8 0x900000)).write 0x40080
      (toBytes 8 0x8000C0 ++ toBytes 8 0x800100) |>.write vaultBase (toBytes 8 2 ++ toBytes 8 1 ++ toBytes 4 7 ++ [0, 1]) with
    dies := [(0, { Die.init with tlb := [{ asid := 5, page := 0x80, leaf := 0x4000D, big := false, addr := 0 },
      { asid := 5, page := 0x90, leaf := 0x100000000000D, big := false, addr := 0 }] })] }

/-- Both successors of that record can be read, and their die is this one. -/
def succB (s : State) : Bool :=
  (List.range 2).all fun i => decide (heldAt s (schedReq 5 0) accRead (succPtr s 0x40040 + ofN (8 * i)) (0x40080 + 8 * i) = true ∧
    fget? s.ldtCache ((succAt s (fun i => 0x40080 + 8 * i) i).toNat / 2 ^ 49) = some 1)

/-- What of a state says that the task whose record is 0x800040 can complete. -/
def doneB (s : State) : Bool :=
  let rd := schedReq 5 0
  decide ((∀ t ∈ s.taskAt 5 0x800040, ∀ u ∈ s.tasks, u.id ≠ t.id ∨ u = t) ∧ (∀ m ∈ s.msgs, m.held = false) ∧
    (s.poison.isEmpty && s.soft.isEmpty) = true ∧ heldAt s rd accRead 0x800040 0x40040 = true) && decide (
    heldAt s rd accWrite 0x800040 0x40040 = true ∧ heldAt s rd accAtomic (doneBar s 0x40040) vaultBase = true ∧ (doneBar s 0x40040).toNat % 32 = 0 ∧ succCount s 0x40040 = 2 ∧
    s.moduleNo = 0 ∧ succB s = true ∧
    dirtyByte s (0x40040 + 0x2A) = 0 ∧ dirtyByte s (0x40040 + 0x2C) = 0 ∧ dirtyByte s vaultBase = 0x20000000)

theorem completes_done {s : State} {ok : Nat → Word64 → Nat → Prop} {t : TaskRec}
    (hok : ∀ acc va pa, heldAt s (schedReq 5 0) acc va pa = true → ok acc va pa) (h : doneB s = true)
    (ht : s.taskAt 5 0x800040 = some t ∧ t.asid = 5 ∧ t.va = 0x800040) :
    Completes ok s t 0x40040 vaultBase (fun i => 0x40080 + 8 * i) := by
  obtain ⟨ht, ha, hv⟩ := ht
  have h := (Bool.and_eq_true _ _).mp h
  obtain ⟨hu, hm, hp, h1⟩ := of_decide_eq_true h.1
  obtain ⟨h2, h3, h4, hn, hz, hl, d1, d2, d3⟩ := of_decide_eq_true h.2
  have hu := hu t ht
  have hl : ∀ i, i < 2 → _ := fun i hi => of_decide_eq_true (List.all_eq_true.1 hl i (List.mem_range.2 hi))
  have hs : ∀ pa n, Sound s pa n := fun _ _ => sound_of hp
  have hb : ∀ {a}, besideDone s 0x40040 vaultBase a → a = 0 ∨ (vaultBase ≤ a ∧ a < vaultBase + 22) ∨ a = 0x20000000 := fun {a} h => by
    unfold besideDone at h
    rw [d1, d2, d3] at h
    rcases h with h | h | ⟨_, h⟩
    · exact .inl h
    · exact .inl h
    · exact .inr h
  refine ⟨⟨by rw [ha, hv, ht], fun u hu' he => (hu u hu').resolve_left (fun h => h he)⟩, fun m hm' hh => by simp [hm m hm'] at hh,
    ⟨hok _ _ _ (by rw [hv]; exact h1), hok _ _ _ (by rw [hv]; exact h2), hs _ _⟩,
    fun _ => ⟨h4, hok _ _ _ h3, by decide, hs _ _⟩, ?_, ?_, ?_, ?_⟩
  · intro i hi
    rw [hn] at hi
    exact ⟨hok _ _ _ (hl i hi).1, hs _ _, ⟨1, (hl i hi).2, by rw [hz]; decide⟩⟩
  · intro a ha'
    have := hb ha'
    unfold vaultBase at this
    omega
  · intro _ a h1' h2'
    rw [d1, d2]
    unfold vaultBase at h1' h2'
    exact ⟨by omega, by omega⟩
  · intro i hi a ha'
    rw [hn] at hi
    unfold doneTouched at ha'
    rcases ha' with h | h
    · omega
    · have := hb h
      unfold vaultBase at this
      omega

theorem completes_sDone (rd : Req) (hrd : rd = schedReq 5 0) :
    Completes (Translated sDone rd) sDone task1 0x40040 vaultBase (fun i => 0x40080 + 8 * i) := by
  subst hrd
  exact completes_done (fun _ _ _ => translated_held) (by decide +kernel) (by decide +kernel)

theorem witness_tkdone : ∃ (r : Tkdone) (s : State) (pa pb y : Nat) (ps : Nat → Nat) (e : TaskRec), Alone s ∧ Settled s ∧
    full s [srcS r.a r.wa, srcS r.b r.wb] ∧ Routed s ((regs s).sv r.a) ∧
    s.taskAt (s.asidOf s.cur.x) ((regs s).sv r.a) = some e ∧ e.state = .running y ∧ e.id ≠ 0 ∧
    Completes (Translated s (schedReq (s.asidOf s.cur.x) e.die)) s e pa pb ps ∧ doneBar s pa ≠ 0 ∧ 0 < succCount s pa ∧
    domainTask s e.region :=
  ⟨{ a := 2, b := 3, wa := false, wb := false }, sDone, 0x40040, vaultBase, 0, fun i => 0x40080 + 8 * i, task1,
   alone_of (by decide +kernel), settled_of (by decide +kernel), full_of (by decide +kernel),
   ⟨1, by decide +kernel, by decide +kernel⟩, by decide +kernel, by decide +kernel, by decide +kernel,
   completes_sDone _ (by decide +kernel), by decide +kernel, by decide +kernel, fun g hg => by
     have : sDone.region? 1 = some region1 := by decide +kernel
     rw [show task1.region = 1 from rfl, this] at hg; cases hg; rfl⟩

theorem witness_tkdoneNot : ∃ (r : Tkdone) (s : State), Alone s ∧ Settled s ∧ full s [srcS r.a r.wa, srcS r.b r.wb] ∧
    Routed s ((regs s).sv r.a) ∧ ∀ e y, s.taskAt (s.asidOf s.cur.x) ((regs s).sv r.a) = some e → e.state ≠ .running y :=
  ⟨{ a := 1, b := 3, wa := false, wb := false }, sTask, alone_of (by decide +kernel), settled_of (by decide +kernel),
   full_of (by decide +kernel), ⟨1, by decide +kernel, by decide +kernel⟩, fun e y h => by
     rw [show sTask.taskAt (sTask.asidOf sTask.cur.x) ((regs sTask).sv 1) = none by decide +kernel] at h; cases h⟩

theorem witness_trap : ∃ s : State, TrapReady s := ⟨sC, trapReady_of sC_trapReady⟩

/-- In handler mode, at a bundle that returns to `tpc`, where the header 0xF8018000 of slot S stands at 0x1200 and with E set at
0x1300; each repeats up to 3 times. -/
def sTret (tsw : Word64) (tpc : Word64 := 0x1200) (tv : Word64 := 0x100) : State :=
  ((with0 fun c => { c with
    live := { c.live with sw := 4 }, banked := [(6, { op := .mNop, next := 1 })]
    ctl := { c.ctl with tv := tv, tpc := tpc, tsw := tsw } }).write (scratchBase 0 + 0x1200) [0x00, 0x80, 0x01, 0xF8]).write
    (scratchBase 0 + 0x1300) [0x00, 0x88, 0x01, 0xF8]

theorem witness_doubleTrap : ∃ s t : State, Alone s ∧ s.tasksOf s.cur.x = [] ∧ s.cur.slot ≤ 8 ∧ s.cctx.handler = true ∧
    Alone t ∧ t.tasksOf t.cur.x = [] ∧ t.cur.slot ≤ 8 ∧ t.cctx.handler = false ∧ t.cctx.ctl.tv = 0 :=
  ⟨sTret 0, with0 id, alone_of (by decide +kernel), by decide +kernel, by decide +kernel, by decide +kernel,
   alone_of (by decide), by decide, by decide, by decide, rfl⟩

theorem witness_doubleTrapFails : ∃ (s : State) (e : TaskRec) (pa pb : Nat) (ps : Nat → Nat), Alone s ∧ s.cur.slot ≤ 8 ∧
    s.cctx.ctl.tv = 0 ∧ s.tasksOf s.cur.x = [e] ∧ s.seifOf s.cur.x = none ∧
    Completes (Translated s (schedReq e.asid e.die)) s e pa pb ps ∧ domainTask s e.region :=
  ⟨sDone, task1, 0x40040, vaultBase, fun i => 0x40080 + 8 * i, alone_of (by decide +kernel), by decide +kernel, by decide +kernel,
   by decide +kernel, by decide +kernel, completes_sDone _ (by decide +kernel), fun g hg => by
     have : sDone.region? 1 = some region1 := by decide +kernel
     rw [show task1.region = 1 from rfl, this] at hg; cases hg; rfl⟩

/-- What the accepted and the refused returns of TRET have in common. -/
def Returning (s : State) (pa : Nat) : Prop :=
  Alone s ∧ s.cctx.state = .running ∧ s.ccore.istore = [] ∧ s.cctx.handler = true ∧ s.cctx.ctl.tpc.toNat % 4 = 0 ∧
    classify s.cctx.ctl.tpc ≠ .hole ∧
    Resolved s (s.reqOf s.cur.x 6 0) accFetch (ofN (s.cctx.ctl.tpc.toNat / 4096 * 4096)) pa ∧ Sound s pa 4096

theorem returning_of {s : State} {pa : Nat} (h : aloneB s = true ∧ s.cctx.state = .running ∧ s.ccore.istore = [] ∧ s.cctx.handler = true ∧
    s.cctx.ctl.tpc.toNat % 4 = 0 ∧ s.cctx.ctl.tpc.toNat < 0x200000 ∧
    pa = scratchBase (coreOf s.cur.x) + s.cctx.ctl.tpc.toNat / 4096 * 4096 ∧ (s.poison.isEmpty && s.soft.isEmpty) = true) :
    Returning s pa := by
  obtain ⟨ha, hr, hi, hh, hp, hl, he, hc⟩ := h
  have hn : (ofN (s.cctx.ctl.tpc.toNat / 4096 * 4096)).toNat = s.cctx.ctl.tpc.toNat / 4096 * 4096 := by
    unfold ofN
    rw [BitVec.toNat_ofNat]
    exact Nat.mod_eq_of_lt (by omega)
  have hk : classify s.cctx.ctl.tpc = .scratch s.cctx.ctl.tpc.toNat := by
    unfold classify
    rw [if_pos (by omega)]
  exact ⟨alone_of ha, hr, hi, hh, hp, hk ▸ AddrClass.noConfusion, resolved_local (by omega) (by rw [hn, he]), sound_of hc⟩

theorem witness_tretTaskMode : ∃ s : State, Alone s ∧ s.cctx.state = .running ∧ s.ccore.istore = [] ∧ TrapReady s :=
  ⟨sC, alone_of sC_alone, by decide, by decide, trapReady_of sC_trapReady⟩

/-- A tpc of 0x1202, with tv = 0x100 and with tv = 0. -/
theorem witness_tretMisaligned : ∃ s t : State, (∀ u ∈ [s, t], aloneB u = true ∧ u.cctx.state = .running ∧ u.ccore.istore = [] ∧
    u.cctx.handler = true ∧ u.cctx.ctl.tpc.toNat % 4 ≠ 0) ∧ s.cctx.ctl.tv ≠ 0 ∧ t.cctx.ctl.tv = 0 ∧ t.tasksOf t.cur.x = [] :=
  ⟨sTret 0 0x1202, sTret 0 0x1202 0, by decide +kernel, by decide +kernel, by decide +kernel, by decide +kernel⟩

/-- A tsw with SLOTRES = 1 and REPLEFT = 2 is accepted; so is SLOTRES = 9 and REPLEFT = 0 at a header with E. -/
theorem witness_tret : ∃ (s t : State) (pa : Nat), Returning s pa ∧ Returning t pa ∧
    number 4 (fun i => s.byte (pa + s.cctx.ctl.tpc.toNat % 4096 + i)) = 0xF8018000 ∧
    number 4 (fun i => t.byte (pa + t.cctx.ctl.tpc.toNat % 4096 + i)) = 0xF8018800 ∧
    (∀ u ∈ [s, t], u.cctx.ctl.tsw.toNat / 2 ^ 24 = 0 ∧ bitAt u.cctx.ctl.tsw.toNat 2 = false) ∧
    fld s.cctx.ctl.tsw.toNat 16 13 = 1 ∧ fld s.cctx.ctl.tsw.toNat 20 17 = 2 ∧
    fld t.cctx.ctl.tsw.toNat 16 13 = 9 ∧ fld t.cctx.ctl.tsw.toNat 20 17 = 0 :=
  ⟨sTret 0x42000, sTret 0x12000 0x1300, scratchBase 0 + 0x1000, returning_of (by decide +kernel), returning_of (by decide +kernel),
   by decide +kernel, by decide +kernel, by decide +kernel, by decide +kernel, by decide +kernel, by decide +kernel,
   by decide +kernel⟩

/-- A tsw with REPLEFT = 4 is not, with tv = 0x100 and with tv = 0. -/
theorem witness_tretRefused : ∃ (s t : State) (pa : Nat), Returning s pa ∧ Returning t pa ∧ fld s.cctx.ctl.tsw.toNat 20 17 = 4 ∧
    fld t.cctx.ctl.tsw.toNat 20 17 = 4 ∧ s.cctx.ctl.tv ≠ 0 ∧ t.cctx.ctl.tv = 0 ∧ t.tasksOf t.cur.x = [] :=
  ⟨sTret 0x82000, sTret 0x82000 0x1200 0, scratchBase 0 + 0x1000, returning_of (by decide +kernel), returning_of (by decide +kernel),
   by decide +kernel, by decide +kernel, by decide +kernel, by decide +kernel, by decide +kernel⟩

theorem witness_controlRead : ∃ (r : Crd) (s : State) (v : Word64), controlValue s r.cr.toNat = some v ∧ Plain s ∧
    (r.cr = 6 ∨ r.cr = 7 → s.cctx.handler = true) :=
  ⟨{ d := 4, cr := 6 }, sTret 0, 0, by decide +kernel, plain_of (by decide +kernel), fun _ => by decide +kernel⟩

theorem witness_controlReadTraps : ∃ (r u : Crd) (s : State), TrapReady s ∧ (r.cr = 6 ∨ r.cr = 7) ∧
    controlValue s u.cr.toNat = none :=
  ⟨{ d := 4, cr := 7 }, { d := 4, cr := 13 }, sC, trapReady_of sC_trapReady, .inr rfl, by decide⟩

theorem witness_controlWrite : ∃ (r : Cwr) (s : State) (old : Word64), full s [srcS r.a r.wa] ∧
    controlValue s r.cr.toNat = some old ∧ Alone s ∧ (handlerOnly r.cr.toNat → s.cctx.handler = true) :=
  ⟨{ cr := 9, a := 1, wa := false }, sTret 0, 0, full_of (by decide +kernel), by decide +kernel, alone_of (by decide +kernel),
   fun _ => by decide +kernel⟩

theorem witness_controlWriteTraps : ∃ (r u : Cwr) (s : State), full s [srcS r.a r.wa] ∧ full s [srcS u.a u.wa] ∧ TrapReady s ∧
    handlerOnly r.cr.toNat ∧ controlValue s u.cr.toNat = none :=
  ⟨{ cr := 1, a := 1, wa := false }, { cr := 24, a := 1, wa := false }, sC, full_of (by decide), full_of (by decide),
   trapReady_of sC_trapReady, by decide, by decide⟩

/-! ### Vector results -/

/-- v1, v2 and v3 hold lanes of all kinds, p1 = 0x0F0F, p2 = 0xFFFF; s1 = 0x2000, s2 = 8, s6 = 0x320000; the context is in task mode
with tv = 0x100 and `sw`. -/
def sV (sw : Word64) : State :=
  regs0 [(1, 0x2000), (2, 8), (6, 0x320000), (7, 0x2040)] fun c => { c with
    ctl := { c.ctl with tv := 0x100 }
    live := { c.live with
      sw := sw, rseed := 5, ctr := 3
      v := [(1, 0x3F8000007F8000017FC00000FF8080003F8000017F0180FF4000000080000000), (2, 0xC00000003F80000080000000FFFF000100017F7F40400000),
            (3, 0x0003000200010000), (4, 0x1FFFFFFF00000000200000000000000000000000800000008000000000000000), (5, 0x0FFFFFFFFFFFFFFF)]
      p := [(1, 0x0F0F), (2, 0xFFFF)] } }

def vf (w : BitVec 2) (d a b : BitVec 9) (p : BitVec 4) (sub : BitVec 3) : VF :=
  { sk := false, w := w, d := d, a := a, b := b, c := 0, p := p, wa := false, wb := false, wc := false, fi := false, fo := false,
    sat := false, sub := sub }

theorem witness_vectorInteger : ∃ (i : Instr) (r : VF) (f : Nat → Nat → Nat → Nat) (s : State), vecInteger i = some (r, f) ∧ Plain s ∧
    full s [srcV r.a r.wa, srcV r.b r.wb] :=
  ⟨.vmulh (vf 1 1 1 2 1 0), vf 1 1 1 2 1 0, _, sV 0, rfl, plain_of (by decide), full_of (by decide)⟩

/-- A signalling NaN raises NV, which sw of the second state enables. -/
theorem witness_vectorFloat : ∃ (i : Instr) (s t : State) (r : VF) (l m : List Source) (g h : Nat → Flagged),
    vecFloat i s = some (r, l, g) ∧ vecFloat i t = some (r, m, h) ∧ i.wellFormed = true ∧ Plain s ∧ full s l ∧
    TrapReady t ∧ full t m ∧ flagsOver s r.p (wid r.w) (fun j => (g j).2) &&& enabled s = 0 ∧
    flagsOver t r.p (wid r.w) (fun j => (h j).2) &&& enabled t ≠ 0 :=
  ⟨.vfadd (vf 2 1 1 2 0 0), sV 0, sV 0x1F00, vf 2 1 1 2 0 0, _, _, _, _, rfl, rfl, by decide, plain_of (by decide), full_of (by decide),
   trapReady_of (by decide), full_of (by decide), by decide +kernel, by decide +kernel⟩

theorem witness_vectorCompare : ∃ (cc : BitVec 4) (r : VF) (s : State), (Instr.vcmp cc r).wellFormed = true ∧ Plain s ∧
    full s [srcV r.a r.wa, srcV r.b r.wb] :=
  ⟨9, vf 0 15 1 2 1 0, sV 0, by decide, plain_of (by decide), full_of (by decide)⟩

def fcmpFlags (s : State) (r : VF) : Nat :=
  flagsOver s r.p (wid r.w) fun j => if (fpLane s r r.a j).isSig || (fpLane s r r.b j).isSig then 16 else 0

theorem witness_vectorFloatCompare : ∃ (cc : BitVec 4) (r : VF) (s t : State), (Instr.vfcmp cc r).wellFormed = true ∧ Plain s ∧
    full s [srcV r.a r.wa, srcV r.b r.wb] ∧ TrapReady t ∧ full t [srcV r.a r.wa, srcV r.b r.wb] ∧
    fcmpFlags s r &&& enabled s = 0 ∧ fcmpFlags t r &&& enabled t ≠ 0 :=
  ⟨7, vf 2 1 1 2 0 0, sV 0, sV 0x1000, by decide, plain_of (by decide), full_of (by decide), trapReady_of (by decide),
   full_of (by decide), by decide +kernel, by decide +kernel⟩

theorem witness_predicates : ∃ s : State, Plain s := ⟨sV 0, plain_of (by decide)⟩

/-- VCVT from FP32 to INT8, in part 3. -/
def vcvt : VF := { vf 0 5 1 0 0 3 with c := 17 }
theorem witness_convert : ∃ (r : VF) (s : State), (Instr.vcvt r).wellFormed = true ∧ Plain s ∧ full s [srcV r.a r.wa] :=
  ⟨vcvt, sV 0, by decide, plain_of (by decide), full_of (by decide)⟩

theorem witness_sharedExponent : ∃ (r u : VF) (s : State), Plain s ∧ full s [srcV r.a r.wa] ∧ r.w = 0 ∧
    (r.sub.toNat + 1) * (2 * (8 * 18)) ≤ 1024 ∧ full s [srcV u.a u.wa] ∧ u.w = 2 ∧ u.sub = 7 ∧
    (u.sub.toNat + 1) * (2 * (8 * 8)) ≤ 1024 :=
  ⟨vf 0 1 1 0 0 2, vf 2 1 1 0 0 7, sV 0, plain_of (by decide), full_of (by decide), rfl, by decide, full_of (by decide), rfl, rfl,
   by decide⟩

theorem witness_lanesMoved : ∃ (r : VF) (s : State), Plain s ∧ full s [srcV r.a r.wa, srcV r.b r.wb] ∧ full s [srcS (sOf r.a) r.wa] :=
  ⟨vf 1 1 1 2 1 4, sV 0, plain_of (by decide), full_of (by decide), full_of (by decide)⟩

theorem witness_scalarMove : ∃ (r u : VF) (s : State), Plain s ∧ r.sub.getLsbD 0 = true ∧ full s [srcV r.a r.wa, srcS (sOf r.b) r.wb] ∧
    u.sub.getLsbD 0 = false ∧ full s [srcS (sOf u.a) u.wa, srcS (sOf u.b) u.wb] :=
  ⟨vf 2 0 1 2 0 3, vf 0 4 1 2 0 0, sV 0, plain_of (by decide), by decide, full_of (by decide), by decide, full_of (by decide)⟩

theorem witness_reduction : ∃ (r u : VF) (s : State), (Instr.vred r).wellFormed = true ∧ Plain s ∧ full s [srcV r.a r.wa] ∧
    r.sub = 4 ∧ (Instr.vred u).wellFormed = true ∧ full s [srcV u.a u.wa] ∧ u.sub = 5 :=
  ⟨vf 1 5 1 0 1 4, vf 2 5 2 0 0 5, sV 0, by decide, plain_of (by decide), full_of (by decide), rfl, by decide, full_of (by decide), rfl⟩

def vtopk : VF := { vf 1 24 1 2 1 6 with c := 8 }
theorem witness_topK : ∃ (r : VF) (s : State), (Instr.vtopk r).wellFormed = true ∧ Plain s ∧
    full s (srcV r.a r.wa :: if r.sub.getLsbD 2 then [srcV r.b r.wb] else []) :=
  ⟨vtopk, sV 0, by decide, plain_of (by decide), full_of (by decide)⟩

def lpBad (s : State) (r : VF) (f : Nat → Nat → Option Nat) : Nat :=
  lpMaskOf s r.p fun j => (f (lane 8 ((regs s).vv r.a) j) (lane 8 ((regs s).vv r.b) j)).isNone

/-- The largest value times itself is out of range. -/
theorem witness_lpArithmetic : ∃ (i k : Instr) (r u : VF) (f g : Nat → Nat → Option Nat) (s : State), vecLp i = some (r, f) ∧
    vecLp k = some (u, g) ∧ TrapReady s ∧ full s [srcV r.a r.wa, srcV r.b r.wb] ∧ full s [srcV u.a u.wa, srcV u.b u.wb] ∧
    lpBad s r f = 0 ∧ lpBad s u g ≠ 0 :=
  ⟨.vlpmul (vf 3 6 4 4 0 0), .vlpmul (vf 3 6 5 5 0 0), vf 3 6 4 4 0 0, vf 3 6 5 5 0 0, _, _, sV 0, rfl, rfl, trapReady_of (by decide),
   full_of (by decide), full_of (by decide), by decide +kernel, by decide +kernel⟩

theorem witness_lpConvert : ∃ (r : VF) (s : State), TrapReady s ∧ full s [srcV r.a r.wa] ∧ r.sub.toNat / 2 = 3 ∧
    lpMaskOf s r.p (fun j => (lpTo32 (lane 8 ((regs s).vv r.a) j)).isNone) ≠ 0 :=
  ⟨vf 3 6 5 0 0 7, sV 0, trapReady_of (by decide), full_of (by decide), by decide, by decide +kernel⟩

theorem witness_lpConvertFlags : ∃ (r : VF) (s : State), TrapReady s ∧ full s [srcV r.a r.wa] ∧ r.sub.toNat / 2 = 0 ∧
    flagsOver s r.p 8 (fun j => (lpOfFloat (fp32.val (lane 4 ((regs s).vv r.a) (16 * (r.sub.toNat % 2) + j)))).2) &&& enabled s ≠ 0 :=
  ⟨vf 3 5 1 0 0 0, sV 0x1F00, trapReady_of (by decide), full_of (by decide), by decide, by decide +kernel⟩

theorem witness_lpSplitJoin : ∃ (r : VF) (s : State), Plain s ∧ full s [srcV r.a r.wa] ∧ full s [srcV r.a r.wa, srcV r.b r.wb] ∧ r.d ≠ r.c :=
  ⟨{ vf 3 5 4 1 0 3 with c := 6 }, sV 0, plain_of (by decide), full_of (by decide), full_of (by decide), by decide⟩

theorem witness_random : ∃ (r : VF) (s : State), (Instr.vrand r).wellFormed = true ∧ Plain s :=
  ⟨vf 2 5 0 0 1 1, sV 0, by decide, plain_of (by decide)⟩

/-- And one whose part of V[c] lies in V[d] itself. -/
theorem witness_lpSplitSame : ∃ (r : VF) (s : State), Plain s ∧ full s [srcV r.a r.wa] ∧ r.d = r.c :=
  ⟨{ vf 3 5 4 1 0 3 with c := 5 }, sV 0, plain_of (by decide), full_of (by decide), rfl⟩

/-! ### Vector memory -/

def alignedB (s : State) (f : VecForm) : Bool :=
  f.whole.all (fun w => decide (classify w.1 ≠ .hole) && decide (w.1.toNat % w.2 = 0)) &&
    (List.range (128 / f.n)).all fun i =>
      !act s f.p f.n i || (decide (classify (f.addr i) ≠ .hole) && decide ((f.addr i).toNat % f.n = 0))

theorem aligned_of {s : State} {f : VecForm} (h : alignedB s f = true) : f.aligned s := by
  simp only [alignedB, Bool.and_eq_true, List.all_eq_true, List.mem_range, Bool.or_eq_true, Bool.not_eq_true', decide_eq_true_eq] at h
  refine ⟨fun w hw => ?_, fun i hi ha => ?_⟩
  · have := h.1
    rw [hw] at this
    simpa using this
  · rcases h.2 i hi with h1 | h1
    · rw [ha] at h1; exact absurd h1 (by decide)
    · exact h1

/-- The active lanes read bytes of the core's scratchpad. -/
def readableB (s : State) (f : VecForm) : Bool :=
  (List.range (128 / f.n)).all fun i =>
    !act s f.p f.n i || decide ((f.addr i).toNat < 0x300000)

theorem readable_of {s : State} {f : VecForm} (h : readableB s f = true) (hs : (s.poison.isEmpty && s.soft.isEmpty) = true)
    (hg : s.cctx.gate = []) : Readable s f fun i => scratchBase (coreOf s.cur.x) + (f.addr i).toNat := by
  intro i hi ha
  simp only [readableB, List.all_eq_true, List.mem_range, Bool.or_eq_true, Bool.not_eq_true', decide_eq_true_eq] at h
  rcases h i hi with h1 | h1
  · rw [ha] at h1; exact absurd h1 (by decide)
  · exact ⟨resolved_local h1 rfl, clean_of hs hg⟩

/-- sV with s8 = 0x2003 and bytes 1 to 255 and 0 at 0x2000 of its scratchpad. -/
def sVM : State :=
  ((sV 0).modCtx 0 fun c => { c with live := { c.live with s := [(1, 0x2000), (2, 8), (6, 0x320000), (8, 0x2003)] } }).write
    (scratchBase 0 + 0x2000) ((List.range 256).map fun i => BitVec.ofNat 8 (i + 1))
theorem sVM_plain : plainB sVM = true := by decide +kernel

def vm (w : BitVec 2) (v : BitVec 9) (s : BitVec 6) (p : BitVec 4) (disp : BitVec 14) : VM :=
  { sk := false, w := w, v := v, s := s, wb := false, wv := false, disp := disp, stride := 0, cls := 2, p := p }

theorem witness_vectorLoad : ∃ (i : Instr) (s : State) (f : VecForm) (pa : Nat → Nat), vectorLoad s i = some f ∧ Plain s ∧ Settled s ∧
    full s f.sources ∧ f.aligned s ∧ Readable s f pa :=
  ⟨.vlds (vm 1 9 1 1 0), sVM, _, _, rfl, plain_of sVM_plain, settled_of (by decide +kernel), full_of (by decide +kernel),
   aligned_of (by decide +kernel), readable_of (by decide +kernel) (by decide +kernel) (by decide +kernel)⟩

theorem witness_vectorStore : ∃ (i : Instr) (s : State) (f : VecForm), vectorStore s i = some f ∧ Plain s ∧ Settled s ∧
    full s f.sources ∧ f.aligned s :=
  ⟨.vst (vm 2 2 1 1 0), sVM, _, rfl, plain_of sVM_plain, settled_of (by decide +kernel), full_of (by decide +kernel),
   aligned_of (by decide +kernel)⟩

/-- An active lane of VLDS in the hole, the address of VST in the hole, and a misaligned base of VLDB. -/
theorem witness_vectorHole : ∃ (i k : Instr) (s : State) (f g : VecForm) (j m : Nat) (a : Word64), vectorLoad s i = some f ∧
    vectorStore s k = some g ∧ TrapReady s ∧ full s f.sources ∧ full s g.sources ∧ f.whole = none ∧ j < 128 / f.n ∧
    act s f.p f.n j = true ∧ classify (f.addr j) = .hole ∧ (∀ j', j' < j → act s f.p f.n j' = true → classify (f.addr j') ≠ .hole) ∧
    g.whole = some (a, m) ∧ classify a = .hole :=
  ⟨.vlds (vm 2 9 6 2 0), .vst (vm 2 2 6 2 0), sVM, _, _, 0, _, _, rfl, rfl, trapReady_of (by decide +kernel),
   full_of (by decide +kernel), full_of (by decide +kernel), rfl, by decide, by decide +kernel, by decide +kernel,
   fun j' h => absurd h (Nat.not_lt_zero _), rfl, by decide +kernel⟩

theorem witness_vectorMisaligned : ∃ (i : Instr) (s : State) (f : VecForm) (a : Word64) (m : Nat), vectorLoad s i = some f ∧
    TrapReady s ∧ full s f.sources ∧ f.whole = some (a, m) ∧ classify a ≠ .hole ∧ a.toNat % m ≠ 0 :=
  ⟨.vldb (vm 2 9 8 0 0), sVM, _, _, _, rfl, trapReady_of (by decide +kernel), full_of (by decide +kernel), rfl,
   by decide +kernel, by decide +kernel⟩

/-- VLD whose base lies below the hole, and whose lanes from lane 16 on lie in it. -/
theorem witness_vectorEndHole : ∃ (i : Instr) (s : State) (f : VecForm) (a : Word64) (m j : Nat), vectorLoad s i = some f ∧
    TrapReady s ∧ full s f.sources ∧ f.whole = some (a, m) ∧ classify a ≠ .hole ∧ a.toNat % m = 0 ∧ j < 128 / f.n ∧
    act s f.p f.n j = true ∧ classify (f.addr j) = .hole ∧ ∀ j', j' < j → classify (f.addr j') ≠ .hole := by
  refine ⟨.vld (vm 2 9 1 0 0), sVM.modCtx 0 fun c => { c with live := { c.live with s := [(1, 0x2FFFC0)] } }, _, _, _, 16, rfl,
    trapReady_of (by decide +kernel), full_of (by decide +kernel), rfl, by decide +kernel, by decide +kernel, by decide +kernel,
    by decide +kernel, by decide +kernel, by decide +kernel⟩

/-! ### Streams -/

/-- The bytes of a level descriptor. -/
def lvlBytes (kind t x ext seg pos : Nat) : List Byte :=
  toBytes 4 (kind * 2 ^ 30 + t * 2 ^ 29 + x * 2 ^ 28 + ext) ++ toBytes 4 seg ++ toBytes 4 pos

/-- Levels in the scratchpad of core 0: dense at 0x2000, compressed at 0x2040, compressed with a skip table of entries of 8 bytes and
with escapes at 0x2080, a bitmap at 0x20C0, one coordinate a segment at 0x20D0, and one to write at 0x20E0. -/
def levelBlocks : List (Nat × List Byte) :=
  [(0x2000, lvlBytes 0 0 0 5 0 0), (0x2040, lvlBytes 1 0 0 100 0xC0 0x1C0), (0x2080, lvlBytes 1 1 1 2000 0x280 0x380),
   (0x208C, toBytes 4 1 ++ toBytes 4 0 ++ toBytes 4 427 ++ toBytes 4 68), (0x20C0, lvlBytes 2 0 0 12 0x440 0x450),
   (0x20D0, lvlBytes 3 0 0 50 0x450 0), (0x20E0, lvlBytes 1 0 0 100 0x450 0x620), (0x2100, toBytes 4 0 ++ toBytes 4 3),
   (0x2200, [2, 3, 7]), (0x2300, toBytes 8 0 ++ toBytes 4 70 ++ toBytes 4 74),
   (0x2400, 1 :: List.replicate 9 2 ++ [0xFF] ++ toBytes 4 300 ++ List.replicate 59 2), (0x2500, [0x0C, 0x02]),
   (0x2510, toBytes 4 4), (0x2520, toBytes 4 7), (0x2808, [1])]
def cellsOf (base : Nat) (l : List (Nat × List Byte)) : List (Nat × Byte) :=
  l.flatMap fun p => (List.range p.2.length).map fun i => (base + p.1 + i, p.2.getD i 0)
def levels (s : State) : State := { s with mem := cellsOf (scratchBase 0) levelBlocks }

def inS (desc : Word64) (kind : BitVec 2) (ext entry hi coord byte bend : BitVec 32) : Stream :=
  { Stream.closed with desc := desc, state := 1, kind := kind, extent := ext, entry := entry, hi := hi, coord := coord, byte := byte
                       bend := bend }

/-- Streams 0 and 5 are dense at coordinates 3 and 2 of 5, 1 compressed at its entry 1, 2 compressed with a table at its first entry, 3 a bitmap at
its first bit, 4 an output that has offered 3, 6 the intersection of 7 and 8, both dense and HELD, and 9 the union of 10 and 11, of
which 10 is compressed. -/
def streams : List (Nat × Stream) :=
  [(0, inS 0x2000 0 5 3 5 3 0 0), (5, inS 0x2000 0 5 2 5 2 0 0), (1, inS 0x2040 1 100 1 3 5 1 0), (2, inS 0x2080 1 2000 0 70 1 0 74), (3, inS 0x20C0 2 12 4 7 2 0 0),
   (4, { Stream.closed with desc := 0x20E0, state := 2, extent := 100, coord := 3, offered := 3, vbase := 0x4000 }),
   (6, { Stream.closed with state := 3, x := 7, y := 8, coord := 1 }), (7, { inS 0x2000 0 5 1 5 1 0 0 with state := 5 }),
   (8, { inS 0x2000 0 5 1 5 1 0 0 with state := 5 }), (9, { Stream.closed with state := 4, x := 10, y := 11, coord := 4, px := true, py := true }),
   (10, { inS 0x2000 0 5 4 5 4 0 0 with state := 5 }), (11, { inS 0x2000 0 5 4 5 4 0 0 with state := 5 })]

def sF0 : State :=
  regs0 [(1, 0x2000), (3, 0x2040), (4, 0x2080), (5, 0x20C0), (7, 0x20D0), (8, 0x20E0), (10, 0x4000), (11, 4), (12, 430), (13, 0x2800), (14, 427), (15, 2)]
    fun c => { c with live := { c.live with f := streams, p := [(1, 0x11)], v := [(1, 0x0000000700000005), (2, 0x0000BEEF0000CAFE)] } }
def sF : State := levels sF0

/-- Its addresses are those of the scratchpad of core 0. -/
def inCore0 (a : Word64) : Nat := scratchBase 0 + a.toNat

theorem sF_core : coreOf sF.cur.x = 0 := by decide +kernel
theorem sF_gate : sF.cctx.gate = [] := by decide +kernel
theorem sF_poison : sF.poison = [] := by decide +kernel

theorem fReady_sF : FReady sF :=
  ⟨plain_of (by decide +kernel), settled_of (by decide +kernel), by unfold NoCopies; decide +kernel⟩

theorem noRun_sF : NoRun sF := fun _ h => by rw [show sF.ccore.mrun = none by decide +kernel] at h; cases h

theorem ahead_sF {a : Word64} {n : Nat} (h : a.toNat + n ≤ 0x300000) : Ahead sF inCore0 a n := by
  have hi : ∀ i, i < n → (a + ofN i).toNat = a.toNat + i := fun i hi => by
    simp only [ofN, BitVec.toNat_add, BitVec.toNat_ofNat]
    omega
  refine ⟨fun i hn => ⟨fun hv => ?_, resolved_local (by rw [hi i hn]; omega) (by rw [sF_core]; rfl), ?_, ?_⟩, fun i j hn hl => ?_⟩
  · simp only [isVirt, hi i hn, decide_eq_true_eq] at hv
    omega
  · exact sound_of (by decide +kernel)
  · rw [sF_gate]
    rfl
  · simp only [inCore0, hi i (by omega), hi (i + j) hn]
    omega

abbrev rF : Reader := reader sF inCore0

theorem levelOk_sF {d : Word64} (h : d.toNat + 12 ≤ 0x300000)
    (h1 : ((levelAt rF d).t = true ∨ (levelAt rF d).x = true → (levelAt rF d).kind = 1) ∧
      ((levelAt rF d).kind = 0 → (levelAt rF d).seg = d) ∧
      ((levelAt rF d).kind = 0 ∨ (levelAt rF d).kind = 3 → (levelAt rF d).pos = d) ∧
      ((levelAt rF d).kind = 1 ∨ (levelAt rF d).kind = 3 → (levelAt rF d).seg.toNat % 4 = 0)) : LevelOk rF d :=
  ⟨ahead_sF h, h1.1, h1.2.1, h1.2.2.1, h1.2.2.2⟩

theorem next_dense (m : Reader) (lv : Level) {v w : Stream} (h : v.bad = false ∧ v.atEnd = false ∧ v.kind = 0 ∧
    w = if v.coord.toNat + 1 < v.extent.toNat then { v with entry := v.entry + 1, count := v.count + 1, coord := v.coord + 1 }
      else { v with entry := v.entry + 1, count := v.count + 1, atEnd := true }) : Next m lv v w := by
  obtain ⟨h1, h2, h3, h4⟩ := h
  refine ⟨h1, ?_⟩
  have h5 : v.kind.toNat = 0 := by rw [h3]; rfl
  rw [h4]
  simp only [h2, h5, Bool.false_eq_true, if_false]

theorem advances_plain (m : Reader) (e : Levels) {c d : Trio} (h : c.v.joint = false) (hn : Next m e.lv c.v d.v)
    (hd : d.x = c.x ∧ d.y = c.y) : Advances m e c d := by
  unfold Advances
  rw [if_pos h]
  exact ⟨hn, hd⟩

theorem levelFor_sF {f : Nat} (h : ((sF.cctx.live.stream f).atEnd = true ∨
      (sF.cctx.live.stream f).coord.toNat < (sF.cctx.live.stream f).extent.toNat) ∧
    (sF.cctx.live.stream f).kind = 0) (lv : Level) : LevelFor rF (sF.cctx.live.stream f) lv :=
  ⟨h.1, fun hk => absurd h.2 hk⟩

def noLevel : Level := { desc := 0, kind := 0, t := false, x := false, extent := 0, seg := 0, pos := 0 }
def noLevels : Levels := { lv := noLevel, lx := noLevel, ly := noLevel }

def fopen (a : BitVec 6) (o : Bool) : Fopen := { f := 12, a := a, wa := false, o := o, disp := 0 }
def fopenX : FopenX := { b := 9, wb := false, segi := 0 }

theorem witness_openDense : ∃ (r : Fopen) (s : State) (pa : Word64 → Nat) (o : Placed), FReady s ∧ full s [srcS r.a r.wa] ∧
    let m := reader s pa
    let a := openAt s r
    (s.cctx.live.stream r.f.toNat).state ∈ ([0, 1, 2] : List (BitVec 3)) ∧ classify a ≠ .hole ∧ a.toNat % 4 = 0 ∧ LevelOk m a ∧
      r.o = false ∧ (levelAt m a).kind = 0 ∧ Opening m (levelAt m a) 0 o :=
  ⟨fopen 1 false, sF, inCore0, { entry := 0, hi := 5, coord := some 0 }, fReady_sF, full_of (by decide +kernel), by decide +kernel,
   by decide +kernel, by decide +kernel, levelOk_sF (by decide +kernel) (by decide +kernel), rfl, by decide +kernel, by
    have hk : (levelAt (reader sF inCore0) (openAt sF (fopen 1 false))).kind = 0 := by decide +kernel
    simp only [Opening, hk]
    decide +kernel⟩

theorem witness_openCompressed : ∃ (r : Fopen) (s : State) (pa : Word64 → Nat) (o : Placed), FReady s ∧ full s [srcS r.a r.wa] ∧
    let m := reader s pa
    let a := openAt s r
    (s.cctx.live.stream r.f.toNat).state ∈ ([0, 1, 2] : List (BitVec 3)) ∧ classify a ≠ .hole ∧ a.toNat % 4 = 0 ∧ LevelOk m a ∧
      r.o = false ∧ (levelAt m a).kind = 1 ∧ Opening m (levelAt m a) 0 o :=
  ⟨fopen 4 false, sF, inCore0, { entry := 0, hi := 70, byte := some 0, bend := some 74, coord := some 1 }, fReady_sF,
   full_of (by decide +kernel), by decide +kernel, by decide +kernel, by decide +kernel,
   levelOk_sF (by decide +kernel) (by decide +kernel), rfl, by decide +kernel, by
    have hk : (levelAt (reader sF inCore0) (openAt sF (fopen 4 false))).kind = 1 := by decide +kernel
    simp only [Opening, hk]
    refine ⟨ahead_sF (by decide +kernel), ahead_sF (by decide +kernel), by decide +kernel, by decide +kernel, by decide +kernel,
      by decide +kernel, by decide +kernel, by decide +kernel, by decide +kernel, fun _ => ⟨1, rfl, ahead_sF (by decide +kernel),
      by decide +kernel, fun h => absurd h (by decide +kernel), by decide +kernel, by decide +kernel, by decide +kernel, by decide +kernel,
      fun _ _ => ⟨ahead_sF (by decide +kernel), by decide +kernel⟩⟩⟩⟩

theorem witness_openBitmap : ∃ (r : Fopen) (s : State) (pa : Word64 → Nat) (o : Placed), FReady s ∧ full s [srcS r.a r.wa] ∧
    let m := reader s pa
    let a := openAt s r
    (s.cctx.live.stream r.f.toNat).state ∈ ([0, 1, 2] : List (BitVec 3)) ∧ classify a ≠ .hole ∧ a.toNat % 4 = 0 ∧ LevelOk m a ∧
      r.o = false ∧ (levelAt m a).kind = 2 ∧ Opening m (levelAt m a) 0 o :=
  ⟨fopen 5 false, sF, inCore0, { entry := 4, hi := 7, coord := some 2 }, fReady_sF, full_of (by decide +kernel), by decide +kernel,
   by decide +kernel, by decide +kernel, levelOk_sF (by decide +kernel) (by decide +kernel), rfl, by decide +kernel, by
    have hk : (levelAt (reader sF inCore0) (openAt sF (fopen 5 false))).kind = 2 := by decide +kernel
    have he : (levelAt (reader sF inCore0) (openAt sF (fopen 5 false))).extent = 12 := by decide +kernel
    have hs : (levelAt (reader sF inCore0) (openAt sF (fopen 5 false))).seg = 0x2500 := by decide +kernel
    simp only [Opening, hk]
    refine ⟨ahead_sF (by decide +kernel), fun b hb => ahead_sF ?_, by decide +kernel, by decide +kernel, by decide +kernel,
      by decide +kernel, by decide +kernel⟩
    rw [he] at hb
    have hn : (0x2500 : Word64).toNat = 0x2500 := by decide
    rw [hs, he]
    simp only [ofN, BitVec.toNat_add, BitVec.toNat_ofNat, hn]
    omega⟩

theorem witness_openCoordinate : ∃ (r : Fopen) (s : State) (pa : Word64 → Nat) (o : Placed), FReady s ∧ full s [srcS r.a r.wa] ∧
    let m := reader s pa
    let a := openAt s r
    (s.cctx.live.stream r.f.toNat).state ∈ ([0, 1, 2] : List (BitVec 3)) ∧ classify a ≠ .hole ∧ a.toNat % 4 = 0 ∧ LevelOk m a ∧
      r.o = false ∧ (levelAt m a).kind = 3 ∧ Opening m (levelAt m a) 0 o :=
  ⟨fopen 7 false, sF, inCore0, { entry := 0, hi := 1, coord := some 7 }, fReady_sF, full_of (by decide +kernel), by decide +kernel,
   by decide +kernel, by decide +kernel, levelOk_sF (by decide +kernel) (by decide +kernel), rfl, by decide +kernel, by
    have hk : (levelAt (reader sF inCore0) (openAt sF (fopen 7 false))).kind = 3 := by decide +kernel
    simp only [Opening, hk]
    exact ⟨ahead_sF (by decide +kernel), by decide +kernel, by decide +kernel⟩⟩

theorem witness_openOutput : ∃ (r : Fopen) (e : FopenX) (s : State) (pa : Word64 → Nat), FReady s ∧
    full s (srcS r.a r.wa :: srcS e.b e.wb :: if r.o then [srcS (e.b + 1) e.wb] else []) ∧
    let m := reader s pa
    let a := openAt s r
    (s.cctx.live.stream r.f.toNat).state ∈ ([0, 1, 2] : List (BitVec 3)) ∧ classify a ≠ .hole ∧ a.toNat % 4 = 0 ∧ LevelOk m a ∧
      r.o = true ∧ (levelAt m a).kind = 1 :=
  ⟨fopen 8 true, fopenX, sF, inCore0, fReady_sF, full_of (by decide +kernel), by decide +kernel,
   by decide +kernel, by decide +kernel, levelOk_sF (by decide +kernel) (by decide +kernel), rfl, by decide +kernel⟩

theorem witness_frest : ∃ (r : Fimg) (s : State) (pa : Word64 → Nat), FReady s ∧ full s [srcS r.a r.wa] ∧
    let a := (regs s).sv r.a
    let w := (reader s pa).num a 64
    (s.cctx.live.stream r.f.toNat).state ∈ ([0, 1, 2] : List (BitVec 3)) ∧ a.toNat % 64 = 0 ∧ Ahead s pa a 64 ∧
    w / 2 ^ 64 % 256 = 1 ∧ w / 2 ^ 80 % 256 ≤ 3 ∧ w / 2 ^ 448 = 0 :=
  ⟨{ f := 4, a := 13, wa := false }, sF, inCore0, fReady_sF, full_of (by decide +kernel),
   by decide +kernel, by decide +kernel, ahead_sF (by decide +kernel), by decide +kernel, by decide +kernel, by decide +kernel⟩

theorem witness_fclose : ∃ (r : Fclose) (s : State), Plain s ∧ (∀ c ∈ s.ccore.fq, c.x ≠ s.cur.x) ∧
    (s.cctx.live.stream r.f.toNat).state.toNat ≤ 4 ∧ (s.cctx.live.stream r.f.toNat).joint = true :=
  ⟨{ f := 6 }, sF, plain_of (by decide +kernel), by decide +kernel, by decide +kernel, by decide +kernel⟩

/-- A dense stream at coordinate 3 of 5 advances by two to END. -/
def dense0 : Trio := trio (regs sF) 0
def dense1 : Trio := { dense0 with v := { dense0.v with entry := 4, count := 1, coord := 4 } }
def dense2 : Trio := { dense0 with v := { dense0.v with entry := 5, count := 2, coord := 4, atEnd := true } }

theorem levels_dense0 : LevelsFor rF dense0 noLevels := by
  unfold LevelsFor
  rw [if_neg (by decide +kernel)]
  exact levelFor_sF (f := 0) (by decide +kernel) _

theorem advances_dense : AdvancesBy rF noLevels 2 dense0 dense2 :=
  ⟨dense1, advances_plain _ _ (by decide +kernel) (next_dense _ _ (by decide +kernel)) (by decide +kernel), dense2,
   advances_plain _ _ (by decide +kernel) (next_dense _ _ (by decide +kernel)) (by decide +kernel), rfl⟩

theorem witness_fnext : ∃ (r : Fnext) (s : State) (pa : Word64 → Nat) (e : Levels) (c : Trio), FReady s ∧ Walkable s r.f.toNat ∧
    Distinct s r.f.toNat ∧ LevelsFor (reader s pa) (trio (regs s) r.f.toNat) e ∧
    AdvancesBy (reader s pa) e (r.nm1.toNat + 1) (trio (regs s) r.f.toNat) c ∧ c.v.atEnd = true :=
  ⟨{ sk := false, f := 0, nm1 := 1 }, sF, inCore0, noLevels, dense2, fReady_sF, by unfold Walkable; decide +kernel,
   by unfold Distinct; decide +kernel, levels_dense0, advances_dense, rfl⟩

theorem witness_fnextOut : ∃ (r : Fnext) (s : State), FReady s ∧ (s.cctx.live.stream r.f.toNat).state = 2 ∧ r.nm1 = 0 :=
  ⟨{ sk := false, f := 4, nm1 := 0 }, sF, fReady_sF, by decide +kernel, rfl⟩

theorem reaches_one {m : Reader} {lv : Level} {c : Nat} {v w : Stream} (h : Next m lv v w) (hp : past c w) (hn : ¬ past c v) :
    Reaches m lv c v w := by
  refine ⟨1, ⟨w, h, rfl⟩, hp, fun k u hk hm => ?_⟩
  obtain rfl : k = 0 := by omega
  rw [show u = v from hm]
  exact hn

theorem agree_self (v : Stream) : Agree v v := by unfold Agree; split <;> rfl

theorem witness_fskip : ∃ (r : Fskip) (s : State) (pa : Word64 → Nat) (e : Levels) (d : Trio), FReady s ∧ Walkable s r.f.toNat ∧
    Distinct s r.f.toNat ∧ full s [srcS r.b r.wb] ∧
    let m := reader s pa
    let c := trio (regs s) r.f.toNat
    let n := ((regs s).sv r.b).toNat
    LevelsFor m c e ∧ c.v.joint = false ∧ Skips m e.lv n r.t c.v d.v ∧ ¬ past n c.v :=
  ⟨{ sk := false, f := 0, b := 11, wb := false, t := true }, sF, inCore0, noLevels, dense1, fReady_sF, by unfold Walkable; decide +kernel,
   by unfold Distinct; decide +kernel, full_of (by decide +kernel), levels_dense0, by decide +kernel,
   .inr ⟨by unfold past; decide +kernel, by decide +kernel, dense0.v, dense1.v, agree_self _,
     reaches_one (next_dense _ _ (by decide +kernel)) (by unfold past; decide +kernel) (by unfold past; decide +kernel),
     by rw [if_neg (by decide +kernel)]; rfl⟩, by unfold past; decide +kernel⟩

/-- The level with a table; its register stands at its entry 0, and the coordinate 427 of entry 64 is the table's. -/
def lvT : Level := levelAt rF 0x2080
def lvsT : Levels := { noLevels with lv := lvT }
def tab0 : Trio := trio (regs sF) 2
def tab64 : Trio := { tab0 with v := { tab0.v with entry := 64, byte := 68, count := 64, coord := 427 } }

theorem witness_fskipTable : ∃ (r : Fskip) (s : State) (pa : Word64 → Nat) (e : Levels) (d : Trio), FReady s ∧ Walkable s r.f.toNat ∧
    Distinct s r.f.toNat ∧ full s [srcS r.b r.wb] ∧
    let m := reader s pa
    let c := trio (regs s) r.f.toNat
    let n := ((regs s).sv r.b).toNat
    LevelsFor m c e ∧ c.v.joint = false ∧ Skips m e.lv n r.t c.v d.v ∧ ¬ past n c.v ∧ c.v.kind = 1 ∧ r.t = true ∧ e.lv.t = true := by
  refine ⟨{ sk := false, f := 2, b := 14, wb := false, t := true }, sF, inCore0, lvsT, tab64, fReady_sF, by unfold Walkable; decide +kernel,
   by unfold Distinct; decide +kernel, full_of (by decide +kernel), ?_, by decide +kernel,
   .inr ⟨by unfold past; decide +kernel, by decide +kernel, tab64.v, tab64.v, agree_self _,
     ⟨0, rfl, by unfold past; decide +kernel, fun k u hk => absurd hk (Nat.not_lt_zero k)⟩, ?_⟩,
   by unfold past; decide +kernel, by decide +kernel, rfl, by decide +kernel⟩
  · show LevelsFor rF tab0 lvsT
    unfold LevelsFor
    rw [if_neg (by decide +kernel)]
    exact ⟨by decide +kernel, fun _ => ⟨levelOk_sF (by decide +kernel) (by decide +kernel), by decide +kernel, by decide +kernel,
      by decide +kernel⟩⟩
  · rw [if_pos (by decide +kernel)]
    show FromTable rF lvT _ tab0.v tab64.v
    have h1 : tab0.v.entry.toNat / 64 = 0 := by decide +kernel
    have h2 : (tab0.v.hi.toNat - 1) / 64 = 1 := by decide +kernel
    unfold FromTable
    rw [h1, h2]
    refine ⟨fun k hk => ?_, .inr ⟨1, by omega, by decide +kernel, fun j h3 h4 => by omega, by decide +kernel, by decide +kernel,
      by decide +kernel⟩⟩
    obtain rfl : k = 1 := by omega
    exact ahead_sF (by decide +kernel)

/-- The intersection of two dense inputs at coordinate 1 skips to 2. -/
def meet0 : Trio := trio (regs sF) 6
def meetX : Stream := { meet0.x with entry := 2, count := 1, coord := 2 }
def meet1 : Trio := { v := { meet0.v with coord := 2, count := 0 }, x := meetX, y := meetX }

theorem skips_one {m : Reader} {lv : Level} {n : Nat} {t : Bool} {v w : Stream} (h1 : ¬ past n v) (h2 : v.bad = false) (h3 : Next m lv v w)
    (h4 : past n w) (h5 : v.kind ≠ 1) : Skips m lv n t v w :=
  .inr ⟨h1, h2, v, w, agree_self _, reaches_one h3 h4 h1, by rw [if_neg (fun h => h5 h.1)]⟩

theorem witness_fskipJoint : ∃ (r : Fskip) (s : State) (pa : Word64 → Nat) (e : Levels) (d : Trio), FReady s ∧ Walkable s r.f.toNat ∧
    Distinct s r.f.toNat ∧ full s [srcS r.b r.wb] ∧
    let m := reader s pa
    let c := trio (regs s) r.f.toNat
    let n := ((regs s).sv r.b).toNat
    LevelsFor m c e ∧ c.v.joint = true ∧ ¬ past n c.v ∧ c.v.bad = false ∧
      ∃ x y, Skips m e.lx n r.t c.x x ∧ Skips m e.ly n r.t c.y y ∧ Resyncs m e c.v x y d := by
  refine ⟨{ sk := false, f := 6, b := 15, wb := false, t := true }, sF, inCore0, noLevels, meet1, fReady_sF, by unfold Walkable; decide +kernel,
   by unfold Distinct; decide +kernel, full_of (by decide +kernel), ?_, by decide +kernel, by unfold past; decide +kernel, by decide +kernel, meetX, meetX,
   skips_one (by unfold past; decide +kernel) (by decide +kernel) (next_dense _ _ (by decide +kernel)) (by unfold past; decide +kernel)
    (by decide +kernel),
   skips_one (by unfold past; decide +kernel) (by decide +kernel) (next_dense _ _ (by decide +kernel)) (by unfold past; decide +kernel)
    (by decide +kernel), ?_⟩
  · show LevelsFor rF meet0 noLevels
    unfold LevelsFor
    rw [if_pos (by decide +kernel)]
    exact ⟨levelFor_sF (f := 7) (by decide +kernel) _, levelFor_sF (f := 8) (by decide +kernel) _⟩
  · show Resyncs rF noLevels meet0.v meetX meetX meet1
    unfold Resyncs
    rw [if_pos (by decide +kernel)]
    exact ⟨.done _ _ (.inr (.inr rfl)), by decide +kernel⟩

/-- Streams 5 at 2 and 0 at 3 meet at 3; their union stands at 2. -/
def five : Stream := sF.cctx.live.stream 5
def zero : Stream := sF.cctx.live.stream 0
def five3 : Stream := { five with entry := 3, count := 1, coord := 3 }

theorem reaches_five : Reaches rF noLevel zero.coord.toNat five five3 :=
  reaches_one (next_dense _ _ (by decide +kernel)) (by unfold past; decide +kernel) (by unfold past; decide +kernel)

theorem witness_joins : ∃ (r : Fjoin) (s : State) (pa : Word64 → Nat) (e : Levels) (d k : Trio), FReady s ∧
    let x := (regs s).stream r.x.toNat
    let y := (regs s).stream r.y.toNat
    x.state = 1 ∧ y.state = 1 ∧ r.x ≠ r.y ∧ r.d ≠ r.x ∧ r.d ≠ r.y ∧ ((regs s).stream r.d.toNat).state ∈ ([0, 1, 2] : List (BitVec 3)) ∧
    LevelFor (reader s pa) x e.lx ∧ LevelFor (reader s pa) y e.ly ∧
    (∃ v, v.state = 3 ∧ Resyncs (reader s pa) e v x y d) ∧ ∃ v, v.state = 4 ∧ Resyncs (reader s pa) e v x y k := by
  refine ⟨{ sk := false, d := 12, x := 5, y := 0 }, sF, inCore0, noLevels,
    { v := { Stream.closed with state := 3, coord := 3 }, x := five3, y := zero }, 
    { v := unionOf { Stream.closed with state := 4 } five zero, x := five, y := zero }, fReady_sF, by decide +kernel, by decide +kernel,
    by decide, by decide, by decide, by decide +kernel, levelFor_sF (f := 5) (by decide +kernel) _,
    levelFor_sF (f := 0) (by decide +kernel) _, ⟨{ Stream.closed with state := 3 }, rfl, ?_⟩, { Stream.closed with state := 4 }, rfl, ?_⟩
  · unfold Resyncs
    rw [if_pos (by decide +kernel)]
    exact ⟨.left five zero five3 five3 zero (by decide +kernel) (by decide +kernel) (by decide +kernel) reaches_five
      (.done _ _ (by decide +kernel)), by decide +kernel⟩
  · unfold Resyncs
    rw [if_neg (by decide +kernel)]
    exact ⟨rfl, rfl, rfl⟩

theorem walkable_sF {f : Nat} (h : (sF.cctx.live.stream f).state = 1) : Walkable sF f := by unfold Walkable; rw [h]; decide

/-- The two last elements of the dense stream 0. -/
theorem takes_dense : Takes rF noLevels true 32 dense0 [element dense0, element dense1] dense2 := by
  unfold Takes
  rw [if_neg (by decide +kernel)]
  refine ⟨by decide +kernel, ?_⟩
  rw [if_neg (by decide)]
  refine ⟨dense1, [element dense1], advances_plain _ _ (by decide +kernel) (next_dense _ _ (by decide +kernel)) (by decide +kernel), ?_, rfl⟩
  unfold Takes
  rw [if_neg (by decide +kernel)]
  refine ⟨by decide +kernel, ?_⟩
  rw [if_neg (by decide)]
  refine ⟨dense2, [], advances_plain _ _ (by decide +kernel) (next_dense _ _ (by decide +kernel)) (by decide +kernel), ?_, rfl⟩
  unfold Takes
  rw [if_pos (by decide +kernel)]
  exact ⟨rfl, rfl⟩

theorem witness_fldv : ∃ (r : Fldv) (s : State) (pa : Word64 → Nat) (e : Levels) (l : List MergeElem) (d : Trio), FReady s ∧
    Walkable s r.f.toNat ∧ Distinct s r.f.toNat ∧ full s [srcS r.a r.wa] ∧ s.ccore.fq.length < 4 ∧ l ≠ [] ∧
    let n := wid r.w
    let base := (regs s).sv r.a
    let m := reader s pa
    let addrs := l.map fun u => (if r.side then u.ey else u.ex).map fun k => base + ofN (n * k)
    base.toNat % n = 0 ∧ r.side = false ∧ LevelsFor m (trio (regs s) r.f.toNat) e ∧
      Takes m e (!r.k) (lanesE r.w) (trio (regs s) r.f.toNat) l d ∧ ∀ a, some a ∈ addrs → classify a ≠ .hole := by
  refine ⟨{ sk := false, f := 0, w := 2, k := false, side := false, vd := 5, a := 10, wa := false }, sF, inCore0, noLevels,
    [element dense0, element dense1], dense2, fReady_sF, walkable_sF (by decide +kernel), by unfold Distinct; decide +kernel,
    full_of (by decide +kernel), by decide +kernel, List.cons_ne_nil _ _, by decide +kernel, rfl, levels_dense0, takes_dense,
    fun a ha => ?_⟩
  simp only [List.map_cons, List.map_nil, List.mem_cons, List.not_mem_nil, or_false] at ha
  rcases ha with h | h
  · obtain rfl : a = 0x400C := Option.some.inj (h.trans (by decide +kernel))
    decide +kernel
  · obtain rfl : a = 0x4010 := Option.some.inj (h.trans (by decide +kernel))
    decide +kernel

theorem witness_fcrd : ∃ (r : Fcrd) (s : State) (pa : Word64 → Nat) (e : Levels) (l : List MergeElem) (d : Trio), FReady s ∧
    (Instr.fcrd r).wellFormed = true ∧ Walkable s r.f.toNat ∧ Distinct s r.f.toNat ∧ s.ccore.fq.length < 4 ∧ l ≠ [] ∧
    LevelsFor (reader s pa) (trio (regs s) r.f.toNat) e ∧
      Takes (reader s pa) e (!r.k) (lanesE r.w) (trio (regs s) r.f.toNat) l d :=
  ⟨{ sk := false, f := 0, w := 2, k := false, vd := 5 }, sF, inCore0, noLevels, [element dense0, element dense1], dense2, fReady_sF,
   by decide, walkable_sF (by decide +kernel), by unfold Distinct; decide +kernel, by decide +kernel, List.cons_ne_nil _ _, levels_dense0,
   takes_dense⟩

theorem witness_fstat : ∃ s : State, Plain s ∧ s.ccore.fq.length < 4 := ⟨sF, fReady_sF.plain, by decide +kernel⟩

theorem witness_femit : ∃ (r : Femit) (s : State) (pa : Word64 → Nat), FReady s ∧ NoRun s ∧ full s [srcV r.v r.wv, srcV (r.v + 1) r.wv] ∧
    s.ccore.fq.length < 4 ∧
    let v := s.cctx.live.stream r.f.toNat
    let cs := (((List.range (lanesE r.w)).filter fun i => ((regs s).pv r.p).getLsbD (4 * i)).map fun i =>
      (lane 4 ((regs s).vv r.v) i, lane (wid r.w) ((regs s).vv (r.v + 1)) i)).map (·.1)
    v.state = 2 ∧ LevelOk (reader s pa) v.desc ∧ cs = [5, 7] ∧ cs.Pairwise (· < ·) ∧ (∀ c ∈ cs, c < v.extent.toNat) ∧
      v.offered = 3 ∧ ∀ c ∈ cs, v.offered.toNat < c :=
  ⟨{ sk := false, f := 4, w := 2, p := 1, wv := false, v := 1 }, sF, inCore0, fReady_sF, noRun_sF, full_of (by decide +kernel), by decide +kernel,
   by decide +kernel, levelOk_sF (by decide +kernel) (by decide +kernel), by decide +kernel, by decide +kernel, by decide +kernel,
   by decide +kernel, by decide +kernel⟩

/-- The one element that is left of the union. -/
def union0 : Trio := trio (regs sF) 9
def unionX : Stream := { union0.x with entry := 5, count := 1, atEnd := true }
def union1 : Trio := { v := unionOf { union0.v with count := 1 } unionX unionX, x := unionX, y := unionX }

theorem takes_union : Takes rF noLevels true 32 union0 [element union0] union1 := by
  unfold Takes
  rw [if_neg (by decide +kernel)]
  refine ⟨by decide +kernel, ?_⟩
  rw [if_neg (by decide)]
  refine ⟨union1, [], ?_, ?_, rfl⟩
  · unfold Advances
    rw [if_neg (by decide +kernel), if_neg (by decide +kernel)]
    refine ⟨by decide +kernel, unionX, unionX, ?_, ?_, ?_⟩
    · rw [if_pos (by decide +kernel)]
      exact next_dense _ _ (by decide +kernel)
    · rw [if_pos (by decide +kernel)]
      exact next_dense _ _ (by decide +kernel)
    · unfold Resyncs
      rw [if_neg (by decide +kernel)]
      exact ⟨rfl, rfl, by decide +kernel⟩
  · unfold Takes
    rw [if_pos (by decide +kernel)]
    exact ⟨rfl, rfl⟩

theorem witness_fmerge : ∃ (r : Fmerge) (s : State) (pa : Word64 → Nat) (e : Levels) (l : List MergeElem) (d : Trio), FReady s ∧ NoRun s ∧
    full s [srcS r.a r.wa, srcS r.b r.wb] ∧ s.ccore.fq.length < 4 ∧ Distinct s r.fu.toNat ∧ l ≠ [] ∧
    let v := s.cctx.live.stream r.fo.toNat
    let c := trio (regs s) r.fu.toNat
    let n := if r.fmt.toNat ≤ 1 then 4 else 2
    let a := (regs s).sv r.a
    let b := (regs s).sv r.b
    let m := reader s pa
    v.state = 2 ∧ c.v.state = 4 ∧ a.toNat % n = 0 ∧ b.toNat % n = 0 ∧ LevelOk m v.desc ∧ LevelsFor m c e ∧
    c.v.x ≠ r.fo ∧ c.v.y ≠ r.fo ∧ Takes m e true 32 c l d ∧ (∀ u ∈ l, u.coord < v.extent.toNat) ∧
    ∀ u ∈ l, ∀ k, (u.ex = some k → classify (a + ofN (n * k)) ≠ .hole) ∧ (u.ey = some k → classify (b + ofN (n * k)) ≠ .hole) := by
  have he : element union0 = { coord := 4, ex := some 4, ey := some 4 } := by decide +kernel
  refine ⟨{ sk := false, fo := 4, fu := 9, fmt := 2, z := false, a := 10, wa := false, b := 13, wb := false }, sF, inCore0, noLevels,
    [element union0], union1, fReady_sF, noRun_sF, full_of (by decide +kernel), by decide +kernel, by unfold Distinct; decide +kernel,
    List.cons_ne_nil _ _, by decide +kernel, by decide +kernel, by decide +kernel, by decide +kernel,
    levelOk_sF (by decide +kernel) (by decide +kernel), ?_, by decide +kernel, by decide +kernel, takes_union, by decide +kernel, ?_⟩
  · show LevelsFor rF union0 noLevels
    unfold LevelsFor
    rw [if_pos (by decide +kernel)]
    exact ⟨levelFor_sF (f := 10) (by decide +kernel) _, levelFor_sF (f := 11) (by decide +kernel) _⟩
  · intro u hu k
    rw [List.mem_singleton, he] at hu
    subst hu
    refine ⟨fun h => ?_, fun h => ?_⟩ <;> obtain rfl : k = 4 := (Option.some.inj h).symm <;> decide +kernel

theorem witness_fsave : ∃ (r : Fimg) (s : State), FReady s ∧ NoRun s ∧ full s [srcS r.a r.wa] ∧ s.ccore.fq.length < 4 ∧
    classify ((regs s).sv r.a) ≠ .hole ∧ ((regs s).sv r.a).toNat % 64 = 0 :=
  ⟨{ f := 6, a := 13, wa := false }, sF, fReady_sF, noRun_sF, full_of (by decide +kernel), by decide +kernel,
   by decide +kernel, by decide +kernel⟩

/-! ### Shape registers and the matrix engine -/

/-- A shape record of a format in HBM, scratchpad or a bank, rank 2. -/
def shapeRec (fmt space base e0 e1 : Nat) (st1 : Nat) : HReg :=
  BitVec.ofNat 512 (base + (fmt + 2 ^ 8 * 2 + 2 ^ 13 * space) * 2 ^ 64 + e0 * 2 ^ 128 + e1 * 2 ^ 160 + st1 * 2 ^ 320)

/-- s1 = 0x2000, s2 = 8, s3 = 0x2040, where a cached record of the core stands; h1 holds a record; h operations count 10 issues; banks 3
(FP32), 5 (INT32) and 6 (LPX) of the core are the context's, bank 4 is context 1's with a grant, as are counter sets 1 and 2 and rings 0
and 1; the port of its mode binds bank 3, and q1 is
off at index 0. -/
def ctxM (c : Ctx) : Ctx :=
  { c with ports := [{ tag := 4, id := 9, bank := 3, lpx := false, wit := false, data := none }]
           live := { c.live with nTask := 10, h := [(1, shapeRec 1 1 0x4000 16 4 64)], v := [(1, 0x55)], q := [(1, 0xFFFFFFFFFFFFFFFE)] } }
def coreM (k : Core) : Core :=
  { k with rcache := [(0x2040, 7)]
           banks := [(3, { Bank.free with owned := true, wv := true, poison := 5, grants := 6 }),
             (4, { Bank.free with owned := true, owner := 1, grants := 1, fmt := 1 }), (5, { Bank.free with owned := true, fmt := 1 }),
             (6, { Bank.free with owned := true, fmt := 2 })]
           csets := [(1, { CSet.free with owned := true, fmt := 1, depth := 100 }), (2, { CSet.free with owned := true })]
           rings := [(0, { g := 0, owner := 0, base := 0x8000, size := 0x4000, head := 0, tail := 0, fill := 0 }),
             (1, { g := 1, owner := 0, base := 0x10000, size := 0x4000, head := 0, tail := 0, fill := 0 })]
           ringOf := [(0, 0), (1, 1)]
           ringNext := 2 }
def sM : State :=
  ((regs0 [(1, 0x2000), (2, 8), (3, 0x2040)] ctxM).modCore 0 coreM).write (scratchBase 0 + 0x2000) (toBytes 4 50 ++ toBytes 4 1)

theorem sM_alone : aloneB sM = true := by decide +kernel
theorem sM_plain : Plain sM := plain_of (by decide +kernel)
theorem sM_settled : Settled sM := settled_of (by decide +kernel)
theorem mReady_sM {i : Instr} (h : sM.cctx.live.tileOff i sM.cur.k = false) : MReady sM i := ⟨alone_of sM_alone, h⟩
theorem mRoom_sM : MRoom sM := by unfold MRoom; decide +kernel

def hm (a : BitVec 6) : Hmem := { sk := false, h := 2, a := a, wa := false }

/-- A cached record, one that is read, and one that HST writes. -/
theorem witness_shapes : ∃ (s : State) (r u : Hmem) (v : HReg) (pa : Nat), Plain s ∧ Settled s ∧ full s [srcS r.a r.wa] ∧
    full s [srcS u.a u.wa] ∧ classify (shapeEa s r 0 0) ≠ .hole ∧ (shapeEa s r 0 0).toNat % 64 = 0 ∧
    fget? s.ccore.rcache (shapeEa s r 0 0).toNat = some v ∧ classify (shapeEa s u 0 0) ≠ .hole ∧ (shapeEa s u 0 0).toNat % 64 = 0 ∧
    fget? s.ccore.rcache (shapeEa s u 0 0).toNat = none ∧ s.ccore.rcache.length < 64 ∧
    Resolved s (s.reqOf s.cur.x 3 0) accRead (shapeEa s u 0 0) pa ∧ Clean s (shapeEa s u 0 0) pa 64 :=
  ⟨sM, hm 3, hm 1, 7, scratchBase 0 + 0x2000, sM_plain, sM_settled, full_of (by decide +kernel), full_of (by decide +kernel),
   by decide +kernel, by decide +kernel, by decide +kernel, by decide +kernel, by decide +kernel, by decide +kernel, by decide +kernel,
   resolved_local (by decide +kernel) (by decide +kernel), clean_of (by decide +kernel) (by decide +kernel)⟩

theorem witness_hset : ∃ (r : Hset) (s : State), Plain s ∧ full s [srcS r.a r.wa] :=
  ⟨{ sk := false, h := 2, field := 9, a := 1, wa := false }, sM, sM_plain, full_of (by decide +kernel)⟩

theorem witness_hfence : ∃ (r u : Hfence) (s : State), Plain s ∧ r.one = true ∧ full s [srcS r.a r.wa] ∧
    ((regs s).sv r.a).toNat % 64 = 0 ∧ u.one = false :=
  ⟨{ one := true, a := 3, wa := false }, { one := false, a := 0, wa := false }, sM, sM_plain, rfl, full_of (by decide +kernel),
   by decide +kernel, rfl⟩

theorem witness_dueRecord : ∃ (s : State) (w : HWrite), Plain s ∧ w.handler = s.cctx.handler ∧ w.due ≤ issueOf s ∧
    ∀ n, n ∈ List.range 8 → (shapeOf (recordAfter s.cctx.live w)).fails n = false :=
  ⟨sM, { h := 1, whole := false, field := 2, val := 8, due := 10, handler := false }, sM_plain, by decide +kernel, by decide +kernel,
   by decide +kernel⟩

theorem witness_acalloc : ∃ (r : Acalloc) (s : State), MReady s (.acalloc r) ∧ MRoom s ∧ (s.ccore.bank r.b.toNat).owned = false ∧
    (s.ccore.banks.filter fun v => v.2.owned).length < s.bankBudget s.cur.x :=
  ⟨{ qe := false, q := 0, b := 7, fmt := 2 }, sM, mReady_sM (by decide +kernel), mRoom_sM, by decide +kernel, by decide +kernel⟩

theorem witness_bankOwned : ∃ (r : Acfree) (u : Acgrant) (v : Aczero) (w : Acwr) (s : State), MReady s (.acfree r) ∧ MRoom s ∧ Owns s r.b.toNat ∧
    MReady s (.acgrant u) ∧ Owns s u.b.toNat ∧ MReady s (.aczero v) ∧ MRoom s ∧ Owns s v.b.toNat ∧ MReady s (.acwr w) ∧
    Owns s w.b.toNat ∧ full s [srcV w.vs w.wv] :=
  ⟨{ qe := false, q := 0, b := 3 }, { qe := false, q := 0, b := 3, ctx := 1, r := true }, { sk := false, qe := false, q := 0, b := 3 },
   { sk := false, qe := false, q := 0, b := 3, row := 2, h := true, stride := 0, wv := false, vs := 1 }, sM,
   mReady_sM (by decide +kernel), mRoom_sM, ⟨by decide +kernel, by decide +kernel⟩, mReady_sM (by decide +kernel),
   ⟨by decide +kernel, by decide +kernel⟩, mReady_sM (by decide +kernel), mRoom_sM, ⟨by decide +kernel, by decide +kernel⟩,
   mReady_sM (by decide +kernel), ⟨by decide +kernel, by decide +kernel⟩, full_of (by decide +kernel)⟩

theorem witness_acrd : ∃ (r : Acrd) (u : AcrdSt) (s : State), MReady s (.acrd r) ∧ MRoom s ∧ MayRead s r.b.toNat ∧ ¬ Owns s r.b.toNat ∧
    MReady s (.acrdSt u) ∧ s.ccore.mq = [] ∧ s.ccore.mrun = none :=
  ⟨{ sk := false, qe := false, q := 0, b := 4, row := 2, h := true, stride := 0, vd := 9 }, { sk := false, qe := false, q := 0, b := 4, sd := 9 },
   sM, mReady_sM (by decide +kernel), mRoom_sM, ⟨by decide +kernel, by decide +kernel⟩, by unfold Owns; decide +kernel,
   mReady_sM (by decide +kernel), by decide +kernel, by decide +kernel⟩

theorem witness_rgset : ∃ (r u : Rgset) (s : State), MReady s (.rgset r) ∧ MRoom s ∧ r.size = 0 ∧ MReady s (.rgset u) ∧ u.size ≠ 0 ∧
    (∀ n, fget? s.ccore.ringOf r.g.toNat = some n → (s.ccore.ringGen n).owner = s.cur.x % 4) ∧ fget? s.ccore.ringOf u.g.toNat = none := by
  refine ⟨{ qe := false, q := 0, g := 1, size := 0, base := 0 }, { qe := false, q := 0, g := 2, size := 1, base := 9 }, sM,
   mReady_sM (by decide +kernel), mRoom_sM, rfl, mReady_sM (by decide +kernel), by decide, fun n h => ?_, by decide +kernel⟩
  obtain rfl : n = 1 := Option.some.inj (h.symm.trans (by decide +kernel))
  decide +kernel

theorem witness_tileOff : ∃ (i : Instr) (s : State), Alone s ∧ s.cctx.live.tileOff i s.cur.k = true :=
  ⟨.aczero { sk := false, qe := true, q := 1, b := 3 }, sM, alone_of sM_alone, by decide +kernel⟩

def mma (b : BitVec 5) (ga gb : BitVec 3) : Mma :=
  { sk := false, qe := false, q := 0, b := b, ga := ga, gb := gb, ka := true, kb := false, wit := false, km := 0 }

theorem witness_mma : ∃ (i : Instr) (r : Mma) (f : Nat) (s : State) (ta tb na nb : Nat), mmaForm i = some (r, f) ∧ MReady s i ∧ MRoom s ∧
    Owns s r.b.toNat ∧ tilesOf f (s.ccore.bank r.b.toNat).fmt (16 * (r.km.toNat + 1)) = some (ta, tb) ∧
    RingsAre s r.ga r.gb ta tb na nb :=
  ⟨.mmaInt8 (mma 5 0 1), mma 5 0 1, 4, sM, 512, 1024, 0, 1, rfl, mReady_sM (by decide +kernel), mRoom_sM,
   ⟨by decide +kernel, by decide +kernel⟩, by decide +kernel, by unfold RingsAre RingIs; decide +kernel⟩

/-- A product that pushes a port entry, its two tiles from one ring. -/
theorem witness_mmaPushes : ∃ (i : Instr) (r : Mma) (f : Nat) (s : State) (ta tb na nb : Nat), mmaForm i = some (r, f) ∧ MReady s i ∧
    MRoom s ∧ Owns s r.b.toNat ∧ tilesOf f (s.ccore.bank r.b.toNat).fmt (16 * (r.km.toNat + 1)) = some (ta, tb) ∧
    RingsAre s r.ga r.gb ta tb na nb ∧ 5 ≤ f :=
  ⟨.mmaSx5 (mma 3 0 0), mma 3 0 0, 6, sM, 384, 768, 0, 0, rfl, mReady_sM (by decide +kernel), mRoom_sM,
   ⟨by decide +kernel, by decide +kernel⟩, by decide +kernel, by unfold RingsAre RingIs; decide +kernel, by decide⟩

def mcnt (n : BitVec 2) : Mcnt := { sk := false, qe := false, q := 0, n := n, ga := 0, gb := 1, ka := true, kb := false, km := 1 }

theorem witness_mcnt : ∃ (i : Instr) (r : Mcnt) (f : Nat) (s : State) (na nb : Nat), countForm i = some (r, f) ∧ MReady s i ∧ MRoom s ∧
    OwnsSet s r.n.toNat ∧ (s.ccore.cset r.n.toNat).fmt = f ∧
    RingsAre s r.ga r.gb (16 * (16 * (r.km.toNat + 1))) (32 * (16 * (r.km.toNat + 1))) na nb ∧
    (s.ccore.cset r.n.toNat).depth + 16 * (r.km.toNat + 1) ≤ 524287 :=
  ⟨.mcntInt4 (mcnt 1), mcnt 1, 1, sM, 0, 1, rfl, mReady_sM (by decide +kernel), mRoom_sM, ⟨by decide +kernel, by decide +kernel⟩,
   by decide +kernel, by unfold RingsAre RingIs; decide +kernel, by decide +kernel⟩

theorem witness_nclr : ∃ (r : Nclr) (s : State), MReady s (.nclr r) ∧ MRoom s ∧ (s.ccore.cset r.n.toNat).owned = true ∧
    (s.ccore.cset r.n.toNat).owner = s.cur.x % 4 :=
  ⟨{ qe := false, q := 0, n := 1 }, sM, mReady_sM (by decide +kernel), mRoom_sM, by decide +kernel, by decide +kernel⟩

def nimg (n : BitVec 2) (a : BitVec 6) : Nimg := { sk := false, qe := false, q := 0, n := n, a := a, wa := false }

theorem witness_countImages : ∃ (r : Nimg) (s : State) (pa : Nat), Alone s ∧ Settled s ∧ MRoom s ∧ OwnsSet s r.n.toNat ∧
    full s [srcS r.a r.wa] ∧
    let v := s.ccore.cset r.n.toNat
    let a := (regs s).sv r.a
    let depth := number 4 fun j => s.byte (pa + j)
    let fmt := (s.byte (pa + 4)).toNat
    a.toNat % 64 = 0 ∧ a.toNat + 262208 ≤ 0x300000 ∧ Resolved s (s.reqOf s.cur.x 7 0) accRead a pa ∧ tileOn s (.ndump r) ∧
    NoCopies s ∧ Sound s pa 8 ∧ fmt ≤ 2 ∧ v.fmt = fmt ∧ depth ≤ 524287 ∧ tileOn s (.nload r) ∧ tileOn s (.nmerge r) ∧
    v.depth + depth ≤ 524287 :=
  ⟨nimg 1 1, sM, scratchBase 0 + 0x2000, alone_of sM_alone, sM_settled, mRoom_sM, ⟨by decide +kernel, by decide +kernel⟩,
   full_of (by decide +kernel), by decide +kernel, by decide +kernel, resolved_local (by decide +kernel) (by decide +kernel),
   by unfold tileOn; decide +kernel, by unfold NoCopies; decide +kernel, sound_of (by decide +kernel), by decide +kernel,
   by decide +kernel, by decide +kernel, by unfold tileOn; decide +kernel, by unfold tileOn; decide +kernel, by decide +kernel⟩

theorem witness_ndrain : ∃ (r : Ndrain) (s : State), MReady s (.ndrain r) ∧ MRoom s ∧ Owns s r.b.toNat ∧
    (s.ccore.bank r.b.toNat).fmt = 1 ∧ OwnsSet s r.n.toNat :=
  ⟨{ sk := false, qe := false, q := 0, b := 5, n := 1, c := true, r := true }, sM, mReady_sM (by decide +kernel), mRoom_sM,
   ⟨by decide +kernel, by decide +kernel⟩, by decide +kernel, ⟨by decide +kernel, by decide +kernel⟩⟩

theorem witness_nchk : ∃ (r : Nchk) (s : State), MReady s (.nchk r) ∧ MRoom s ∧ OwnsSet s r.n.toNat :=
  ⟨{ sk := false, qe := false, q := 0, n := 1, d := 9 }, sM, mReady_sM (by decide +kernel), mRoom_sM,
   ⟨by decide +kernel, by decide +kernel⟩⟩

theorem witness_xscale : ∃ (r : Xscale) (s t : State) (e : PortEntry), Plain s ∧ full s [srcS r.a r.wa] ∧ boundTo s (some e) ∧
    Owns s e.bank ∧ (s.ccore.bank e.bank).fmt = 0 ∧ Plain t ∧ full t [srcS r.a r.wa] ∧ boundTo t none :=
  ⟨{ sk := false, a := 2, wa := false }, sM, sC, _, sM_plain, full_of (by decide +kernel),
   (by unfold boundTo; decide +kernel : boundTo sM (some { tag := 4, id := 9, bank := 3, lpx := false, wit := false, data := none })),
   ⟨by decide +kernel, by decide +kernel⟩, by decide +kernel, (alone_of sC_alone).1.1, full_of (by decide +kernel),
   by unfold boundTo; decide +kernel⟩

/-- And the port binds bank 6. -/
def sX : State :=
  sM.modCtx 0 fun c => { c with ports := [{ tag := 4, id := 9, bank := 6, lpx := true, wit := false, data := none }] }

theorem witness_xexpv : ∃ (r : Xexpv) (s t : State) (e : PortEntry), Plain s ∧ full s [srcV r.va r.wa] ∧ boundTo s (some e) ∧
    Owns s e.bank ∧ (s.ccore.bank e.bank).fmt = 2 ∧ Plain t ∧ full t [srcV r.va r.wa] ∧ boundTo t none :=
  ⟨{ sk := false, wa := false, va := 1 }, sX, sC, _, plain_of (by decide +kernel), full_of (by decide +kernel),
   (by unfold boundTo; decide +kernel : boundTo sX (some { tag := 4, id := 9, bank := 6, lpx := true, wit := false, data := none })),
   ⟨by decide +kernel, by decide +kernel⟩, by decide +kernel, (alone_of sC_alone).1.1, full_of (by decide +kernel),
   by unfold boundTo; decide +kernel⟩

theorem witness_xfix : ∃ (r : Xfix) (s : State) (n : Nat), Plain s ∧ full s [srcS r.a r.wa] ∧ Owns s r.b.toNat ∧
    (s.ccore.bank r.b.toNat).fmt = 1 ∧ RingIs s r.g.toNat (32 * (16 * (r.km.toNat + 1))) n ∧ ((regs s).sv r.a).toNat < 0x300000 ∧
    ((regs s).sv r.a).toNat % 8 = 0 :=
  ⟨{ sk := false, b := 5, g := 1, a := 1, wa := false, pop := true, km := 3 }, sM, 1, sM_plain, full_of (by decide +kernel),
   ⟨by decide +kernel, by decide +kernel⟩, by decide +kernel, by unfold RingIs; decide +kernel, by decide +kernel, by decide +kernel⟩

theorem witness_xcvt : ∃ (r u : Xcvt) (s : State), (Instr.xcvt r).wellFormed = true ∧ (Instr.xcvt u).wellFormed = true ∧ Plain s ∧
    Owns s r.b.toNat ∧ r.mode = 0 ∧ (s.ccore.bank r.b.toNat).fmt = 1 ∧ Owns s u.b.toNat ∧ u.mode ≠ 0 ∧
    (s.ccore.bank u.b.toNat).fmt = 0 :=
  ⟨{ sk := false, b := 5, mode := 0, e := 0xF0 }, { sk := false, b := 3, mode := 1, e := 3 }, sM, by decide, by decide, sM_plain,
   ⟨by decide +kernel, by decide +kernel⟩, rfl, by decide +kernel, ⟨by decide +kernel, by decide +kernel⟩, by decide, by decide +kernel⟩

/-! ### Copies and the tree engine -/

/-- h0 and h1 in HBM, h2 in the scratchpad, h3 in bank 4, h4 and h5 transposed, h6 shared and in HBM, h7 in HBM with no element; s1 = 0x2000,
s2 = 0x3000, s3 = 0x4040, s4 = 1, s5 = 3; chunk 0 of completion slot 9 is done. -/
def sK : State :=
  (sM.modCtx 0 fun c => { c with
    bitmaps := [(9, 0xFFFFFFFFFFFFFFF1)]
    live := { c.live with
      rseed := 77, ctr := 5
      s := [(1, 0x2000), (2, 0x3000), (3, 0x4040), (4, 1), (5, 3)]
      h := [(0, shapeRec 7 0 0x800000 16 4 64), (1, shapeRec 1 0 0x800000 16 4 64), (2, shapeRec 1 1 0x4000 16 4 128), (3, shapeRec 7 2 4 16 4 256), (4, shapeRec 1 1 0x5000 8 16 64),
        (5, shapeRec 1 0 0x800000 16 8 64), (6, shapeRec 1 0 0x800000 16 4 64 ||| BitVec.ofNat 512 (2 ^ 76)),
        (7, shapeRec 1 0 0x800000 16 0 64 ||| BitVec.ofNat 512 (2 ^ 75))] } })

theorem sK_alone : Alone sK := alone_of (by decide +kernel)
theorem sK_settled : Settled sK := settled_of (by decide +kernel)

theorem copyRoom_sK {cid : BitVec 5} : CopyRoom sK cid := by
  have h : sK.ccore.copies = [] := by decide +kernel
  refine ⟨by rw [h]; decide, fun p hp => ?_⟩
  rw [h] at hp
  exact absurd hp List.not_mem_nil

theorem noCopies_sK : NoCopies sK := by unfold NoCopies; decide +kernel

theorem recordOk_of {v : HReg} (h : ((List.range 8).all fun n => n == 0 || !(shapeOf v).fails n) = true) : RecordOk v := by
  intro n h1 h2
  simp only [List.all_eq_true, List.mem_range, Bool.or_eq_true, beq_iff_eq, Bool.not_eq_true'] at h
  exact (h n (by omega)).resolve_left (by omega)

theorem noBroadcast {d : Shape} (h : ∀ n ∈ [1, 2, 3], n < d.rank → ¬ (d.stride n = 0 ∧ 1 < d.extent n)) :
    ∀ n, 1 ≤ n → n < d.rank → n < 4 → ¬ (d.stride n = 0 ∧ 1 < d.extent n) :=
  fun n h1 h2 h3 => h n (by simp only [List.mem_cons, List.not_mem_nil, or_false]; omega) h2

theorem addressOk_some {s : State} {p : BitVec 6 × Bool} {n : Nat}
    (h : classify ((regs s).sv p.1) ≠ .hole ∧ ((regs s).sv p.1).toNat % n = 0) : AddressOk s (some p) n := by
  intro q hq
  obtain rfl := Option.some.inj hq
  exact h

theorem addressOk_none {s : State} {n : Nat} : AddressOk s none n := fun _ h => absurd h (by simp)

def copyR (hd hs : BitVec 3) (ds : Bool) : Copy :=
  { sk := false, qe := false, q := 0, hd := hd, hs := hs, cid := 9, ds := ds, dt := false }
def copyX : CopyX := { stride := 5, a := 1, wa := false, ba := true }

/-- A drain copy of bank 4 to HBM, with a barrier. -/
theorem witness_copy : ∃ (i : Instr) (s : State) (f : CopyForm), copyForm2 i (regs s).sv = some f ∧ MReady s i ∧
    full s (operand f.bar ++ operand f.idx) ∧ CopyRoom s f.cid ∧
    let d := stepped s f.hd (if f.ds then f.stride else 0)
    let v := stepped s f.hs f.stride
    RecordOk d ∧ RecordOk v ∧ f.ok (shapeOf d) (shapeOf v) ∧ SourceOk s (shapeOf v) ∧ AddressOk s f.bar 32 ∧ AddressOk s f.idx 4 :=
  ⟨.copyExt (copyR 0 3 true) copyX, sK, _, rfl, ⟨sK_alone, by unfold tileOn; decide +kernel⟩, full_of (by decide +kernel), copyRoom_sK,
   recordOk_of (by decide +kernel), recordOk_of (by decide +kernel),
   ⟨⟨by decide +kernel, by decide +kernel, by decide +kernel, noBroadcast (by decide +kernel)⟩, by decide +kernel, fun h => absurd h (by decide)⟩,
   fun _ => ⟨⟨by decide +kernel, .inr (by decide +kernel)⟩, by decide +kernel⟩, addressOk_some (by decide +kernel), addressOk_none⟩

theorem witness_copyt : ∃ (i : Instr) (s : State) (f : CopyForm), copyForm2 i (regs s).sv = some f ∧ MReady s i ∧
    full s (operand f.bar ++ operand f.idx) ∧ CopyRoom s f.cid ∧
    let d := stepped s f.hd (if f.ds then f.stride else 0)
    let v := stepped s f.hs f.stride
    RecordOk d ∧ RecordOk v ∧ f.ok (shapeOf d) (shapeOf v) ∧ SourceOk s (shapeOf v) ∧ AddressOk s f.bar 32 ∧ AddressOk s f.idx 4 :=
  ⟨.copyt { sk := false, qe := false, q := 0, hd := 4, hs := 5, cid := 9, ds := false }, sK, _, rfl, ⟨sK_alone, by unfold tileOn; decide +kernel⟩,
   full_of (by decide +kernel), copyRoom_sK, recordOk_of (by decide +kernel), recordOk_of (by decide +kernel),
   ⟨by decide +kernel, by decide +kernel, by decide +kernel, by decide +kernel, by decide +kernel, by decide +kernel, by decide +kernel,
    by decide +kernel, by decide +kernel, by decide +kernel, noBroadcast (by decide +kernel), by decide +kernel⟩,
   fun h => absurd h (by decide +kernel), addressOk_none, addressOk_none⟩

def cgath (hd hs : BitVec 3) : Cidx :=
  { sk := false, qe := false, q := 0, hd := hd, hs := hs, cid := 9, stride := 0, a := 0, wa := false, ba := false, x := 2, wx := false }

theorem witness_cgath : ∃ (i : Instr) (s : State) (f : CopyForm), copyForm2 i (regs s).sv = some f ∧ MReady s i ∧
    full s (operand f.bar ++ operand f.idx) ∧ CopyRoom s f.cid ∧
    let d := stepped s f.hd (if f.ds then f.stride else 0)
    let v := stepped s f.hs f.stride
    RecordOk d ∧ RecordOk v ∧ f.ok (shapeOf d) (shapeOf v) ∧ SourceOk s (shapeOf v) ∧ AddressOk s f.bar 32 ∧ AddressOk s f.idx 4 :=
  ⟨.cgath (cgath 2 1), sK, _, rfl, ⟨sK_alone, by unfold tileOn; decide +kernel⟩, full_of (by decide +kernel), copyRoom_sK,
   recordOk_of (by decide +kernel), recordOk_of (by decide +kernel),
   ⟨by decide +kernel, by decide +kernel, by decide +kernel, by decide +kernel, by decide +kernel, by decide +kernel⟩,
   fun h => absurd h (by decide +kernel), addressOk_none, addressOk_some (by decide +kernel)⟩

/-- And with no element. -/
theorem witness_cred : ∃ (i : Instr) (s : State) (f : CopyForm), copyForm2 i (regs s).sv = some f ∧ MReady s i ∧
    full s (operand f.bar ++ operand f.idx) ∧ CopyRoom s f.cid ∧
    let d := stepped s f.hd (if f.ds then f.stride else 0)
    let v := stepped s f.hs f.stride
    RecordOk d ∧ RecordOk v ∧ f.ok (shapeOf d) (shapeOf v) ∧ SourceOk s (shapeOf v) ∧ AddressOk s f.bar 32 ∧ AddressOk s f.idx 4 ∧
    (shapeOf d).size = 0 :=
  ⟨.cred { sk := false, qe := false, q := 0, hd := 7, hs := 7, cid := 9, ds := false, sr := false }, sK, _, rfl,
   ⟨sK_alone, by unfold tileOn; decide +kernel⟩, full_of (by decide +kernel), copyRoom_sK, recordOk_of (by decide +kernel), recordOk_of (by decide +kernel),
   ⟨⟨by decide +kernel, by decide +kernel, by decide +kernel, noBroadcast (by decide +kernel)⟩, by decide +kernel, by decide +kernel⟩,
   fun h => absurd h (by decide +kernel), addressOk_none, addressOk_none, by decide +kernel⟩

def cring (hs : BitVec 3) : Cring := { sk := false, qe := false, q := 0, g := 1, hs := hs, cid := 9 }

theorem witness_cring : ∃ (i : Instr) (r : Cring) (stride : BitVec 15) (bar : Option (BitVec 6 × Bool)) (s : State) (n : Nat),
    ringForm i = some (r, stride, bar) ∧ MReady s i ∧ full s (operand bar) ∧ CopyRoom s r.cid ∧
    let v := stepped s r.hs stride
    RecordOk v ∧ SourceOk s (shapeOf v) ∧ RingIs s r.g.toNat (shapeOf v).size n ∧ AddressOk s bar 32 ∧ (shapeOf v).size ≠ 0 :=
  ⟨.cringExt (cring 2) copyX, cring 2, 5, some (1, false), sK, 1, rfl, ⟨sK_alone, by unfold tileOn; decide +kernel⟩, full_of (by decide +kernel),
   copyRoom_sK, recordOk_of (by decide +kernel), fun h => absurd h (by decide +kernel), by unfold RingIs; decide +kernel,
   addressOk_some (by decide +kernel), by decide +kernel⟩

def cwait (a : BitVec 6) : Cwait := { a := a, cid := 9, wa := false }

/-- The mask of bit 0 is done, that of bit 1 is not. -/
theorem witness_cwait : ∃ (r u : Cwait) (s : State), Alone s ∧ r.a ≠ 0 ∧ full s [srcS r.a r.wa] ∧
    bitmap s r.cid &&& (regs s).sv r.a = (regs s).sv r.a ∧ u.a = 0 ∧ bitmap s u.cid &&& BitVec.allOnes 64 ≠ BitVec.allOnes 64 ∧
    s.cctx.state = .running :=
  ⟨cwait 4, cwait 0, sK, sK_alone, by decide, full_of (by decide +kernel), by decide +kernel, rfl, by decide +kernel, by decide +kernel⟩

theorem witness_publish : ∃ (r : Publish) (s : State), Alone s ∧ CopyRoom s r.cid ∧
    let w := shapeOf (stepped s r.h 0)
    let lo := (w.base : Int) + w.reach.1
    let hi := (w.base : Int) + w.reach.2
    RecordOk (stepped s r.h 0) ∧ w.sh = true ∧ w.space = 0 ∧ w.size ≠ 0 ∧ 0 ≤ lo ∧ lo / 2 ^ 49 = hi / 2 ^ 49 ∧ hi < 2 ^ 64 :=
  ⟨{ h := 6, cid := 9 }, sK, sK_alone, copyRoom_sK, recordOk_of (by decide +kernel), by decide +kernel, by decide +kernel,
   by decide +kernel, by decide +kernel, by decide +kernel, by decide +kernel⟩

theorem witness_upd : ∃ (r : Upd) (s : State) (p₀ p₁ : Nat), Alone s ∧ Settled s ∧ NoCopies s ∧ CopyRoom s r.cid ∧
    (∀ p ∈ s.ccore.copies, p.id < s.ccore.seq) ∧ full s (srcS r.a r.wa :: if r.g = 0 then [] else [srcS r.g r.wg]) ∧
    let v := stepped s r.h 0
    let a := (regs s).sv r.a
    let g := (regs s).sv r.g
    RecordOk v ∧ (shapeOf v).space = 0 ∧ classify a ≠ .hole ∧ a.toNat % 128 = 0 ∧ r.g ≠ 0 ∧ classify g ≠ .hole ∧ g.toNat % 32 = 0 ∧
    Resolved s (s.reqOf s.cur.x 7 0) accRead a p₀ ∧ Resolved s (s.reqOf s.cur.x 7 0) accRead (a + 64) p₁ ∧
    Sound s p₀ 64 ∧ Sound s p₁ 64 := by
  have h : sK.ccore.copies = [] := by decide +kernel
  refine ⟨{ h := 1, cid := 9, a := 1, wa := false, g := 2, wg := false }, sK, scratchBase 0 + 0x2000, scratchBase 0 + 0x2040, sK_alone,
   sK_settled, noCopies_sK, copyRoom_sK, fun p hp => ?_, full_of (by decide +kernel), recordOk_of (by decide +kernel), by decide +kernel,
   by decide +kernel, by decide +kernel, by decide, by decide +kernel, by decide +kernel, resolved_local (by decide +kernel) (by decide +kernel),
   resolved_local (by decide +kernel) (by decide +kernel), sound_of (by decide +kernel), sound_of (by decide +kernel)⟩
  rw [h] at hp
  exact absurd hp List.not_mem_nil

theorem tReady_sK {i : Instr} (h : sK.cctx.live.tileOff i sK.cur.k = false) : TReady sK i := ⟨sK_alone, h, by decide +kernel⟩

theorem witness_tmode : ∃ (r : Tmode) (u : Tevid) (s : State), TReady s (.tmode r) ∧ Settled s ∧ full s [srcS r.a r.wa, srcS r.b r.wb] ∧
    ((regs s).sv r.a).toNat % 32 = 0 ∧ ((regs s).sv r.b).toNat % 64 = 0 ∧ TreeAt s ((regs s).sv r.a) ∧ TreeAt s ((regs s).sv r.b) ∧
    (∀ w, w < 16 → (fget Win.empty s.cctx.tree.wins w).st = 0) ∧ TReady s (.tevid u) ∧ full s [srcS u.a u.wa, srcS u.b u.wb] ∧
    ((regs s).sv u.a).toNat % 2 = 0 ∧ TreeAt s ((regs s).sv u.a) ∧ ((regs s).sv u.b).toNat ≤ 2 ^ 24 :=
  ⟨{ mode := 3, a := 1, wa := false, b := 2, wb := false }, { sk := false, a := 1, wa := false, b := 5, wb := false }, sK,
   tReady_sK (by decide +kernel), sK_settled, full_of (by decide +kernel), by decide +kernel, by decide +kernel, by unfold TreeAt; decide +kernel,
   by unfold TreeAt; decide +kernel, by decide +kernel, tReady_sK (by decide +kernel), full_of (by decide +kernel), by decide +kernel,
   by unfold TreeAt; decide +kernel, by decide +kernel⟩

theorem witness_tseed : ∃ (r : Tseed) (s : State), TReady s (.tseed r) ∧ full s [srcS r.a r.wa] :=
  ⟨{ a := 1, wa := false }, sK, tReady_sK (by decide +kernel), full_of (by decide +kernel)⟩

def tfwd (ph : BitVec 2) : Tfwd := { sk := false, qe := false, q := 0, a := 3, wa := false, ph := ph, w := 2 }
def trev (a : BitVec 6) : Trev := { sk := false, qe := false, q := 0, a := a, wa := false }

/-- PH = 0, and a first phase of the record at 0x4040, whose KIND is 0. -/
theorem witness_tfwd : ∃ (r u : Tfwd) (s : State) (pa : Nat), r.ph = 0 ∧ u.ph ≠ 0 ∧
    TReady s (.tfwd r) ∧ TReady s (.tfwd u) ∧ full s [srcS r.a r.wa] ∧ full s [srcS u.a u.wa] ∧ (recordEa s r.a 0 0).toNat % 64 = 0 ∧
    TreeAt s (recordEa s r.a 0 0) ∧ (recordEa s u.a 0 0).toNat % 64 = 0 ∧ TreeAt s (recordEa s u.a 0 0) ∧
    Settled s ∧ NoCopies s ∧ Resolved s (s.reqOf s.cur.x 5 0) accRead (recordEa s u.a 0 0) pa ∧ Sound s pa 1 ∧
      PhaseOk s u.w u.ph.toNat (s.byte pa).toNat :=
  ⟨tfwd 0, tfwd 1, sK, scratchBase 0 + 0x4040, rfl, by decide, tReady_sK (by decide +kernel), tReady_sK (by decide +kernel),
   full_of (by decide +kernel), full_of (by decide +kernel), by decide +kernel, by unfold TreeAt; decide +kernel, by decide +kernel,
   by unfold TreeAt; decide +kernel, sK_settled, noCopies_sK, resolved_local (by decide +kernel) (by decide +kernel),
   sound_of (by decide +kernel), by unfold PhaseOk; decide +kernel⟩

theorem witness_trev : ∃ (r : Trev) (s : State), TReady s (.trev r) ∧ full s [srcS r.a r.wa] ∧ (recordEa s r.a 0 0).toNat % 64 = 0 ∧
    TreeAt s (recordEa s r.a 0 0) :=
  ⟨trev 3, sK, tReady_sK (by decide +kernel), full_of (by decide +kernel), by decide +kernel, by unfold TreeAt; decide +kernel⟩

/-- TARGM, and TSAMP with STATE = 0 at 0x3004 and with STATE = 1 at 0x2004. -/
theorem witness_walks : ∃ (r u : Trev) (s : State) (pa pb : Nat), Alone s ∧ s.ccore.tq.length < 8 ∧ full s [srcS r.a r.wa] ∧
    full s [srcS u.a u.wa] ∧ ((regs s).sv r.a).toNat % 64 = 0 ∧ ((regs s).sv r.a).toNat < 0x300000 ∧
    ((regs s).sv u.a).toNat % 64 = 0 ∧ ((regs s).sv u.a).toNat < 0x300000 ∧ tileOn s (.targm r) ∧ tileOn s (.tsamp r) ∧
    tileOn s (.tsamp u) ∧ Settled s ∧ NoCopies s ∧ Resolved s (s.reqOf s.cur.x 5 0) accRead ((regs s).sv r.a + 4) pa ∧ Sound s pa 1 ∧
    s.byte pa = 0 ∧ Resolved s (s.reqOf s.cur.x 5 0) accRead ((regs s).sv u.a + 4) pb ∧ Sound s pb 1 ∧ s.byte pb ≠ 0 :=
  ⟨trev 2, trev 1, sK, scratchBase 0 + 0x3004, scratchBase 0 + 0x2004, sK_alone, by decide +kernel, full_of (by decide +kernel),
   full_of (by decide +kernel), by decide +kernel, by decide +kernel, by decide +kernel, by decide +kernel,
   by unfold tileOn; decide +kernel, by unfold tileOn; decide +kernel, by unfold tileOn; decide +kernel, sK_settled,
   noCopies_sK, resolved_local (by decide +kernel) (by decide +kernel), sound_of (by decide +kernel), by decide +kernel,
   resolved_local (by decide +kernel) (by decide +kernel), sound_of (by decide +kernel), by decide +kernel⟩

theorem witness_tratio : ∃ (r : Tratio) (s : State), TReady s (.tratio r) ∧ full s [srcS r.a r.wa, srcS r.b r.wb, srcS r.c r.wc] ∧
    ((regs s).sv r.a).toNat % 8 = 0 ∧ ((regs s).sv r.b).toNat % 8 = 0 ∧ ((regs s).sv r.c).toNat % 8 = 0 ∧ TreeAt s ((regs s).sv r.a) ∧
    TreeAt s ((regs s).sv r.b) ∧ TreeAt s ((regs s).sv r.c) :=
  ⟨{ sk := false, qe := false, q := 0, a := 1, wa := false, b := 2, wb := false, c := 3, wc := false }, sK, tReady_sK (by decide +kernel),
   full_of (by decide +kernel), by decide +kernel, by decide +kernel, by decide +kernel, by unfold TreeAt; decide +kernel,
   by unfold TreeAt; decide +kernel, by unfold TreeAt; decide +kernel⟩

theorem witness_twclr : ∃ (r : Twclr) (u : Tstat) (s : State), TReady s (.twclr r) ∧ TReady s (.tstat u) :=
  ⟨{ sk := false, all := false, w := 3 }, { sk := false, d := 9, sel := 2 }, sK, tReady_sK (by decide +kernel), tReady_sK (by decide +kernel)⟩

/-! ### Events of contexts -/

/-- Context 0 BLOCKED for a reason. -/
def sWait (why : BlockWhy) (f : Ctx → Ctx := id) : State :=
  State.reset.modCtx 0 fun c => f { c with state := .blocked, why := why }

theorem witness_waitOver : ∃ (x : Nat) (s : State), (s.ctx x).state = .blocked ∧ WaitOver s x ∧ plainWait (s.ctx x).why :=
  ⟨0, sWait .task fun c => { c with given := some 0x40 }, by decide,
   (by decide : ((sWait .task fun c => { c with given := some 0x40 }).ctx 0).given ≠ none), .inr (.inr (.inr (.inl rfl)))⟩

theorem witness_waitNotOver : ∃ (x : Nat) (s : State), (s.ctx x).state = .blocked ∧ plainWait (s.ctx x).why ∧ ¬ WaitOver s x :=
  ⟨0, sWait .task, by decide, .inr (.inr (.inr (.inl rfl))), (by decide : ¬ ((sWait .task).ctx 0).given ≠ none)⟩

/-- A BWAIT whose phase has completed. -/
def sBwait : State := (sWait (.barrier 0x3000 4)).write (scratchBase 0 + 0x3000) (toBytes 8 1 ++ toBytes 8 0 ++ toBytes 4 5 ++ [0, 0])

theorem witness_barrierWait : ∃ (x : Nat) (s : State), (s.ctx x).state = .blocked ∧ WaitOver s x ∧ (s.ctx x).why = .barrier 0x3000 4 :=
  ⟨0, sBwait, by decide +kernel,
   (⟨scratchBase 0 + 0x3000, resolved_local (by decide +kernel) (by decide +kernel), sound_of (by decide +kernel), 1, by decide, by decide,
     by decide +kernel⟩ : ∃ pa, Resolved (sBwait.select 0) (sBwait.reqOf 0 0 0) accRead (0x3000 + 16) (pa + 16) ∧
       Sound sBwait (pa + 16) 8 ∧ Passed (sBwait.bar pa) 4), by decide +kernel⟩

def gateEnt (id time : Nat) (ws : List (Word64 × List Byte)) : GateEnt :=
  { id := id, src := 0, cls := 0, writes := ws, poison := [], hst := none, ready := true, time := time }

/-- Context 0 with two stores gated, the first at time 0, and an X command held, at time 1,024. -/
def sGate : State :=
  { (State.reset.modCtx 0 fun c => { c with
      state := .running, pc := 0x100, slot := 4, vSince := [3]
      gate := [gateEnt 1 0 [(0x2000, [1, 2, 3, 4])], gateEnt 2 9 [(0x2002, [9]), (0x3000, [8])]]
      heldX := [{ seq := 0, x := 0, pc := 0, slot := 4, op := .xscale 3 8, port := none }] }) with time := 1024, nextId := 3 }

theorem witness_gateTimeout : ∃ (x : Nat) (s : State) (g : GateEnt), ((s.ctx x).state = .running ∨ (s.ctx x).state = .ready) ∧
    (s.ctx x).gate.head? = some g ∧ g.time + 1024 ≤ s.time ∧ (∀ c ∈ (s.core (coreOf x)).fq, c.x ≠ x) ∧
    GateLocal (s.ctx x) :=
  ⟨0, sGate, gateEnt 1 0 [(0x2000, [1, 2, 3, 4])], .inl (by decide +kernel), by decide +kernel, by decide +kernel, by decide +kernel,
   by unfold GateLocal; decide +kernel⟩

def arrival (tok : Nat) (isV : Bool) (reg : Nat) (poison : Bool) : Arrival :=
  { tok := tok, isV := isV, reg := reg, val := 0x1122334455667788, poison := poison, pc := 0x80, slot := 2, va := 0x800000, src := 0, cls := 0 }

/-- Values on their way to s5, v9 and s6, the last of which is poisoned and no longer awaited; the context stands past its mark. -/
def sArr : State :=
  State.reset.modCtx 0 fun c => { c with
    state := .running, pc := 0x100, slot := 4, j := 0, tokNext := 8
    arrivals := [arrival 3 false 5 false, arrival 4 true 9 false, arrival 5 false 6 true]
    mark := { c.mark with pc := 0x80, slot := 2, tok := 4 }
    live := { c.live with s := [(1, 7)], sWait := [(5, 3), (6, 7)], vWait := [(9, 4)] } }

theorem witness_loadArrival : ∃ (x tok tov : Nat) (s : State) (a v : Arrival), (s.ctx x).arrivals.find? (·.tok == tok) = some a ∧
    a.isV = false ∧ fget? (s.ctx x).live.sWait a.reg = some tok ∧ (s.ctx x).arrivals.find? (·.tok == tov) = some v ∧ v.isV = true ∧
    fget? (s.ctx x).live.vWait v.reg = some tov :=
  ⟨0, 3, 4, sArr, arrival 3 false 5 false, arrival 4 true 9 false, by decide +kernel, rfl, by decide +kernel, by decide +kernel, rfl,
   by decide +kernel⟩

theorem witness_accessRefusal : ∃ (x tok reason : Nat) (s : State) (a : Arrival),
    (s.ctx x).arrivals.find? (fun b => b.tok == tok && (s.ctx x).mark.tok ≤ b.tok) = some a ∧ 1 ≤ reason ∧ reason ≤ 8 ∧
    (s.ctx x).heldX = [] :=
  ⟨0, 4, 3, sArr, arrival 4 true 9 false, by decide +kernel, by decide, by decide, by decide +kernel⟩

/-- Context 0 DRAINING with a deferred trap, and a trap vector. -/
def sDrain : State :=
  State.reset.modCtx 0 fun c => { c with
    state := .draining, pc := 0x100, slot := 3, ctl := { c.ctl with tv := 0x200 }
    deferred := [{ cause := 12, info := 0x80, slot := 2, tok := 0 }, { cause := 7, info := 1, slot := 3, tok := 0 }]
    live := { c.live with sw := 0x1F00, armed := [(4, { op := .xscale { sk := true, a := 3, wa := false }, next := 1 })] } }

theorem still_of {s : State} {x : Nat} (h : ((s.ctx x).gate.isEmpty && (s.ctx x).heldX.isEmpty &&
    (s.core (coreOf x)).fq.all fun c => decide (c.x ≠ x)) = true) : Still s x := by
  simp only [Bool.and_eq_true, List.isEmpty_iff, List.all_eq_true, decide_eq_true_eq] at h
  exact ⟨h.1.1, h.1.2, h.2⟩

theorem witness_drainTrap : ∃ (x : Nat) (s : State) (d : Deferred) (ds : List Deferred), (s.ctx x).state = .draining ∧
    (s.ctx x).handler = false ∧ (s.ctx x).deferred = d :: ds ∧ (s.ctx x).ctl.tv ≠ 0 ∧ (s.ctx x).slot ≤ 9 ∧ Still s x :=
  ⟨0, sDrain, _, _, by decide, by decide, rfl, by decide, by decide, still_of (by decide)⟩

/-- Context 0 about to issue the bundle at 0x100 of its scratchpad, one S operation that repeats 3 times, at its issue 0, with a
deferred trap. -/
def sTrapNext : State :=
  (((State.reset.modCtx 0 fun c => { c with
      state := .running, pc := 0x100, slot := 0, ctl := { c.ctl with tv := 0x200 }
      deferred := [{ cause := 12, info := 0x80, slot := 2, tok := 0 }] }).modCore 0 fun k => { k with issuing := 0 })).write (scratchBase 0 + 0x100)
    (toBytes 4 (0xF8000000 + 3 * 2 ^ 15) ++ toBytes 4 0x00104104)

theorem witness_trapBeforeIssue : ∃ (x : Nat) (s u : State) (b : Bundle) (d : Deferred) (ds : List Deferred), s.issues x = true ∧
    (s.ctx x).handler = false ∧ (s.ctx x).deferred = d :: ds ∧ (s.ctx x).slot = 0 ∧ (s.ctx x).ended = false ∧ (s.ctx x).ctl.tv ≠ 0 ∧
    fetchBundle x (s.ctx x).pc (s.ctx x).jumped (s.select x) = .ok b u ∧ u.ctx x = s.ctx x ∧ u.cur.x = x ∧ u.cur.atEnd = none ∧ Still u x := by
  have h : (match fetchBundle 0 (sTrapNext.ctx 0).pc (sTrapNext.ctx 0).jumped (sTrapNext.select 0) with
    | .ok _ u => decide (u.ctx 0 = sTrapNext.ctx 0) && decide (u.cur.x = 0) && u.cur.atEnd.isNone && (u.ctx 0).gate.isEmpty &&
        (u.ctx 0).heldX.isEmpty && (u.core 0).fq.all fun c => decide (c.x ≠ 0)
    | .error _ _ => false) = true := by decide +kernel
  match hf : fetchBundle 0 (sTrapNext.ctx 0).pc (sTrapNext.ctx 0).jumped (sTrapNext.select 0) with
  | .ok b u =>
    rw [hf] at h
    simp only [Bool.and_eq_true, decide_eq_true_eq, Option.isNone_iff_eq_none] at h
    exact ⟨0, sTrapNext, u, b, _, _, by decide +kernel, by decide +kernel, rfl, by decide +kernel, by decide +kernel, by decide +kernel, hf,
      h.1.1.1.1.1, h.1.1.1.1.2, h.1.1.1.2, still_of (by simp only [Bool.and_eq_true]; exact ⟨⟨h.1.1.2, h.1.2⟩, h.2⟩)⟩
  | .error _ u => rw [hf] at h; exact Bool.noConfusion h

/-- The heartbeat period of core 0 has passed, for the first time and for the second; its context 1 runs. -/
def sBeat (miss : Nat) : State :=
  (State.reset.modCore 0 fun k => { k with hbp := 100, hbTimer := 100, hbMiss := miss }).modCtx 1 fun c => { c with
    state := .running, pc := 0x80 }

theorem witness_heartbeat : ∃ (k : Nat) (s t : State), (s.core k).hbp ≠ 0 ∧ (s.core k).hbp.toNat ≤ (s.core k).hbTimer ∧
    (s.core k).hbMiss = 0 ∧ (t.core k).hbp ≠ 0 ∧ (t.core k).hbp.toNat ≤ (t.core k).hbTimer ∧ (t.core k).hbMiss = 1 ∧
    (∀ i, i < 4 → (t.ctx (4 * k + i)).heldX = []) ∧ ∀ i, i < 4 → t.tasksOf (4 * k + i) = [] :=
  ⟨0, sBeat 0, sBeat 1, by decide, by decide, by decide, by decide, by decide, by decide, by decide, by decide⟩

theorem mapped_held {s : State} {rq : Req} {acc : Nat} {va : Word64} {pa : Nat} (h : heldAt s rq acc va pa = true) :
    Mapped s rq acc va pa :=
  fun _ ht => translate_held h ht

/-- The heartbeat of the core whose context 0 runs the task of `sDone` has passed a second time. -/
def sBeatTask : State := sDone.modCore 0 fun k => { k with hbp := 100, hbTimer := 100, hbMiss := 1 }

theorem domain_region1 {s : State} (h : s.region? 1 = some region1) : domainTask s 1 := fun g hg => by
  rw [h] at hg
  cases hg
  rfl

/-- So does a completion that the scheduler runs. -/
theorem completes_mapped {s : State} (h : doneB s = true) {t : TaskRec} (ht : s.taskAt 5 0x800040 = some t ∧ t.asid = 5 ∧ t.va = 0x800040) :
    Completes (Mapped s (schedReq 5 0)) s t 0x40040 vaultBase (fun i => 0x40080 + 8 * i) :=
  completes_done (fun _ _ _ => mapped_held) h ht

theorem witness_heartbeatTask : ∃ (k n : Nat) (s : State) (e : TaskRec) (pa pb : Nat) (ps : Nat → Nat), (s.core k).hbp ≠ 0 ∧
    (s.core k).hbp.toNat ≤ (s.core k).hbTimer ∧ (s.core k).hbMiss = 1 ∧ (∀ i, i < 4 → (s.ctx (4 * k + i)).heldX = []) ∧ n < 4 ∧
    s.tasksOf (4 * k + n) = [e] ∧ (s.ctx (4 * k + n)).state ∉ [.idle, .halted] ∧
    (∀ i, i < 4 → i ≠ n → s.tasksOf (4 * k + i) = []) ∧ Completes (Mapped s (schedReq e.asid e.die)) s e pa pb ps ∧
    domainTask s e.region :=
  ⟨0, 0, sBeatTask, task1, 0x40040, vaultBase, fun i => 0x40080 + 8 * i, by decide +kernel, by decide +kernel, by decide +kernel,
   by decide +kernel, by decide, by decide +kernel, by decide +kernel, by decide +kernel, completes_mapped (by decide +kernel) (by decide +kernel),
   domain_region1 (by decide +kernel)⟩

/-- Context 0 DRAINING, with a bank, a counter set, a ring and a grant; and its entry task, whose record stands at 0x40000. -/
def ownsAll (k : Core) : Core :=
  { k with banks := [(3, { Bank.free with owned := true, cells := [(2, 5)] }), (4, { Bank.free with owned := true, owner := 1, grants := 3 })]
           csets := [(1, { CSet.free with owned := true, fmt := 1, depth := 100 })]
           rings := [(0, { g := 0, owner := 0, base := 0x8000, size := 0x4000, head := 0, tail := 0, fill := 0 }),
             (1, { g := 1, owner := 1, base := 0x8000, size := 0x4000, head := 0, tail := 0, fill := 0 })]
           ringOf := [(0, 0), (1, 1)] }
def sRetire : State :=
  (State.reset.modCore 0 ownsAll).modCtx 0 fun c => { c with
    state := .draining, pc := 0x100, region := 1
    live := { c.live with s := [(1, 7)], f := [(3, { Stream.closed with state := 1 })] }, tree := { c.tree with nodes := 9 } }
def entryTask : TaskRec :=
  { id := 2, asid := 5, va := 0x800000, die := 0, region := 1, home := 1, data := false, seif := 1, pri := 3, height := 0
    state := .running 0, status := 0 }
def sRetireTask : State :=
  { ((mapped 5 sRetire).write 0x40000 (toBytes 8 0x100 ++ toBytes 8 0x900000 ++ toBytes 8 0)).write 0x40028
      (toBytes 4 0 ++ [3] ++ toBytes 3 0 ++ toBytes 8 0) with tasks := [entryTask], regions := [region1], nextId := 3 }

theorem drained_of {s : State} {x : Nat} (h : (s.ctx x).state = .draining ∧ (s.ctx x).arrivals = [] ∧ (s.ctx x).heldX = [] ∧
    (s.core (coreOf x)).mq ++ (s.core (coreOf x)).mrun.toList = [] ∧ (s.core (coreOf x)).tq = [] ∧ (s.core (coreOf x)).fq = [] ∧
    (s.core (coreOf x)).copies = [] ∧ (s.ctx x).deferred = []) : Drained s x :=
  let ⟨hd, ha, hh, hm, ht, hf, hc, hq⟩ := h
  ⟨hd, ha, hh, ofNone hm, ofNone ht, ofNone hf, ofNone hc, .inr hq⟩

theorem recordAt_of {s : State} {asid die : Nat} {va : Word64} {pa : Nat} (hr : heldAt s (schedReq asid die) accRead va pa = true)
    (hw : heldAt s (schedReq asid die) accWrite va pa = true)
    (h : (s.poison.isEmpty && s.soft.isEmpty) = true ∧ s.msgs = [] ∧ ∀ i, i < 64 → ∀ j, j < 64 → dirtyByte s (pa + i) ≠ pa + j) :
    RecordAt s asid die va pa :=
  ⟨mapped_held hr, mapped_held hw, sound_of h.1, h.2.2, ofNone h.2.1⟩

theorem witness_retire : ∃ (x : Nat) (s : State), Drained s x ∧ s.seifOf x = none ∧ (∀ e ∈ s.tasksOf x, e.data = true) ∧
    ((s.core (coreOf x)).bank 3).owned = true ∧ ((s.core (coreOf x)).bank 3).owner = x % 4 :=
  ⟨0, sRetire, drained_of (by decide), by decide, by decide, by decide, by decide⟩

/-- And with the task of `sDone`, not a data task now. -/
def sRetireDone : State :=
  { sDone with tasks := [{ task1 with data := false }] } |>.modCtx 0 fun c => { c with state := .draining }

theorem witness_retireTask : ∃ (x : Nat) (s : State) (e : TaskRec) (pa pb : Nat) (ps : Nat → Nat), Drained s x ∧ s.seifOf x = none ∧
    (s.tasksOf x).filter (fun e => !e.data) = [e] ∧ e.state = .running x ∧ Completes (Mapped s (schedReq e.asid e.die)) s e pa pb ps ∧
    doneBar s pa ≠ 0 ∧ succCount s pa = 2 :=
  ⟨0, sRetireDone, { task1 with data := false }, 0x40040, vaultBase, fun i => 0x40080 + 8 * i, drained_of (by decide +kernel),
   by decide +kernel, by decide +kernel, rfl, completes_mapped (by decide +kernel) (by decide +kernel), by decide +kernel, by decide +kernel⟩

/-! ### Task and barrier events -/

/-- Region 1 on core 0, whose record 0x800000 at 0x40000 names PC = 0x100, ARG = 7, RCB, HEIGHT and PRI; DEP is 1, and there is no
successor and no barrier. -/
def record (f : TaskRec → TaskRec) (dep : Nat) : State :=
  let e := f { entryTask with state := .ready, id := 2 }
  { (mapped 5 (State.reset.modCore 0 fun k => { k with region := 1 })) with
    mem := cellsOf 0 [(0x40000, toBytes 8 0x100 ++ toBytes 8 7 ++ toBytes 8 0x900000 ++ toBytes 4 dep), (0x4002F, [1])]
    tasks := [e], regions := [region1], nextId := 5 }

theorem nextRecord_one {s : State} {d : Nat} {e : TaskRec} {r : Region} (ht : s.tasks = [e]) (hs : e.state = .ready) (hd : e.die = d)
    (hr : s.taskAt e.asid e.va = some e) (hg : s.region? e.region = some r)
    (hq : (r.state = .admitted ∨ r.state = .swapped) ∧ r.stopping = false ∧ r.halting = false) : NextRecord s d e r :=
  ⟨⟨ht ▸ List.mem_singleton_self e, hs, hd⟩, hr, fun _ hu _ _ hn => absurd (List.mem_singleton.1 (ht ▸ hu)) hn, hg, hq⟩

theorem lowest_zero {p : Nat → Prop} (h : p 0) : Lowest p 0 := ⟨h, fun y hy => absurd hy (Nat.not_lt_zero y)⟩

def sEntry : State := record id 0
def eEntry : TaskRec := { entryTask with state := .ready }

theorem witness_dispatch : ∃ (d x pa : Nat) (s : State) (e : TaskRec) (r : Region), NextRecord s d e r ∧
    (∀ u ∈ s.tasks, u.id = e.id → u = e) ∧ RecordAt s e.asid d e.va pa ∧ e.data = false ∧ e.seif = 1 ∧ s.ctxCount r.id < r.contexts ∧
    Lowest (fun y => Resident s r y ∧ (s.ctx y).state = .idle) x :=
  ⟨0, 0, 0x40000, sEntry, eEntry, region1, nextRecord_one rfl rfl rfl rfl (by decide +kernel) (by decide), by decide +kernel,
   recordAt_of (by decide +kernel) (by decide +kernel) (by decide +kernel), rfl, rfl, by decide +kernel,
   lowest_zero ⟨⟨by decide, by decide, by decide +kernel, by decide +kernel⟩, by decide +kernel⟩⟩

/-- A data task, and context 0 BLOCKED in TKGET. -/
def sData : State :=
  (record (fun e => { e with data := true }) 0).modCtx 0 fun c => { c with state := .blocked, why := .task, region := 1 }

theorem witness_dispatchData : ∃ (d x pa : Nat) (s : State) (e : TaskRec) (r : Region), NextRecord s d e r ∧
    (∀ u ∈ s.tasks, u.id = e.id → u = e) ∧ RecordAt s e.asid d e.va pa ∧ e.data = true ∧
    Lowest (fun y => Resident s r y ∧ (s.ctx y).region = r.id ∧ (s.ctx y).state = .blocked ∧ (s.ctx y).why = .task ∧
        (s.ctx y).given = none) x :=
  ⟨0, 0, 0x40000, sData, { eEntry with data := true }, region1, nextRecord_one rfl rfl rfl rfl (by decide +kernel) (by decide), by decide +kernel,
   recordAt_of (by decide +kernel) (by decide +kernel) (by decide +kernel), rfl,
   lowest_zero ⟨⟨by decide, by decide, by decide +kernel, by decide +kernel⟩, by decide +kernel, by decide +kernel, by decide +kernel,
     by decide +kernel⟩⟩

/-- A message of a kind to the record, which is WAITING. -/
def schedMsg (op : SchedOp) : SchedMsg := { id := 3, die := 0, asid := 5, record := 0x800000, op := op, held := false }
def eWait : TaskRec := { entryTask with state := .waiting }
def sMsg (op : SchedOp) (dep : Nat) : State :=
  { record (fun e => { e with state := .waiting }) dep with msgs := [schedMsg op] }
/-- And to a record that nothing has posted. -/
def sMsgNew (op : SchedOp) (dep : Nat) : State := { sMsg op dep with tasks := [] }

theorem record_unheld {s : State} {asid die : Nat} {va : Word64} {pa : Nat} (h1 : heldAt s (schedReq asid die) accRead va pa = true)
    (h2 : heldAt s (schedReq asid die) accWrite va pa = true)
    (h3 : (s.poison.isEmpty && s.soft.isEmpty && (s.msgs.all fun m => !m.held) && (List.range 64).all fun i => (List.range 64).all fun j =>
      decide (dirtyByte s (pa + i) ≠ pa + j)) = true) : RecordAt s asid die va pa := by
  simp only [Bool.and_eq_true, Bool.not_eq_true', List.isEmpty_iff, List.all_eq_true, List.mem_range, decide_eq_true_eq] at h3
  obtain ⟨⟨⟨h4, h5⟩, h6⟩, h7⟩ := h3
  refine ⟨mapped_held h1, mapped_held h2, sound_of (by rw [h4, h5]; rfl), fun i hi j hj => h7 i hi j hj, fun m hm hh => ?_⟩
  rw [h6 m hm] at hh
  exact Bool.noConfusion hh.1

theorem waits_sMsg {op : SchedOp} {dep : Nat} : Waits (sMsg op dep) (schedMsg op) eWait :=
  ⟨rfl, rfl, rfl, rfl, fun _ hu _ => List.mem_singleton.1 hu⟩

theorem witness_decrement : ∃ (n pa sender : Nat) (s t u : State) (m : SchedMsg) (e : TaskRec), Message s n (.decrement sender) m pa ∧
    field s pa 0x18 4 = 1 ∧ Waits s m e ∧ Message t n (.decrement sender) m pa ∧ field t pa 0x18 4 = 2 ∧ Waits t m e ∧
    Message u n (.decrement sender) m pa ∧ 1 ≤ field u pa 0x18 4 ∧ u.taskAt m.asid m.record = none ∧ field u pa 0x2C 1 = 0 :=
  ⟨3, 0x40000, 6, sMsg (.decrement 6) 1, sMsg (.decrement 6) 2, sMsgNew (.decrement 6) 2, schedMsg (.decrement 6), eWait,
   ⟨by decide +kernel, rfl, record_unheld (by decide +kernel) (by decide +kernel) (by decide +kernel)⟩, by decide +kernel, waits_sMsg,
   ⟨by decide +kernel, rfl, record_unheld (by decide +kernel) (by decide +kernel) (by decide +kernel)⟩, by decide +kernel, waits_sMsg,
   ⟨by decide +kernel, rfl, record_unheld (by decide +kernel) (by decide +kernel) (by decide +kernel)⟩, by decide +kernel, by decide +kernel,
   by decide +kernel⟩

/-- The record of `sDone` waits, and a cancellation from die 6 is on its way to it. -/
def cancelMsg : SchedMsg := { id := 2, die := 0, asid := 5, record := 0x800040, op := .cancel 6, held := false }
def taskWait : TaskRec := { task1 with state := .waiting }
def sCancel : State := { sDone with tasks := [taskWait], msgs := [cancelMsg] }

theorem witness_cancellation : ∃ (n pa sender pb : Nat) (ps : Nat → Nat) (s : State) (m : SchedMsg) (e : TaskRec),
    Message s n (.cancel sender) m pa ∧ Waits s m e ∧ e.die = m.die ∧ Completes (Mapped s (schedReq e.asid e.die)) s e pa pb ps ∧
    doneBar s pa ≠ 0 ∧ succCount s pa = 2 :=
  ⟨2, 0x40040, 6, vaultBase, fun i => 0x40080 + 8 * i, sCancel, cancelMsg, taskWait,
   ⟨by decide +kernel, rfl, record_unheld (by decide +kernel) (by decide +kernel) (by decide +kernel)⟩,
   ⟨by decide +kernel, rfl, rfl, rfl, fun _ hu _ => List.mem_singleton.1 hu⟩, rfl,
   completes_mapped (by decide +kernel) (by decide +kernel), by decide +kernel, by decide +kernel⟩

theorem witness_cancellationNew : ∃ (n pa sender : Nat) (s : State) (m : SchedMsg), Message s n (.cancel sender) m pa ∧
    s.taskAt m.asid m.record = none ∧ field s pa 0x2C 1 = 0 :=
  ⟨3, 0x40000, 6, sMsgNew (.cancel 6) 1, schedMsg (.cancel 6),
   ⟨by decide +kernel, rfl, record_unheld (by decide +kernel) (by decide +kernel) (by decide +kernel)⟩, by decide +kernel,
   by decide +kernel⟩

theorem witness_barrierHome : ∃ (pa pb : Nat) (s : State), BarrierHome s pa ∧ inVault (offOf pa) = true ∧ BarrierHome s pb ∧
    inWindow (offOf pb) = true :=
  ⟨vaultBase, scratchBase 3 + 0x3000, State.reset,
   ⟨by decide +kernel, by decide +kernel, by decide +kernel, by decide +kernel, sound_of (by decide +kernel), .inl (by decide +kernel)⟩,
   by decide +kernel,
   ⟨by decide +kernel, by decide +kernel, by decide +kernel, by decide +kernel, sound_of (by decide +kernel), .inr ⟨by decide +kernel, by decide +kernel, by decide +kernel⟩⟩, by decide +kernel⟩

/-! ### Region events and commands -/

/-- READY, with die 0 powered; a region with its RCB at 0x40100, in HBM. -/
def ready (s : State) (l : List (Nat × Word64) := []) : State := { s with regs := (0x3000, 0x40) :: (0x4100, 1) :: l }
def regionAt (st : RegState) (place : List Nat) : Region :=
  { region1 with state := st, place := place, rcb := 0x800100, cores := max 1 place.length }

theorem sole_one {s : State} {r : Region} (h : s.regions = [r]) : Sole s r := by
  refine ⟨?_, fun u hu _ => ?_⟩
  · simp only [State.region?, h, List.find?, beq_self_eq_true]
  · rw [h] at hu
    exact List.mem_singleton.1 hu

theorem rcbAt_of {s : State} {r : Region} {pa : Nat} (h : heldAt s (schedReq r.rcbAsid 0) accWrite r.rcb pa = true)
    (hd : dirtyByte s (pa + 0x0C) ≠ pa + 0x0C) : RcbAt s r pa := ⟨mapped_held h, hd⟩

/-- Region 1 waits for two cores. -/
def rWait : Region := { regionAt .waiting [] with cores := 2 }
def sAdmit : State := { ready (mapped 5 State.reset) with regions := [rWait], nextId := 4 }

theorem witness_admit : ∃ (s : State) (w : Region) (pa : Nat), FirstWaiting s w ∧ s.fits w = true ∧ RcbAt s w pa ∧
    ∀ q ∈ s.queue, q.region = some w.id → q.op = 1 → q.ntask = 0 := by
  refine ⟨sAdmit, rWait, 0x40100, ⟨⟨List.mem_singleton_self _, rfl⟩, fun u hu _ hn => ?_, sole_one rfl⟩, by decide +kernel,
    rcbAt_of (by decide +kernel) (by decide +kernel), fun q hq => absurd hq List.not_mem_nil⟩
  exact absurd (List.mem_singleton.1 hu) hn

/-- Region 1 is resident on core 0 and halts; context 0 runs. -/
def sHalt : State :=
  { ready ((mapped 5 State.reset).modCtx 0 fun c => { c with state := .running, pc := 0x100, region := 1 }) with
    cores := [(0, { Core.init with region := 1, banks := [(3, { Bank.free with owned := true, cells := [(2, 5)] })] })]
    regions := [{ regionAt .admitted [0] with halting := true }], nextId := 4 }

theorem core_one {s : State} {c : Core} (h : s.cores = [(0, c)]) {k : Nat} (hk : k ≠ 0) : s.core k = Core.init := by
  simp only [State.core, h, fget, if_neg hk]

theorem part_one {s : State} {c : Core} {d k : Nat} (h : s.cores = [(0, c)]) (hp : Part s 1 d k) : k = 0 := by
  by_cases hk : k = 0
  · exact hk
  · have h1 := hp.2
    rw [core_one h hk] at h1
    exact absurd h1 (by decide)

theorem witness_preempt : ∃ (r d : Nat) (s : State) (g : Region), s.region? r = some g ∧ s.mayPreempt g d = true ∧
    (∃ k, Part s r d k) ∧ ∀ x, Part s r d (coreOf x) → Still s x := by
  refine ⟨1, 0, sHalt, _, rfl, rfl, ⟨0, by decide, by decide +kernel⟩, fun x hp => ?_⟩
  have h0 := part_one rfl hp
  have hx : x < 4 := by unfold coreOf at h0; omega
  match x, hx with
  | 0, _ => exact still_of (by decide +kernel)
  | 1, _ => exact still_of (by decide +kernel)
  | 2, _ => exact still_of (by decide +kernel)
  | 3, _ => exact still_of (by decide +kernel)

/-- The core has halted; the partition goes to hardpan, its region SWAPPED, or HELD where a command halts it. -/
def sOut (halting : Bool) : State :=
  { sHalt with
    cores := [(0, { Core.init with region := 1, halting := true })]
    mem := [(scratchBase 0 + 5, 7)]
    regions := [{ regionAt .admitted [0] with halting := halting }] }

theorem spill_one {s : State} {c : Core} (h : s.cores = [(0, c)]) (hs : s.regN (rSPILL 0) = 0) :
    ∀ a, spillArea s (Part s 1 0) a → inHbm (offOf a) = true := by
  intro a ⟨k, o, hp, ho, ha⟩
  obtain rfl := part_one h hp
  rw [show 0 / 24 = 0 from rfl, hs] at ha
  subst ha
  unfold inHbm offOf physOf
  simp only [decide_eq_true_eq]
  omega

theorem atHalt_of {s : State} (h : (s.core 0).halting = true ∧ (s.core 0).mrun = none ∧ (s.core 0).fq = [] ∧ fget? s.hard 0 = none ∧
    (∀ i, i < 4 → (s.ctx i).arrivals = [] ∧ (s.ctx i).ports.length ≤ 7 ∧ (s.ctx i).portsH.length ≤ 7) ∧
    ∀ p ∈ HardSlot.parts { core := s.core 0, ctxs := (List.range 4).map fun i => (i, s.ctx (4 * 0 + i)) },
      0x300000 ≤ p.1 ∧ p.1 + p.2.length ≤ 0x400000) : AtHalt s 0 := by
  have hx : ∀ i, 4 * 0 + i = i := fun i => by omega
  let ⟨hh, hm, hf, hs, hc, hp⟩ := h
  exact ⟨hh, ⟨hm, hf⟩, hs, fun i hi => ofNone (by rw [hx]; exact (hc i hi).1), hp, fun i hi => by rw [hx]; exact (hc i hi).2⟩

/-- What a swap-out of region 1 from die 0 asks. -/
def Outgoing (s : State) (g : Region) (pa : Nat) : Prop :=
  Safety.Inv s ∧ Sole s g ∧ (∃ k, Part s g.id 0 k) ∧ RcbAt s g pa ∧ s.arrayErr = [] ∧
    (∀ k, Part s g.id 0 k → AtHalt s k ∧ k ∈ g.place ∧ s.descends s.regions.length (s.goesTo g k) g.id = false) ∧
    (∀ a, spillArea s (Part s g.id 0) a → inHbm (offOf a) = true) ∧
    ∀ u ∈ s.regions, u.id ≠ g.id → u.state = .admitted →
      (s.keeps u).length = u.place.length ∧ ∀ k ∈ u.place, ¬ Part s g.id 0 k

theorem outgoing_sOut (halting : Bool) : Outgoing (sOut halting) { regionAt .admitted [0] with halting := halting } 0x40100 := by
  have hh : AtHalt (sOut halting) 0 ∧ (sOut halting).descends (sOut halting).regions.length
      ((sOut halting).goesTo { regionAt .admitted [0] with halting := halting } 0) 1 = false := by
    cases halting <;> exact ⟨atHalt_of (by decide +kernel), by decide +kernel⟩
  refine ⟨by cases halting <;> (unfold Safety.Inv; decide +kernel), sole_one rfl, ⟨0, by decide, rfl⟩,
    rcbAt_of (by cases halting <;> decide +kernel) (by cases halting <;> decide +kernel), rfl, fun k hp => ?_,
    spill_one rfl (by cases halting <;> decide +kernel), fun u hu hn => absurd ?_ hn⟩
  · obtain rfl := part_one rfl hp
    exact ⟨hh.1, List.mem_singleton_self _, hh.2⟩
  · rw [List.mem_singleton.1 hu]

theorem witness_swapOut : ∃ (pa : Nat) (s t : State) (g u : Region), Outgoing s g pa ∧ g.halting = false ∧ g.state = .admitted ∧
    Outgoing t u pa ∧ u.halting = true ∧ ∀ k ∈ t.keeps u, Part t u.id 0 k := by
  refine ⟨0x40100, sOut false, sOut true, _, _, outgoing_sOut false, rfl, rfl, outgoing_sOut true, rfl, fun k hk => ?_⟩
  obtain rfl : k = 0 := List.mem_singleton.1 (List.mem_filter.1 hk).1
  exact ⟨rfl, rfl⟩

/-- And in hardpan; context 0 is READY. -/
def slot1 (c : Ctx) : HardSlot := { core := { Core.init with region := 1 }, ctxs := [(0, c), (1, Ctx.init), (2, Ctx.init), (3, Ctx.init)] }
def sHard (st : RegState) (c : Ctx) : State :=
  { ready (mapped 5 State.reset) with
    hard := [(0, slot1 c)], mem := [(hardPhys 0 5, 7)], regions := [regionAt st [0]], nextId := 4 }
def stoppedCtx : Ctx := { Ctx.init with state := .ready, pc := 0x100, region := 1, stopped := true }

theorem hard_one {s : State} {h e : HardSlot} {k : Nat} (hs : s.hard = [(0, h)]) (hk : fget? s.hard k = some e) : k = 0 ∧ e = h := by
  rw [hs] at hk
  by_cases h0 : k = 0
  · rw [h0] at hk
    exact ⟨h0, (Option.some.inj hk).symm⟩
  · rw [fget?, if_neg h0] at hk
    exact absurd hk (by simp)

/-- What a swap-in of region 1 on die 0 asks. -/
def Incoming (s : State) (g : Region) (pa : Nat) : Prop :=
  Safety.Inv s ∧ Sole s g ∧ RcbAt s g pa ∧ s.resumable g 0 = true ∧ g.place.Nodup ∧
    (∀ k ∈ g.place, k < 216 ∧ (k / 24 ≠ 0 → k ∈ s.keeps g)) ∧ ∀ k h, fget? s.hard k = some h → h.ctxs.map (·.1) = [0, 1, 2, 3]

/-- The core has its state in hardpan, or has none. -/
theorem witness_swapIn : ∃ (pa : Nat) (s t : State) (g : Region), Incoming s g pa ∧ 0 ∈ s.lostCores g 0 ∧
    (∃ h, fget? s.hard 0 = some h ∧ h.core.region = g.id) ∧ Incoming t g pa ∧ 0 ∈ t.lostCores g 0 ∧ t.hard = [] := by
  refine ⟨0x40100, sHard .swapped stoppedCtx, { sHard .swapped stoppedCtx with hard := [] }, regionAt .swapped [0], ?_, by decide +kernel,
    ⟨_, rfl, rfl⟩, ?_, by decide +kernel, rfl⟩
  · refine ⟨by unfold Safety.Inv; decide +kernel, sole_one rfl, rcbAt_of (by decide +kernel) (by decide +kernel), by decide +kernel,
      by decide, by decide +kernel, fun k h hk => ?_⟩
    rw [(hard_one rfl hk).2]
    rfl
  · exact ⟨by unfold Safety.Inv; decide +kernel, sole_one rfl, rcbAt_of (by decide +kernel) (by decide +kernel), by decide +kernel,
      by decide, by decide +kernel, fun k h hk => absurd hk (by simp [fget?])⟩

/-! Region commands: REGCMD idle, REGRCB and REGARG naming region 1. -/

def commandRegs : List (Nat × Word64) := [(0x2700, 0x800100), (0x2708, 5), (0x2710, 0x1000000)]

theorem commanded_of {s : State} {r : Region} (h : s.regions = [r]) (hc : bitAt (s.regN rREGCMD) 8 = false ∧ s.bootState = 4 ∧
    r.rcb = s.reg rREGRCB ∧ r.rcbAsid = s.regF rREGARG 11 0 ∧ r.state ≠ .released ∧ r.halting = false ∧ r.stopping = false) :
    Commanded s r := by
  have only : ∀ u ∈ s.regions, u = r := fun u hu => List.mem_singleton.1 (h ▸ hu)
  let ⟨hi, hb, hr, ha, hn, hq⟩ := hc
  exact ⟨hi, hb, ⟨h ▸ List.mem_singleton_self r, hr, ha, hn⟩, sole_one h, fun u hu _ _ _ => only u hu, fun u hu => only u hu ▸ hq⟩

theorem alone1_of {s : State} {r : Region} {p : RegState → Prop} (h : s.regions = [r]) : Alone1 s r p := by
  intro u hu _
  rw [h] at hu
  exact List.mem_singleton.1 hu

/-- Region 1 admitted on core 0, context 0 running. -/
def sLive : State := { sHalt with regs := (0x3000, 0x40) :: (0x4100, 1) :: commandRegs, regions := [regionAt .admitted [0]] }

theorem witness_suspend : ∃ (s : State) (r : Region) (y : Nat), Commanded s r ∧ liveState r.state ∧ Alone1 s r liveState ∧
    (∀ x, (s.core (coreOf x)).region = r.id → Still s x) ∧ (∃ k, k < 216 ∧ (s.core k).region = r.id) ∧ Unstopped s r y := by
  refine ⟨sLive, _, 0, commanded_of rfl (by decide +kernel), .inl rfl, alone1_of rfl, fun x hp => ?_, ⟨0, by decide, rfl⟩,
    List.mem_singleton_self _, rfl, .inl rfl, rfl⟩
  have h0 := part_one (d := coreOf x / 24) rfl ⟨rfl, hp⟩
  have hx : x < 4 := by unfold coreOf at h0; omega
  match x, hx with
  | 0, _ => exact still_of (by decide +kernel)
  | 1, _ => exact still_of (by decide +kernel)
  | 2, _ => exact still_of (by decide +kernel)
  | 3, _ => exact still_of (by decide +kernel)

/-- And on no core. -/
def sAway : State := { sLive with cores := [] }

theorem witness_suspendAway : ∃ (s : State) (r : Region) (pa : Nat), Commanded s r ∧ liveState r.state ∧ Alone1 s r liveState ∧ RcbAt s r pa ∧
    ∀ k, k < 216 → (s.core k).region ≠ r.id :=
  ⟨sAway, _, 0x40100, commanded_of rfl (by decide +kernel), .inl rfl, alone1_of rfl, rcbAt_of (by decide +kernel) (by decide +kernel),
   fun _ _ => Nat.zero_ne_one⟩

def sHeld : State := { sHard .held stoppedCtx with regs := (0x3000, 0x40) :: (0x4100, 1) :: commandRegs }

theorem witness_unsuspend : ∃ (s : State) (r : Region) (pa : Nat), Commanded s r ∧ r.state = .held ∧ Alone1 s r (· = .held) ∧ RcbAt s r pa :=
  ⟨sHeld, _, 0x40100, commanded_of rfl (by decide +kernel), rfl, alone1_of rfl, rcbAt_of (by decide +kernel) (by decide +kernel)⟩

/-- Context 0 stands at a bundle with K set, while STOPMARK is under way; context 1 has still to stop. -/
def sStop : State :=
  { ready (State.reset.modCtx 1 fun c => { c with state := .ready, region := 1 }) with
    ctxs := [(0, { Ctx.init with state := .running, pc := 0x100, region := 1 }), (1, { Ctx.init with state := .ready, region := 1 })]
    cores := [(0, { Core.init with region := 1, issuing := 0 })]
    mem := cellsOf (scratchBase 0) [(0x100, toBytes 4 (0xF8004000) ++ toBytes 4 0x00104104)]
    regions := [{ regionAt .admitted [0] with stopping := true }], nextId := 4 }

theorem witness_stopContext : ∃ (x y : Nat) (s u : State) (b : Bundle) (g : Region), s.issues x = true ∧ (s.ctx x).deferred = [] ∧
    (s.ctx x).ended = false ∧ fetchBundle x (s.ctx x).pc (s.ctx x).jumped (s.select x) = .ok b u ∧ b.k = true ∧ (s.ctx x).j = 0 ∧
    (s.ctx x).slot = 0 ∧ s.stopping x = true ∧ u.ctx x = s.ctx x ∧ u.cur.x = x ∧ u.cur.atEnd = none ∧ StopClear u x ∧ Still u x ∧
    u.region? (u.ctx x).region = some g ∧ g.stopping = true ∧ Unstopped u g y ∧ y ≠ x := by
  have h : (match fetchBundle 0 (sStop.ctx 0).pc (sStop.ctx 0).jumped (sStop.select 0) with
    | .ok b u => decide (u.ctx 0 = sStop.ctx 0 ∧ u.cur.x = 0 ∧ u.cur.atEnd = none ∧ b.k = true ∧ u.regions = sStop.regions ∧
        u.ctx 1 = sStop.ctx 1 ∧ (u.core 0).region = 1 ∧ (u.core 0).mq = [] ∧ (u.core 0).mrun = none ∧ (u.core 0).tq = [] ∧
        (u.core 0).fq = [] ∧ (u.core 0).copies = [])
    | .error _ _ => false) = true := by decide +kernel
  match hf : fetchBundle 0 (sStop.ctx 0).pc (sStop.ctx 0).jumped (sStop.select 0) with
  | .error _ u => rw [hf] at h; exact Bool.noConfusion h
  | .ok b u =>
    rw [hf] at h
    obtain ⟨a1, a2, a3, a4, a5, a6, a7, a8, a9, a10, a11, a12⟩ := of_decide_eq_true h
    have hr : u.region? (u.ctx 0).region = some { regionAt .admitted [0] with stopping := true } := by
      rw [a1]
      unfold State.region?
      rw [a5]
      rfl
    refine ⟨0, 1, sStop, u, b, _, by decide +kernel, by decide +kernel, by decide +kernel, hf, a4, by decide +kernel, by decide +kernel,
      by decide +kernel, a1, a2, a3, ⟨by rw [a1]; rfl, by rw [a1]; rfl, by rw [a1]; rfl, by rw [a1]; rfl, ?_, by rw [a1]; rfl, ?_, ?_, ?_⟩,
      ⟨by rw [a1]; rfl, by rw [a1]; rfl, ?_⟩, hr, rfl, ⟨List.mem_singleton_self _, ?_, by rw [a6]; exact .inr rfl, by rw [a6]; rfl⟩, by decide⟩
    · rw [a1]
      exact fun w hw => absurd hw List.not_mem_nil
    · rw [show coreOf 0 = 0 from rfl, a8, a9]
      exact fun m hm => absurd hm List.not_mem_nil
    · rw [show coreOf 0 = 0 from rfl, a10]
      exact fun m hm => absurd hm List.not_mem_nil
    · rw [show coreOf 0 = 0 from rfl, a12]
      exact fun m hm => absurd hm List.not_mem_nil
    · rw [show coreOf 0 = 0 from rfl, a11]
      exact fun m hm => absurd hm List.not_mem_nil
    · exact a7

/-- Every context of the held region is IDLE. -/
def sSave : State := { sHard .held Ctx.init with regs := (0x3000, 0x40) :: (0x4100, 1) :: commandRegs }

theorem place_one {k : Nat} (h : k ∈ [0]) : k = 0 := List.mem_singleton.1 h

theorem witness_save : ∃ (s : State) (r : Region) (recs : List (List Byte)), Commanded s r ∧ s.savable r = true ∧ (∀ k ∈ r.place, k < 216) ∧
    r.place.Nodup ∧ s.records r = some recs ∧ HbmRange (s.regN rREGBUF) (imageLen r.place.length) := by
  have h : (sSave.records (regionAt .held [0])).isSome = true := by decide +kernel
  obtain ⟨recs, hr⟩ := Option.isSome_iff_exists.1 h
  refine ⟨sSave, regionAt .held [0], recs, commanded_of rfl (by decide +kernel), by decide +kernel, fun k hk => ?_, by decide, hr,
    by decide +kernel, by decide +kernel, by decide +kernel, by decide +kernel⟩
  rw [place_one hk]
  decide

/-- An image whose four contexts are IDLE at 0x1000000, and nothing of the region in hardpan. -/
def sRestore : State :=
  { sSave with
    hard := []
    mem := cellsOf 0x1000000 [(0, toBytes 4 (imageLen 1) ++ toBytes 4 1 ++ toBytes 4 4), (64 + coreArea + 0x20, [0x80]),
      (64 + coreArea + recordArea + 0x20, [0x81]), (64 + coreArea + 2 * recordArea + 0x20, [0x82]),
      (64 + coreArea + 3 * recordArea + 0x20, [0x83])] |>.filter (·.2 ≠ 0) }

theorem flag_at (s : State) (pa : Nat) :
    recFld (s.bytes pa recordArea) 0x20 4 = ofBytes ((List.range 4).map fun i => s.byte (pa + 0x20 + i)) := by
  have h : ((s.bytes pa recordArea).drop 0x20).take 4 = (List.range 4).map fun i => s.byte (pa + 0x20 + i) := by
    apply List.ext_getElem
    · simp only [State.bytes, upTo, List.length_take, List.length_drop, List.length_map, List.length_range, recordArea]
      decide
    · intro i _ _
      simp only [State.bytes, upTo, List.getElem_take, List.getElem_drop, List.getElem_map, List.getElem_range, Nat.add_assoc]
  rw [recFld, h]

theorem ofRecord_idle {r pa : Nat} {s : State} (h : bitAt (ofBytes ((List.range 4).map fun i => s.byte (pa + 0x20 + i))) 7 = true) :
    ∃ c, Ctx.ofRecord r (s.bytes pa recordArea) = some c := by
  refine ⟨Ctx.init, ?_⟩
  unfold Ctx.ofRecord
  simp only [flag_at, h, if_true]

theorem witness_restore : ∃ (s : State) (r : Region), Commanded s r ∧ r.state = .held ∧ (∀ k ∈ r.place, k < 216 ∧ fget? s.hard k = none) ∧
    r.place.Nodup ∧ Safety.Inv s ∧
    let n := r.place.length
    let pa := s.regN rREGBUF
    HbmRange pa (imageLen n) ∧ number 4 (fun i => s.byte (pa + i)) = imageLen n ∧ number 4 (fun i => s.byte (pa + 4 + i)) = n ∧
    number 4 (fun i => s.byte (pa + 8 + i)) = 4 * n ∧
    ∀ i, i < 4 * n → ∃ c, Ctx.ofRecord r.id (s.bytes (pa + 64 + n * coreArea + recordArea * i) recordArea) = some c := by
  refine ⟨sRestore, regionAt .held [0], commanded_of rfl (by decide +kernel), rfl, fun k hk => ?_, by decide,
    by unfold Safety.Inv; decide +kernel,
    ⟨by decide +kernel, by decide +kernel, by decide +kernel, by decide +kernel⟩, by decide +kernel, by decide +kernel, by decide +kernel,
    fun i hi => ?_⟩
  · rw [place_one hk]
    exact ⟨by decide, rfl⟩
  · have h : ∀ j, j < 4 → bitAt (ofBytes ((List.range 4).map fun o =>
        sRestore.byte (sRestore.regN rREGBUF + 64 + 1 * coreArea + recordArea * j + 0x20 + o))) 7 = true := by decide +kernel
    exact ofRecord_idle (h i hi)

/-- RESUME of context 0 of core 0, PARKED there, and in hardpan. -/
def parkedCtx : Ctx := { Ctx.init with state := .parked, pc := 0x100 }

theorem witness_resumeContext : ∃ (v : Word64) (s t : State) (h : HardSlot), bitAt v.toNat 16 = false ∧ bitAt v.toNat 8 = false ∧ Names v ∧
    (s.ctx (named v)).state = .parked ∧ fget? s.hard (coreOf (named v)) = none ∧ (t.ctx (named v)).state ≠ .parked ∧
    fget? t.hard (coreOf (named v)) = some h ∧ (fget Ctx.init h.ctxs (named v % 4)).state = .parked :=
  ⟨0, State.reset.setCtx 0 parkedCtx, sHard .held parkedCtx, slot1 parkedCtx, by decide, by decide, by unfold Names; decide, by decide,
   by decide, by decide, rfl, by decide⟩

/-- RESUME of the copy of slot 9 of context 1 of core 3, and of all of die 0. -/
theorem witness_resumeCopy : ∃ (v w : Word64) (s : State), bitAt v.toNat 16 = false ∧ bitAt v.toNat 8 = true ∧ Names v ∧
    fget? s.hard (named v / 4) = none ∧ bitAt w.toNat 16 = true ∧ fld w.toNat 20 17 ≤ 8 ∧ (∀ m ∈ s.msgs, m.held = false) ∧
    (∀ q ∈ s.queue, q.held = false) ∧ ∀ k, k / 24 = fld w.toNat 20 17 → fget? s.hard k = none :=
  ⟨0x1B48, 0x10000, State.reset, by decide, by decide, by unfold Names; decide, rfl, by decide, by decide,
   fun m hm => absurd hm List.not_mem_nil, fun q hq => absurd hq List.not_mem_nil, fun _ _ => rfl⟩

/-! ### Events of the engines -/

/-- Context 0 has command op for the matrix engine; rings 0 and 1 hold `fill` bytes, ring 1 with data. -/
def sEng (op : MOp) (fill : Nat := 0) : State :=
  ((sM.modCtx 0 fun c => { c with deferred := [] }).modCore 0 fun k => { k with
    mq := [{ seq := 7, x := 0, pc := 0x100, slot := 2, op := op, port := none }]
    banks := [(5, { Bank.free with owned := true, fmt := 1, cells := [(1, 6), (70, 0xFFFFFFFF)] })]
    csets := [(1, { CSet.free with owned := true, fmt := 1, pfmt := 1, depth := 3, pdepth := 3, cells := [(5, { cnt := [(2, 1)], nz := 1, z := 2 })] })]
    rings := [(0, { g := 0, owner := 0, base := 0x8000, size := 0x4000, head := 0x3FFF, tail := 0, fill := fill }),
      (1, { g := 1, owner := 0, base := 0x10000, size := 0x4000, head := 64, tail := 0, fill := fill })] }).write (scratchBase 0 + 0x10040) [3, 5, 0xFF]
def cmdOf (op : MOp) : MCmd := { seq := 7, x := 0, pc := 0x100, slot := 2, op := op, port := none }
def matMma : MOp := .mma 4 5 1 0 1 false true false 2 0
def engineOps : List MOp :=
  [.clear 5 2, .read 5 1 9 4, .write 5 1 77, .nclr 1, .ndump 1 0x2000, .ndrain 5 1 true false, .nchk 2 9 4, .xcvt 5 0 (-3), matMma]

theorem witness_matrixCommands : ∃ (k b n : Nat) (s : MOp → State) (m : MOp → MCmd),
    ∀ o ∈ engineOps, (s o).mReady k = some (m o) ∧ coreOf (m o).x = k ∧ (s o).arrayErr = [] ∧ (m o).op = o ∧ CoreForm ((s o).core k) b n := by
  refine ⟨0, 5, 1, sEng, cmdOf, fun o ho => ?_⟩
  have h : ∀ o ∈ engineOps, (sEng o).mReady 0 = some (cmdOf o) ∧ fwf 0 (((sEng o).core 0).bank 5).cells = true ∧
      fwf CCell.zero (((sEng o).core 0).cset 1).cells = true ∧ (((sEng o).core 0).cset 1).cells.all (fun e => fwf 0 e.2.cnt) = true := by
    decide +kernel
  obtain ⟨h1, h2, h3, h4⟩ := h o ho
  exact ⟨h1, show coreOf 0 = 0 by decide, rfl, rfl, h2, h3, fun e he => List.all_eq_true.1 h4 e he⟩

theorem countTo_zero {f : Nat → Bool} (h : ∀ c, f c = false) : ∀ n, countTo n f = 0
  | 0 => rfl
  | n + 1 => by simp [countTo, countTo_zero h n, h]

theorem witness_countCheck : ∃ (k n tok sd : Nat) (s : State) (m : MCmd), s.mReady k = some m ∧ coreOf m.x = k ∧ s.arrayErr = [] ∧ m.op = .nchk n tok sd ∧
    CoreForm (s.core k) 0 n ∧ countTo 2048 (fun c => failsCount ((s.core k).cset n).pdepth (counters s k n c)) = 0 := by
  have h : ((sEng (.nchk 2 9 4)).core 0).cset 2 = CSet.free := by decide +kernel
  refine ⟨0, 2, 9, 4, sEng (.nchk 2 9 4), cmdOf (.nchk 2 9 4), by decide +kernel, rfl, rfl, rfl, ⟨by decide +kernel, by rw [h]; decide, ?_⟩, ?_⟩
  · rw [h]
    exact fun e he => absurd he List.not_mem_nil
  · refine countTo_zero (fun c => ?_) 2048
    unfold counters
    rw [h]
    exact show failsCount 0 CCell.zero = false by decide +kernel

theorem witness_matrixStarts : ∃ (k : Nat) (s t : State) (m : MCmd) (fmt b bfmt ga gb kk entry : Nat) (ka kb wit : Bool),
    s.mReady k = some m ∧ t.mReady k = some m ∧ coreOf m.x = k ∧ s.arrayErr = [] ∧ t.arrayErr = [] ∧ m.op.occupies = true ∧ m.op.short (s.core k) = none ∧
    m.op = .mma fmt b bfmt ga gb ka kb wit kk entry ∧ ga ≠ gb ∧ ((t.core k).ringGen ga).fill < (mmaBytes fmt bfmt kk).1 ∧
    (t.ctx m.x).state ≠ .idle :=
  ⟨0, sEng matMma 0x1000, sEng matMma, cmdOf matMma, 4, 5, 1, 0, 1, 2, 0, false, true, false, by decide +kernel, by decide +kernel, rfl,
   rfl, rfl, rfl, by decide +kernel, rfl, by decide, by decide +kernel, by decide +kernel⟩

/-- The array is occupied by op. -/
def sRun (op : MOp) : State := (sEng op 0x1000).modCore 0 fun k => { k with mq := [], mrun := some (cmdOf op) }
def countOp : MOp := .mcnt 1 1 0 1 true false 3

theorem witness_retirement : ∃ (k b n ga gb kk jj entry : Nat) (ka kb la lb : Bool) (s t : State) (m w : MCmd) (ra rb : Ring),
    (s.core k).mrun = some m ∧ coreOf m.x = k ∧ (s.poison = [] ∧ s.soft = [] ∧ s.arrayErr = []) ∧ m.op = .mma 4 b 1 ga gb ka kb false kk entry ∧
    (t.core k).mrun = some w ∧ coreOf w.x = k ∧ (t.poison = [] ∧ t.soft = [] ∧ t.arrayErr = []) ∧ w.op = .mcnt 1 n ga gb la lb jj ∧
    ga ≠ gb ∧ fget? (s.core k).rings ga = some ra ∧ fget? (s.core k).rings gb = some rb ∧ fget? (t.core k).rings ga = some ra ∧
    fget? (t.core k).rings gb = some rb ∧ 0 < kk ∧ 32 * kk ≤ ra.size ∧ 64 * kk ≤ rb.size ∧ 0 < jj ∧ 16 * jj ≤ ra.size ∧ 32 * jj ≤ rb.size ∧
    fwf 0 ((s.core k).bank b).cells = true ∧ fwf CCell.zero ((t.core k).cset n).cells = true :=
  ⟨0, 5, 1, 0, 1, 2, 3, 0, false, true, true, false, sRun matMma, sRun countOp, cmdOf matMma, cmdOf countOp,
   { g := 0, owner := 0, base := 0x8000, size := 0x4000, head := 0x3FFF, tail := 0, fill := 0x1000 },
   { g := 1, owner := 0, base := 0x10000, size := 0x4000, head := 64, tail := 0, fill := 0x1000 },
   by decide +kernel, rfl, by decide +kernel, rfl, by decide +kernel, rfl, by decide +kernel, rfl, by decide, by decide +kernel,
   by decide +kernel, by decide +kernel, by decide +kernel, by decide, by decide, by decide, by decide, by decide, by decide,
   by decide +kernel, by decide +kernel⟩

/-- Commands of the tree engine and of the fibre unit. -/
def treeCmd (op : TOp) : TCmd := { seq := 7, x := 0, pc := 0x100, slot := 2, op := op }
def sTree (op : TOp) : State := sM.modCore 0 fun k => { k with tq := [treeCmd op] }
def fibreCmd (op : FOp) : FCmd := { x := 0, pc := 0x100, op := op }
def sFib (op : FOp) : State := sM.modCore 0 fun k => { k with fq := [fibreCmd op] }

theorem witness_treeCommands : ∃ (k : Nat) (s : TOp → State) (m : TOp → TCmd),
    ∀ o ∈ [.tmode 1 2 3, .tevid 5 6, .twclr false 2, .tstat 9 4 1], ((s o).core k).halting = false ∧ ((s o).core k).tq = [m o] ∧
      (m o).op = o ∧ coreOf (m o).x = k := by
  refine ⟨0, sTree, treeCmd, fun o ho => ?_⟩
  have h : ∀ o ∈ [TOp.tmode 1 2 3, .tevid 5 6, .twclr false 2, .tstat 9 4 1], ((sTree o).core 0).halting = false ∧
      ((sTree o).core 0).tq = [treeCmd o] := by decide +kernel
  exact ⟨(h o ho).1, (h o ho).2, rfl, show coreOf 0 = 0 by decide⟩

theorem witness_fibreCommands : ∃ (k : Nat) (s : FOp → State) (c : FOp → FCmd),
    ∀ o ∈ [.fcrd 9 4 77, .fstat 9 4 2 3], ((s o).core k).fq = [c o] ∧ (c o).op = o ∧ coreOf (c o).x = k := by
  refine ⟨0, sFib, fibreCmd, fun o ho => ?_⟩
  have h : ∀ o ∈ [FOp.fcrd 9 4 77, .fstat 9 4 2 3], ((sFib o).core 0).fq = [fibreCmd o] := by decide +kernel
  exact ⟨h o ho, rfl, show coreOf 0 = 0 by decide⟩

/-! Copies: rows of the scratchpad, a push, a PUBLISH of page 0x80 and an UPD with a gate. -/

def rowRec (fmt space base len : Nat) : HReg := BitVec.ofNat 512 (base + (fmt + 2 ^ 8 + 2 ^ 13 * space) * 2 ^ 64 + len * 2 ^ 128)
def copyCmd (kind : CopyKind) (dst src : HReg) (chunks : Nat) (waits : Bool) : CopyCmd :=
  { id := 5, x := 0, cid := 9, seq := 3, kind := kind, dst := dst, src := src, chunks := chunks, done := [], bad := [], bar := none, pc := 0x100,
    waits := waits, parked := false, image := none, needImage := false, told := [], served := [], upd := 0, consts := [], asid := 5, lost := false }
def sCopy (p : CopyCmd) : State :=
  ((mapped 5 sM).modCore 0 fun k => { k with copies := [p], seq := 8 }).modCtx 0 fun c => { c with bitmaps := [(9, 0)] }

theorem active_sCopy {p : CopyCmd} (h : p.id = 5) : Active (sCopy p) 0 5 p := by
  have h1 : ((sCopy p).core 0).copies = [p] := rfl
  refine ⟨by rw [h1]; exact List.mem_singleton_self p, h, fun q hq _ => ?_⟩
  rw [h1] at hq
  exact List.mem_singleton.1 hq

def rowCopy : CopyCmd := { copyCmd (.copy false) (rowRec 1 1 0x6000 250) (rowRec 1 1 0x2000 250) 2 false with done := [(1, true)] }

theorem witness_chunk : ∃ (k id chunk : Nat) (s : State) (p : CopyCmd), Active s k id p ∧ s.chunkReady k p chunk = true ∧
    fget? p.done chunk = none ∧ p.kind = .copy false ∧ p.bar = none ∧ p.lost = false ∧ coreOf p.x = k ∧ RowRecord (shapeOf p.dst) ∧
    RowRecord (shapeOf p.src) ∧ (shapeOf p.src).span = (shapeOf p.dst).span ∧ p.chunks = ((shapeOf p.dst).span + 511) / 512 := by
  refine ⟨0, 5, 0, sCopy rowCopy, rowCopy, active_sCopy rfl, by decide +kernel, rfl, rfl, rfl, rfl, rfl, ?_, ?_,
    by decide +kernel, by decide +kernel⟩
  · unfold RowRecord
    decide +kernel
  · unfold RowRecord
    decide +kernel

def ringCopy : CopyCmd := copyCmd (.ring 1 0) 0 (rowRec 1 1 0x2000 512) 1 true

theorem witness_ringRoom : ∃ (k id gen off : Nat) (s : State) (p : CopyCmd), Active s k id p ∧ p.kind = .ring gen off ∧ p.waits = true ∧
    (s.core k).halting = false ∧
    ((s.core k).ringGen gen).fill + (((s.core k).copies.filter fun q => q.pushes gen && decide (q.seq < p.seq)).map (·.pushSize)).sum +
      (shapeOf p.src).size ≤ ((s.core k).ringGen gen).size :=
  ⟨0, 5, 1, 0, sCopy ringCopy, ringCopy, active_sCopy rfl, rfl, rfl, by decide +kernel, by decide +kernel⟩

def pubCopy : CopyCmd := copyCmd .publish (rowRec 1 0 0x800000 512) 0 1 true
def twoSets : TlbEnt := { asid := 5, page := 0x80, leaf := 0x4001D, big := false, addr := 0x900 }
def sPub : State := { sCopy pubCopy with dies := [(0, { Die.init with tlb := [twoSets] })] }

theorem witness_publishExchange : ∃ (k id pg d : Nat) (s : State) (p : CopyCmd) (e : Word64) (te : TlbEnt), Active s k id p ∧
    p.kind = .publish ∧ p.parked = false ∧ (s.core k).halting = false ∧ s.publishHeld k p = false ∧ p.lost = false ∧ coreOf p.x = k ∧
    0 < p.chunks ∧ (shapeOf p.dst).vpages = [pg] ∧ pg < 2 ^ 48 ∧ fget? s.ldtCache (pg * 65536 / 2 ^ 49) = some e ∧ bitAt e.toNat 0 = true ∧
    fld e.toNat 12 1 = s.moduleNo ∧ fld e.toNat 16 13 = d ∧ d ≤ 8 ∧ (s.die d).lost = false ∧ s.dieActive d = true ∧
    (s.die d).tlb.find? (·.covers p.asid (pg % 2 ^ 33)) = some te ∧ te.big = false ∧ bitAt te.leaf.toNat 4 = true := by
  have h : Active (sCopy pubCopy) 0 5 pubCopy := active_sCopy rfl
  exact ⟨0, 5, 0x80, 0, sPub, pubCopy, 1, twoSets, h, rfl, rfl, by decide +kernel, by decide +kernel, rfl, rfl, by decide, by decide +kernel,
    by decide, by decide +kernel, by decide, by decide +kernel, by decide +kernel, by decide, by decide +kernel, by decide +kernel, by decide +kernel,
    by decide, by decide⟩

/-- An optimizer descriptor of one shard, which waits for phase 0 of the barrier at 0x3000. -/
def optBytes : List Byte := [0, 0, 0, 0, 1, 0] ++ List.replicate 122 0
def updCopy : CopyCmd := copyCmd (.upd 0x2000 optBytes (some 0x3000)) (rowRec 3 0 0x800000 512) 0 1 true
/-- The barrier is in phase 1, or 0. -/
def sUpd (phase : Nat) : State := (sCopy updCopy).write (scratchBase 0 + 0x3000) (toBytes 8 1 ++ toBytes 8 0 ++ toBytes 4 phase ++ [0, 0])

theorem witness_updGate : ∃ (k id : Nat) (s t : State) (p : CopyCmd) (a g : Word64) (desc : List Byte), Active s k id p ∧ Active t k id p ∧
    p.kind = .upd a desc (some g) ∧ desc ≠ [] ∧ s.updReady k p = true ∧ t.updReady k p = true ∧
    p.optim.malformed (shapeOf p.dst).fmt = false ∧ Sound s (scratchBase k) 0x300000 ∧ Sound t (scratchBase k) 0x300000 ∧ p.optim.norm.toNat + 4 ≤ 0x300000 ∧
    g.toNat + 32 ≤ 0x300000 ∧ Passed (s.bar (scratchBase k + g.toNat)) p.optim.phase ∧
    ¬ Passed (t.bar (scratchBase k + g.toNat)) p.optim.phase := by
  have h : Active (sCopy updCopy) 0 5 updCopy := active_sCopy rfl
  have h1 : (sUpd 1).bar (scratchBase 0 + 0x3000) = { expected := 1, arrived := 0, phase := 1, status := 0, flags := 0 } := by decide +kernel
  have h0 : (sUpd 0).bar (scratchBase 0 + 0x3000) = { expected := 1, arrived := 0, phase := 0, status := 0, flags := 0 } := by decide +kernel
  have hp : updCopy.optim.phase = 0 := by decide +kernel
  refine ⟨0, 5, sUpd 1, sUpd 0, updCopy, 0x2000, 0x3000, optBytes, h, h, rfl, by decide, by decide +kernel, by decide +kernel, by decide +kernel,
    sound_of (by decide +kernel), sound_of (by decide +kernel), by decide +kernel, by decide +kernel, ?_, ?_⟩
  · show Passed ((sUpd 1).bar (scratchBase 0 + 0x3000)) updCopy.optim.phase
    rw [h1, hp]
    exact ⟨1, by decide, by decide, by decide⟩
  · show ¬ Passed ((sUpd 0).bar (scratchBase 0 + 0x3000)) updCopy.optim.phase
    rw [h0, hp]
    rintro ⟨d, a1, a2, a3⟩
    change (0 + d) % 2 ^ 32 = 0 % 2 ^ 32 at a3
    omega

/-! The other products and counts, the passes of the tree engine, and the forms of the copy unit. -/

def ring0 : Ring := { g := 0, owner := 0, base := 0x8000, size := 0x4000, head := 0x3FFF, tail := 0, fill := 0x1000 }
def ring1 : Ring := { g := 1, owner := 0, base := 0x10000, size := 0x4000, head := 64, tail := 0, fill := 0x1000 }

/-- An operation occupies the array, nothing in memory or in the arrays is in error, and its rings are two. -/
structure Retiring (s : State) (k : Nat) (m : MCmd) (ra rb : Ring) (ga gb : Nat) : Prop where
  runs : (s.core k).mrun = some m ∧ coreOf m.x = k
  clean : s.poison = [] ∧ s.soft = [] ∧ s.arrayErr = []
  rings : ga ≠ gb ∧ fget? (s.core k).rings ga = some ra ∧ fget? (s.core k).rings gb = some rb

/-- A product into FP32 in BF16 and in E4M3, one in SX8, one into LPX, one in INT8 with its witness, and counts in either format. -/
def productOps : List MOp :=
  [.mma 0 5 0 0 1 false true false 16 9, .mma 2 5 0 0 1 false true false 32 9, .mma 5 5 0 0 1 true false true 16 9,
   .mma 1 5 2 0 1 true true true 16 9, .mma 4 5 1 0 1 true true true 2 9, .mcnt 1 1 0 1 true false 16, .mcnt 2 1 0 1 false false 16]

theorem witness_products : ∃ (k ga gb n : Nat) (ra rb : Ring) (s : MOp → State) (m : MOp → MCmd),
    (∀ o ∈ productOps, Retiring (s o) k (m o) ra rb ga gb ∧ (m o).op = o ∧ fwf CCell.zero (((s o).core k).cset n).cells = true ∧
      ∀ e ∈ (((s o).core k).cset n).cells, fwf 0 e.2.cnt = true) ∧
    4096 ≤ ra.size ∧ 4096 ≤ rb.size := by
  refine ⟨0, 0, 1, 1, ring0, ring1, sRun, cmdOf, fun o ho => ?_, by decide, by decide⟩
  have h : ∀ o ∈ productOps, ((sRun o).core 0).mrun = some (cmdOf o) ∧ (sRun o).poison = [] ∧ (sRun o).soft = [] ∧
      (sRun o).arrayErr = [] ∧ fget? ((sRun o).core 0).rings 0 = some ring0 ∧ fget? ((sRun o).core 0).rings 1 = some ring1 ∧
      fwf CCell.zero (((sRun o).core 0).cset 1).cells = true ∧ (((sRun o).core 0).cset 1).cells.all (fun e => fwf 0 e.2.cnt) = true := by
    decide +kernel
  obtain ⟨h1, h2, h3, h4, h5, h6, h7, h8⟩ := h o ho
  exact ⟨⟨⟨h1, show coreOf 0 = 0 by decide⟩, ⟨h2, h3, h4⟩, by decide, h5, h6⟩, rfl, h7, fun e he => List.all_eq_true.1 h8 e he⟩

/-- VALUES at 0x10000, records from 0x4000 on, and evidence of 4 variables at 0x3000. -/
def passTree (mode : Nat) : Tree :=
  { Tree.init with mode := mode, vb := 0x10000, rb := 0x4000, evb := 0x3000, evn := 4, nodes := 7, masked := 2 }

/-- A whole-node record of one node. -/
def nodeBytes (kind x n var : Nat) (words : List Nat) : List Byte :=
  toBytes 4 (kind + 256) ++ toBytes 4 n ++ toBytes 8 0 ++ toBytes 4 x ++ toBytes 4 (if kind = 3 then var + 2 ^ 24 * (n % 256) else n) ++
    List.replicate 120 0 ++ words.flatMap (toBytes 4)

def sPass (op : TOp) (mode : Nat) (blocks : List (Nat × List Byte)) : State :=
  { (sTree op).modCtx 0 fun c => { c with tree := passTree mode } with mem := (cellsOf (scratchBase 0) blocks).filter (·.2 ≠ 0) }

/-- The context's command is first in the tree engine's queue, and nothing that it issued before is outstanding. -/
structure Passing (s : State) (k : Nat) (m : TCmd) : Prop where
  runs : (s.core k).halting = false ∧ (s.core k).tq = [m] ∧ coreOf m.x = k
  free : TreeFree s k m

theorem passing_of {s : State} {m : TCmd} (h : (s.core 0).halting = false ∧ (s.core 0).tq = [m] ∧ coreOf m.x = 0 ∧ (s.core 0).copies = [] ∧
    (s.core 0).mq ++ (s.core 0).mrun.toList = [] ∧ (s.poison.isEmpty && s.soft.isEmpty) = true) : Passing s 0 m :=
  let ⟨hh, hq, hx, hc, hm, hs⟩ := h
  ⟨⟨hh, hq, hx⟩, ⟨ofNone hc, ofNone hm, sound_of hs⟩⟩

/-- What TFWD of the record at a asks. -/
structure Forwards (s : State) (k : Nat) (m : TCmd) (rec : Word64) (kind x n var : Nat) : Prop where
  passing : Passing s k m
  op : m.op = .tfwd rec 0 0
  node : OneNode s k rec.toNat kind x n var
  slot : SlotIn (s.ctx m.x).tree x
  place : (s.ctx m.x).tree.rb.toNat ≤ rec.toNat ∧ (rec.toNat - (s.ctx m.x).tree.rb.toNat) / 64 < 2 ^ 28
  children : kind ≠ 3 → ∀ i, i < n → SlotIn (s.ctx m.x).tree (listWord s k rec.toNat i)

def fwdOp : TOp := .tfwd 0x4040 0 0

/-- A sum of nodes 1 and 2, whose values are 1 and 2^-2, with weights 2^-1 and 1. -/
def sSum (mode : Nat) : State :=
  sPass fwdOp mode [(0x4040, nodeBytes 1 9 2 0 [1, 2, 0x3FFFC000, 0]), (0x10020, toBytes 8 lpOne), (0x10040, toBytes 8 0x1FFFFFFE00000000)]

theorem forwards_of {s : State} {op : TOp} {kind x n var : Nat} (hp : Passing s 0 (treeCmd op)) (ho : op = .tfwd 0x4040 0 0)
    (h1 : OneNode s 0 0x4040 kind x n var) (h : (s.ctx 0).tree.vb = 0x10000 ∧ (s.ctx 0).tree.rb = 0x4000 ∧ x < 64 ∧
      ∀ i, i < n → kind ≠ 3 → listWord s 0 0x4040 i < 64) : Forwards s 0 (treeCmd op) 0x4040 kind x n var := by
  obtain ⟨hv, hr, hx, hl⟩ := h
  have hs : ∀ y, y < 64 → SlotIn (s.ctx 0).tree y := fun y hy => by
    unfold SlotIn
    rw [hv]
    change 0x10000 + 32 * y + 32 ≤ 0x300000
    omega
  refine ⟨hp, ho, h1, hs x hx, ⟨?_, ?_⟩, fun hk i hi => hs _ (hl i hi hk)⟩
  · show (s.ctx 0).tree.rb.toNat ≤ 0x4040
    rw [hr]
    decide
  · show (0x4040 - (s.ctx 0).tree.rb.toNat) / 64 < 2 ^ 28
    rw [hr]
    decide

theorem forwards_sSum (mode : Nat) (h : mode = 0 ∨ mode = 3) : Forwards (sSum mode) 0 (treeCmd fwdOp) 0x4040 1 9 2 0 := by
  rcases h with rfl | rfl <;>
    exact forwards_of (passing_of (by decide +kernel)) rfl
      ⟨by decide, by decide, by decide, by decide +kernel⟩ ⟨by decide +kernel, by decide +kernel, by decide, by decide +kernel⟩

theorem witness_forwardSum : ∃ (k x n : Nat) (s t : State) (m : TCmd) (rec : Word64) (ts us : List Nat) (v i : Nat),
    Forwards s k m rec 1 x n 0 ∧ Terms s k (s.ctx m.x).tree rec.toNat n ts ∧ (s.ctx m.x).tree.mode ≠ 3 ∧ lpSum ts = some v ∧
    Forwards t k m rec 1 x n 0 ∧ Terms t k (t.ctx m.x).tree rec.toNat n us ∧ (t.ctx m.x).tree.mode = 3 ∧ (∀ v ∈ us, lpIsN v = false) ∧
    FirstMax us i :=
  ⟨0, 9, 2, sSum 0, sSum 3, treeCmd fwdOp, 0x4040, [0x1FFFFFFF00000000, 0x1FFFFFFE00000000], [0x1FFFFFFF00000000, 0x1FFFFFFE00000000],
   0x1FFFFFFF80000000, 0, forwards_sSum 0 (.inl rfl), by unfold Terms; decide +kernel, by decide +kernel, by decide +kernel,
   forwards_sSum 3 (.inr rfl), by unfold Terms; decide +kernel, by decide +kernel, by decide +kernel, by unfold FirstMax; decide +kernel⟩

/-- A product of the two. -/
def sProd : State :=
  sPass fwdOp 0 [(0x4040, nodeBytes 2 9 2 0 [1, 2]), (0x10020, toBytes 8 lpZero), (0x10040, toBytes 8 0x1FFFFFFE00000000)]

theorem witness_forwardProduct : ∃ (k x n : Nat) (s : State) (m : TCmd) (rec : Word64) (v zc pnz : Nat), Forwards s k m rec 2 x n 0 ∧
    lpProd ((List.range n).map fun i => nodeVal s k (s.ctx m.x).tree (listWord s k rec.toNat i)) = some (v, zc, pnz) :=
  ⟨0, 9, 2, sProd, treeCmd fwdOp, 0x4040, lpZero, 1, 0x1FFFFFFE00000000,
   forwards_of (passing_of (by decide +kernel)) rfl ⟨by decide, by decide, by decide, by decide +kernel⟩
     ⟨by decide +kernel, by decide +kernel, by decide, by decide +kernel⟩, by decide +kernel⟩

/-- A leaf of variable 1 with two entries, whose evidence is given. -/
def sLeaf (mode ev : Nat) : State := sPass fwdOp mode [(0x3002, toBytes 2 ev), (0x4040, nodeBytes 3 9 2 1 [0x3FFFC000, 0])]

theorem forwards_sLeaf {mode ev : Nat} (h1 : ((sLeaf mode ev).core 0).halting = false ∧ ((sLeaf mode ev).core 0).tq = [treeCmd fwdOp] ∧
    coreOf (treeCmd fwdOp).x = 0 ∧ ((sLeaf mode ev).core 0).copies = [] ∧
    ((sLeaf mode ev).core 0).mq ++ ((sLeaf mode ev).core 0).mrun.toList = [] ∧ ((sLeaf mode ev).poison.isEmpty && (sLeaf mode ev).soft.isEmpty) = true)
    (h2 : padN (sLeaf mode ev) 0 0x4040 0x90 = 3 + 2 ^ 8 + 2 ^ 32 * 2 + 2 ^ 128 * (9 + 2 ^ 32 * (1 + 2 ^ 24 * 2)))
    (h3 : ((sLeaf mode ev).ctx 0).tree.vb = 0x10000 ∧ ((sLeaf mode ev).ctx 0).tree.rb = 0x4000) :
    Forwards (sLeaf mode ev) 0 (treeCmd fwdOp) 0x4040 3 9 2 1 :=
  forwards_of (passing_of h1) rfl ⟨by decide, by decide, by decide, h2⟩ ⟨h3.1, h3.2, by decide, fun _ _ h => absurd rfl h⟩

/-- Evidence 1, 7, and missing, in modes 0 and 3. -/
theorem witness_forwardLeaf : ∃ (k x n var : Nat) (s t u w : State) (m : TCmd) (rec : Word64) (i : Nat),
    Forwards s k m rec 3 x n var ∧ Forwards t k m rec 3 x n var ∧ Forwards u k m rec 3 x n var ∧ Forwards w k m rec 3 x n var ∧
    (∀ v ∈ [s, t, u, w], var < (v.ctx m.x).tree.evn.toNat ∧ (v.ctx m.x).tree.evb.toNat + 2 * var + 2 ≤ 0x300000) ∧
    evidence s k (s.ctx m.x).tree var < 2 ^ 15 ∧ evidence s k (s.ctx m.x).tree var % 256 < n ∧
    evidence t k (t.ctx m.x).tree var < 2 ^ 15 ∧ n ≤ evidence t k (t.ctx m.x).tree var % 256 ∧
    2 ^ 15 ≤ evidence u k (u.ctx m.x).tree var ∧ (u.ctx m.x).tree.mode ≠ 3 ∧ 2 ^ 15 ≤ evidence w k (w.ctx m.x).tree var ∧
    (w.ctx m.x).tree.mode = 3 ∧ (∀ v ∈ (List.range n).map fun i => lp32To (listWord w k rec.toNat i), lpIsN v = false) ∧
    FirstMax ((List.range n).map fun i => lp32To (listWord w k rec.toNat i)) i :=
  ⟨0, 9, 2, 1, sLeaf 0 1, sLeaf 0 7, sLeaf 0 0x8000, sLeaf 3 0x8000, treeCmd fwdOp, 0x4040, 1,
   forwards_sLeaf (by decide +kernel) (by decide +kernel) (by decide +kernel), forwards_sLeaf (by decide +kernel) (by decide +kernel) (by decide +kernel),
   forwards_sLeaf (by decide +kernel) (by decide +kernel) (by decide +kernel), forwards_sLeaf (by decide +kernel) (by decide +kernel) (by decide +kernel),
   by decide +kernel, by decide +kernel, by decide +kernel, by decide +kernel, by decide +kernel, by decide +kernel, by decide +kernel,
   by decide +kernel, by decide +kernel, by decide +kernel, by unfold FirstMax; decide +kernel⟩

/-- The reverse pass of the sum, whose DER is 1; and of the leaf. -/
def revOp : TOp := .trev 0x4040
def sRev : State :=
  sPass revOp 0 [(0x4040, nodeBytes 1 9 2 0 [1, 2, 0x3FFFC000, 0]), (0x10020, toBytes 8 lpOne ++ toBytes 8 lpZero),
    (0x10040, toBytes 8 0x1FFFFFFE00000000 ++ toBytes 8 lpOne), (0x10128, toBytes 8 lpOne)]
def sRevLeaf : State := sPass revOp 0 [(0x4040, nodeBytes 3 9 2 1 [0x3FFFC000, 0])]

theorem slots_below {t : Tree} (h : t.vb = 0x10000) (y : Nat) (hy : y < 64) : SlotIn t y := by
  unfold SlotIn
  rw [h]
  change 0x10000 + 32 * y + 32 ≤ 0x300000
  omega

theorem witness_reverse : ∃ (k kind x n : Nat) (s t : State) (m : TCmd) (rec : Word64) (g v : Nat → Nat), Passing s k m ∧ m.op = .trev rec ∧
    OneNode s k rec.toNat kind x n 0 ∧ kind ≠ 3 ∧ SlotIn (s.ctx m.x).tree x ∧ (∀ i, i < n → SlotIn (s.ctx m.x).tree (listWord s k rec.toNat i)) ∧
    (∀ i j, i < n → j < n → listWord s k rec.toNat i = listWord s k rec.toNat j → i = j) ∧
    (∀ i, i < n → contribution s k (s.ctx m.x).tree rec.toNat kind x n i = some (g i)) ∧
    (∀ i, i < n → if g i = lpZero then v i = padN s k (nodeSlot (s.ctx m.x).tree (listWord s k rec.toNat i) 8) 8
      else lpSum [padN s k (nodeSlot (s.ctx m.x).tree (listWord s k rec.toNat i) 8) 8, g i] = some (v i)) ∧
    Passing t k m ∧ OneNode t k rec.toNat 3 x n 1 ∧ SlotIn (t.ctx m.x).tree x := by
  refine ⟨0, 1, 9, 2, sRev, sRevLeaf, treeCmd revOp, 0x4040, fun i => if i = 0 then 0x1FFFFFFF00000000 else lpOne,
    fun i => if i = 0 then 0x1FFFFFFF00000000 else 0x0000000100000000, passing_of (by decide +kernel), rfl,
    ⟨by decide, by decide, by decide, by decide +kernel⟩, by decide, slots_below (by decide +kernel) 9 (by decide), fun i hi => ?_, ?_,
    by decide +kernel, by decide +kernel, passing_of (by decide +kernel), ⟨by decide, by decide, by decide, by decide +kernel⟩,
    slots_below (by decide +kernel) 9 (by decide)⟩
  · exact slots_below (by decide +kernel) _ ((by decide +kernel : ∀ i, i < 2 → listWord sRev 0 0x4040 i < 64) i hi)
  · have h : ∀ i, i < 2 → ∀ j, j < 2 → listWord sRev 0 0x4040 i = listWord sRev 0 0x4040 j → i = j := by decide +kernel
    exact fun i j hi hj => h i hi j hj

/-- TRATIO of 0x5000 and 0x5008 into 0x5010: a quotient, a zero denominator, and one out of range. -/
def ratioOp : TOp := .tratio 0x5010 0x5000 0x5008
def sRatio (num den : Nat) : State := sPass ratioOp 0 [(0x5000, toBytes 8 num ++ toBytes 8 den)]

theorem witness_ratio : ∃ (k v : Nat) (s t u : State) (m : TCmd) (c a b : Word64), (∀ w ∈ [s, t, u], Passing w k m) ∧ m.op = .tratio c a b ∧
    c.toNat + 8 ≤ 0x300000 ∧ a.toNat + 8 ≤ 0x300000 ∧ b.toNat + 8 ≤ 0x300000 ∧ padN s k b.toNat 8 ≠ lpZero ∧
    lpDiv (padN s k a.toNat 8) (padN s k b.toNat 8) = some v ∧ padN t k b.toNat 8 = lpZero ∧ padN u k b.toNat 8 ≠ lpZero ∧
    lpDiv (padN u k a.toNat 8) (padN u k b.toNat 8) = none ∧ (u.ctx m.x).state ≠ .idle := by
  refine ⟨0, 0x0000000100000000, sRatio lpOne 0x1FFFFFFF00000000, sRatio lpOne lpZero, sRatio 0x0FFFFFFF00000000 0x1000000100000000, treeCmd ratioOp,
    0x5010, 0x5000, 0x5008, fun w hw => ?_, rfl, by decide, by decide, by decide, by decide +kernel, by decide +kernel, by decide +kernel,
    by decide +kernel, by decide +kernel, by decide +kernel⟩
  simp only [List.mem_cons, List.not_mem_nil, or_false] at hw
  rcases hw with rfl | rfl | rfl <;> exact passing_of (by decide +kernel)

/-- A descent stack at 0x6000 for node 9, whose leaf record stands at 0x4040, with OUT at 0x7000. -/
def walkOp (samp : Bool) : TOp := .walk samp 0x6000 none
def sWalk (samp : Bool) (state ev : Nat) : State :=
  sPass (walkOp samp) 0 [(0x3002, toBytes 2 ev), (0x4040, nodeBytes 3 9 2 1 [0x3FFFC000, 0x3FFFC000]),
    (0x6000, toBytes 4 9 ++ toBytes 1 state ++ toBytes 11 0 ++ toBytes 8 77 ++ toBytes 8 0 ++ toBytes 8 0x7000), (0x10138, toBytes 8 (2 ^ 32 + 1))]

/-- What a walk that begins at a leaf asks. -/
structure Walks (s : State) (k : Nat) (m : TCmd) (samp : Bool) (p x a n var : Nat) (out : Word64) : Prop where
  passing : Passing s k m
  op : m.op = .walk samp (ofN p) none
  stack : p + 0x44 ≤ 0x300000 ∧ padN s k (p + 4) 1 = 0 ∧ padN s k p 4 = x ∧ padN s k (p + 0x20) 8 = out.toNat
  node : OneNode s k a 3 x n var ∧ SlotIn (s.ctx m.x).tree x
  place : (s.ctx m.x).tree.rb.toNat ≤ a ∧ (a - (s.ctx m.x).tree.rb.toNat) % 64 = 0 ∧
    padN s k (nodeSlot (s.ctx m.x).tree x 28) 4 = (a - (s.ctx m.x).tree.rb.toNat) / 64 ∧ (a - (s.ctx m.x).tree.rb.toNat) / 64 < 2 ^ 28
  variable_ : var < (s.ctx m.x).tree.evn.toNat ∧ (s.ctx m.x).tree.evb.toNat + 2 * var + 2 ≤ 0x300000 ∧ out.toNat + 2 * var + 2 ≤ 0x300000
  apart : (p + 0x44 ≤ out.toNat + 2 * var ∨ out.toNat + 2 * var + 2 ≤ p) ∧
    ∀ o, stackBytes p o → ¬ (a ≤ o ∧ o < a + 0x90 + 4 * n) ∧ ¬ (nodeSlot (s.ctx m.x).tree x 0 ≤ o ∧ o < nodeSlot (s.ctx m.x).tree x 32) ∧
      ¬ ((s.ctx m.x).tree.evb.toNat + 2 * var ≤ o ∧ o < (s.ctx m.x).tree.evb.toNat + 2 * var + 2)

theorem walks_sWalk (samp : Bool) (ev : Nat) (h : ev = 1 ∨ ev = 0x8000) :
    Walks (sWalk samp 0 ev) 0 (treeCmd (walkOp samp)) samp 0x6000 9 0x4040 2 1 0x7000 := by
  have ht : ((sWalk samp 0 ev).ctx 0).tree = passTree 0 := by cases samp <;> rcases h with rfl | rfl <;> decide +kernel
  refine ⟨?_, rfl, ?_, ⟨⟨by decide, by decide, by decide, ?_⟩, ?_⟩, ?_, ?_, .inl (by decide), fun o ho => ?_⟩
  · cases samp <;> rcases h with rfl | rfl <;> exact passing_of (by decide +kernel)
  · cases samp <;> rcases h with rfl | rfl <;> decide +kernel
  · cases samp <;> rcases h with rfl | rfl <;> decide +kernel
  · exact slots_below (by rw [show (treeCmd (walkOp samp)).x = 0 from rfl, ht]; rfl) 9 (by decide)
  · cases samp <;> rcases h with rfl | rfl <;> decide +kernel
  · cases samp <;> rcases h with rfl | rfl <;> decide +kernel
  · rw [show (treeCmd (walkOp samp)).x = 0 from rfl, ht]
    unfold stackBytes at ho
    change ¬ (0x4040 ≤ o ∧ o < 0x4040 + 0x90 + 4 * 2) ∧ ¬ (0x10000 + 32 * 9 + 0 ≤ o ∧ o < 0x10000 + 32 * 9 + 32) ∧
      ¬ (0x3000 + 2 * 1 ≤ o ∧ o < 0x3000 + 2 * 1 + 2)
    omega

/-- A walk whose stack says that it has ended; and from a leaf with evidence, without evidence in TARGM, and with a draw in TSAMP. -/
theorem witness_walk : ∃ (k : Nat) (s t u v : State) (m w : TCmd) (p x a n var : Nat) (out : Word64), Passing v k m ∧
    m.op = .walk false (ofN p) none ∧ 2 ≤ padN v k (p + 4) 1 ∧ Walks s k m false p x a n var out ∧
    evidence s k (s.ctx m.x).tree var < 2 ^ 15 ∧ Walks t k m false p x a n var out ∧ 2 ^ 15 ≤ evidence t k (t.ctx m.x).tree var ∧
    Walks u k w true p x a n var out ∧ 2 ^ 15 ≤ evidence u k (u.ctx w.x).tree var :=
  ⟨0, sWalk false 0 1, sWalk false 0 0x8000, sWalk true 0 0x8000, sWalk false 2 1, treeCmd (walkOp false), treeCmd (walkOp true),
   0x6000, 9, 0x4040, 2, 1, 0x7000, passing_of (by decide +kernel), rfl, by decide +kernel, walks_sWalk _ _ (.inl rfl), by decide +kernel,
   walks_sWalk _ _ (.inr rfl), by decide +kernel, walks_sWalk _ _ (.inr rfl), by decide +kernel⟩

/-- And its draw. -/
theorem witness_draw : ∃ (k : Nat) (s : State) (w : TCmd) (p x a n var : Nat) (out : Word64) (u total target i : Nat),
    Walks s k w true p x a n var out ∧ 2 ^ 15 ≤ evidence s k (s.ctx w.x).tree var ∧
    let ts := (List.range n).map fun i => lp32To (listWord s k a i)
    let z := (mix64 (ofN (padN s k (p + 0x10) 8) + 0x9E3779B97F4A7C15)).toNat
    (∀ u ∈ ts, lpIsN u = false) ∧ lpOfMag false (z / 2 ^ 40) (-24) = some u ∧ lpSum ts = some total ∧ lpIsN total = false ∧
    lpMul u total = some target ∧ ChosenBy target ts i :=
  ⟨0, sWalk true 0 0x8000, treeCmd (walkOp true), 0x6000, 9, 0x4040, 2, 1, 0x7000, 2305843002928737280, 0, 2305843002928737280, 0,
   walks_sWalk _ _ (.inr rfl), by decide +kernel, by decide +kernel, by decide +kernel, by decide +kernel, by decide, by decide +kernel,
   by decide, ⟨2305843004918726656, by decide +kernel, by decide⟩, fun j hj => absurd hj (by omega)⟩

/-! Chunks of the forms, of CRED and of UPD. -/

/-- A shape record of given format, space, base, extents and strides. -/
def recH (fmt space base : Nat) (ext str : List Nat) : HReg :=
  BitVec.ofNat 512 (base + (fmt + 2 ^ 8 * ext.length + 2 ^ 13 * space) * 2 ^ 64 + 2 ^ 128 * (ext.foldr (fun e n => e + 2 ^ 32 * n) 0) +
    2 ^ 256 * (str.foldr (fun e n => e + 2 ^ 64 * n) 0))

/-- A command whose core's memory holds the given bytes. -/
def sChunk (p : CopyCmd) (blocks : List (Nat × List Byte)) : State := { sCopy p with mem := (cellsOf 0 blocks).filter (·.2 ≠ 0) }

theorem begins_of {p : CopyCmd} {blocks : List (Nat × List Byte)} {chunk : Nat} (hi : p.id = 5)
    (h : (sChunk p blocks).chunkReady 0 p chunk = true ∧ fget? p.done chunk = none ∧ p.bar = none ∧ p.lost = false ∧ coreOf p.x = 0 ∧
      ((sChunk p blocks).poison.isEmpty && (sChunk p blocks).soft.isEmpty) = true) : Begins (sChunk p blocks) 0 5 chunk p :=
  let ⟨hr, hd, hb, hl, hx, hs⟩ := h
  have hc : ((sChunk p blocks).core 0).copies = [p] := rfl
  ⟨⟨hc ▸ List.mem_singleton_self p, hi, fun _ hq _ => List.mem_singleton.1 (hc ▸ hq)⟩, hr, hd, hb, hl, hx, sound_of hs⟩

/-- Two rows of three words at 0x2000, with stride 64, and three rows of two words at 0x6000. -/
def rec23 (base : Nat) : HReg := recH 1 1 base [3, 2] [0, 64]
def rec32 (base : Nat) : HReg := recH 1 1 base [2, 3] [0, 64]

theorem padRecord_of {v : Shape} (h : v.space = 1 ∧ ∀ b, b < v.size → 0 ≤ (v.base : Int) + v.byteAt b ∧ (v.base : Int) + v.byteAt b < 0x300000) :
    PadRecord v := ⟨h.1, h.2⟩

theorem spread_of {v : Shape} (h : ∀ b, b < v.size → ∀ c, c < v.size → packed 0 v b = packed 0 v c → b = c) : Spread 0 v :=
  fun b c hb hc => h b hb c hc

def oneChunk (kind : CopyKind) (dst src : HReg) : CopyCmd := copyCmd kind dst src 1 false

/-- A COPY, and the transpose. -/
theorem witness_copyChunks : ∃ (k id chunk : Nat) (s t : State) (p q : CopyCmd), Begins s k id chunk p ∧ PadRecord (shapeOf p.dst) ∧
    PadRecord (shapeOf p.src) ∧ Spread k (shapeOf p.dst) ∧ (shapeOf p.dst).bits = (shapeOf p.src).bits ∧ p.kind = .copy false ∧
    (shapeOf p.src).size = (shapeOf p.dst).size ∧ Begins t k id chunk q ∧ PadRecord (shapeOf q.dst) ∧ PadRecord (shapeOf q.src) ∧
    Spread k (shapeOf q.dst) ∧ (shapeOf q.dst).bits = (shapeOf q.src).bits ∧ q.kind = .copyt ∧ (shapeOf q.dst).bits = 32 ∧
    (shapeOf q.src).size = (shapeOf q.dst).size ∧ (shapeOf q.dst).extent 0 = (shapeOf q.src).extent 1 ∧
    (shapeOf q.dst).extent 1 = (shapeOf q.src).extent 0 ∧ (shapeOf q.dst).extent 2 = (shapeOf q.src).extent 2 ∧
    (shapeOf q.dst).extent 3 = (shapeOf q.src).extent 3 ∧
    min 512 ((shapeOf q.dst).size - 512 * chunk) % ((shapeOf q.dst).bits / 8) = 0 :=
  ⟨0, 5, 0, sChunk (oneChunk (.copy false) (rec23 0x6000) (rec23 0x2000)) [], sChunk (oneChunk .copyt (rec32 0x6000) (rec23 0x2000)) [],
   oneChunk (.copy false) (rec23 0x6000) (rec23 0x2000), oneChunk .copyt (rec32 0x6000) (rec23 0x2000),
   begins_of rfl (by decide +kernel), padRecord_of (by decide +kernel), padRecord_of (by decide +kernel), spread_of (by decide +kernel),
   by decide +kernel, rfl, by decide +kernel, begins_of rfl (by decide +kernel), padRecord_of (by decide +kernel), padRecord_of (by decide +kernel),
   spread_of (by decide +kernel), by decide +kernel, rfl, by decide +kernel, by decide +kernel, by decide +kernel, by decide +kernel,
   by decide +kernel, by decide +kernel, by decide +kernel⟩

/-- What CGATH and CSCAT ask of their records and of the index list at 0x1000. -/
structure Rows (s : State) (p : CopyCmd) (kind : CopyKind) (n : Nat) : Prop where
  begins : Begins s 0 5 0 p
  kind : p.kind = kind
  pads : PadRecord (shapeOf p.dst) ∧ PadRecord (shapeOf p.src)
  spread : Spread 0 (shapeOf p.dst)
  formats : (shapeOf p.dst).bits = (shapeOf p.src).bits ∧ (shapeOf p.src).span = (shapeOf p.dst).span ∧ 0 < (shapeOf p.dst).span
  ranks : (shapeOf p.dst).rank ≤ 2 ∧ (shapeOf p.src).rank ≤ 2
  list : 0x1000 + 4 * n ≤ 0x300000

/-- Three rows of two words from rows 1, 0 and 1 of two, and from one that is out of range. -/
def gathCmd : CopyCmd := oneChunk (.gather 0x1000) (rec32 0x6000) (recH 1 1 0x2000 [2, 2] [0, 64])
def sGath (last : Nat) : State := sChunk gathCmd [(scratchBase 0 + 0x1000, toBytes 4 1 ++ toBytes 4 0 ++ toBytes 4 last)]

theorem witness_gather : ∃ (s t : State) (p : CopyCmd), Rows s p (.gather 0x1000) ((shapeOf p.dst).extent 1) ∧
    (∀ r, r < (shapeOf p.dst).extent 1 → indexAt s 0 0x1000 r < (shapeOf p.src).extent 1) ∧
    Rows t p (.gather 0x1000) ((shapeOf p.dst).extent 1) ∧ (t.ctx p.x).state ≠ .idle ∧
    (shapeOf p.src).extent 1 ≤ indexAt t 0 0x1000 (16 / (shapeOf p.dst).span) ∧ p.told.contains (0x1000 + ofN (4 * (16 / (shapeOf p.dst).span))) = false := by
  have h : ∀ last, last = 1 ∨ last = 2 → Rows (sGath last) gathCmd (.gather 0x1000) ((shapeOf gathCmd.dst).extent 1) := fun last hl =>
    ⟨begins_of rfl (by rcases hl with rfl | rfl <;> decide +kernel), rfl, ⟨padRecord_of (by decide +kernel), padRecord_of (by decide +kernel)⟩,
     spread_of (by decide +kernel), by decide +kernel, by decide +kernel, by decide +kernel⟩
  exact ⟨sGath 1, sGath 2, gathCmd, h 1 (.inl rfl), by decide +kernel, h 2 (.inr rfl), by decide +kernel, by decide +kernel, by decide +kernel⟩

/-- Three rows of two words to rows 1, 0 and 1 of two, or the last to one that is out of range. -/
def scatCmd : CopyCmd := oneChunk (.scatter 0x1000) (recH 1 1 0x6000 [2, 2] [0, 64]) (rec32 0x2000)
def sScat (last : Nat) : State := sChunk scatCmd [(scratchBase 0 + 0x1000, toBytes 4 1 ++ toBytes 4 0 ++ toBytes 4 last)]
def lastRow (i : Nat) : Option Nat := if i = 0 then some 1 else if i = 1 then some 2 else none

theorem witness_scatter : ∃ (s t : State) (p : CopyCmd) (last : Nat → Option Nat), Rows s p (.scatter 0x1000) ((shapeOf p.src).extent 1) ∧
    (∀ i r, last i = some r ↔ r < (shapeOf p.src).extent 1 ∧ indexAt s 0 0x1000 r = i ∧
      ∀ q, r < q → q < (shapeOf p.src).extent 1 → indexAt s 0 0x1000 q ≠ i) ∧
    (∀ r, r < (shapeOf p.src).extent 1 → indexAt s 0 0x1000 r < (shapeOf p.dst).extent 1) ∧
    Rows t p (.scatter 0x1000) ((shapeOf p.src).extent 1) ∧ (t.ctx p.x).state ≠ .idle ∧
    (shapeOf p.dst).extent 1 ≤ indexAt t 0 0x1000 2 ∧ p.told.contains (0x1000 + ofN (4 * 2)) = false := by
  have h : ∀ last, last = 1 ∨ last = 2 → Rows (sScat last) scatCmd (.scatter 0x1000) ((shapeOf scatCmd.src).extent 1) := fun last hl =>
    ⟨begins_of rfl (by rcases hl with rfl | rfl <;> decide +kernel), rfl, ⟨padRecord_of (by decide +kernel), padRecord_of (by decide +kernel)⟩,
     spread_of (by decide +kernel), by decide +kernel, by decide +kernel, by decide +kernel⟩
  refine ⟨sScat 1, sScat 2, scatCmd, lastRow, h 1 (.inl rfl), fun i r => ?_, by decide +kernel, h 2 (.inr rfl), by decide +kernel,
    by decide +kernel, by decide +kernel⟩
  have hn : (shapeOf scatCmd.src).extent 1 = 3 := by decide +kernel
  have h0 : indexAt (sScat 1) 0 0x1000 0 = 1 := by decide +kernel
  have h1 : indexAt (sScat 1) 0 0x1000 1 = 0 := by decide +kernel
  have h2 : indexAt (sScat 1) 0 0x1000 2 = 1 := by decide +kernel
  rw [hn]
  unfold lastRow
  constructor
  · intro hr
    split at hr
    · obtain rfl := Option.some.inj hr
      subst i
      exact ⟨by omega, h1, fun q hq hq3 => by obtain rfl : q = 2 := by omega
                                              rw [h2]; decide⟩
    · split at hr
      · obtain rfl := Option.some.inj hr
        subst i
        exact ⟨by omega, h2, fun q hq hq3 => by omega⟩
      · exact absurd hr (by simp)
  · rintro ⟨hr, rfl, hl⟩
    obtain rfl | rfl | rfl : r = 0 ∨ r = 1 ∨ r = 2 := by omega
    · exact absurd (h2.trans h0.symm) (hl 2 (by omega) (by omega))
    · rw [h1]; rfl
    · rw [h2]; rfl

/-- A push of 24 bytes at offset 4 of a ring. -/
def pushCmd : CopyCmd := oneChunk (.ring 1 4) 0 (rec23 0x2000)

theorem witness_push : ∃ (s : State) (p : CopyCmd) (g off : Nat) (r : Ring), Begins s 0 5 0 p ∧ p.kind = .ring g off ∧ PadRecord (shapeOf p.src) ∧
    fget? (s.core 0).rings g = some r ∧ (shapeOf p.src).size ≤ r.size ∧ r.base + r.size ≤ 0x300000 ∧
    p.chunks = ((shapeOf p.src).size + 511) / 512 :=
  ⟨sChunk pushCmd [], pushCmd, 1, 4, { g := 1, owner := 0, base := 0x10000, size := 0x4000, head := 0, tail := 0, fill := 0 },
   begins_of rfl (by decide +kernel), rfl, padRecord_of (by decide +kernel), by decide +kernel, by decide +kernel, by decide, by decide +kernel⟩

theorem plane_held {s : State} {rq : Req} {acc k n : Nat} {ea : Word64} {pa : Nat} (h1 : ea.toNat + n ≤ 2 ^ 64 ∧ 0x400000 ≤ ea.toNat)
    (h2 : ∀ i, i < n → heldAt s rq acc (ea + ofN i) (pa + i) = true ∧ isVirt (ea + ofN i) = true)
    (h3 : (s.poison.isEmpty && s.soft.isEmpty) = true) : Plane s rq acc k ea pa n := by
  refine ⟨⟨h1.1, .inr h1.2⟩, fun i hi t ht => ?_, sound_of h3⟩
  have hv := (h2 i hi).2
  have hc : classify (ea + ofN i) = .virt := by
    simp only [isVirt, decide_eq_true_eq] at hv
    unfold classify
    rw [if_neg (by omega), if_neg (by omega)]
  simp only [locate, hc]
  exact translate_held (h2 i hi).1 ⟨fun d => by simp only [State.die, ht.dies, and_self], fun o _ _ _ => by simp only [State.reg, ht.regs],
    ht.ldtCache, ht.moduleNo⟩

theorem plane_local {s : State} {rq : Req} {acc k n : Nat} {ea : Word64} {pa : Nat} (h1 : ea.toNat + n ≤ 0x300000)
    (h2 : pa = scratchBase k + ea.toNat) (h3 : (s.poison.isEmpty && s.soft.isEmpty) = true) : Plane s rq acc k ea pa n := by
  refine ⟨⟨by omega, .inl h1⟩, fun i hi t _ => ?_, sound_of h3⟩
  have he : (ea + ofN i).toNat = ea.toNat + i := by
    simp only [ofN, BitVec.toNat_add, BitVec.toNat_ofNat]
    omega
  have hc : classify (ea + ofN i) = .scratch (ea.toNat + i) := by
    unfold classify
    rw [if_pos (by omega), he]
  simp only [locate, hc, h2, Nat.add_assoc]
  rfl

/-- Two words are added to HBM. -/
def credCmd : CopyCmd := oneChunk (.reduce false) (recH 1 0 0x800000 [2] [0]) (recH 1 1 0x2000 [2] [0])

theorem witness_reduce : ∃ (k id chunk wpa : Nat) (s : State) (p : CopyCmd), Begins s k id chunk p ∧ p.kind = .reduce false ∧
    (shapeOf p.dst).fmt = 0x01 ∧ (shapeOf p.dst).space = 0 ∧ (shapeOf p.dst).rank = 1 ∧ PadRecord (shapeOf p.src) ∧
    (shapeOf p.src).size = (shapeOf p.dst).size ∧ min 512 ((shapeOf p.dst).size - 512 * chunk) % ((shapeOf p.dst).bits / 8) = 0 ∧
    (shapeOf p.dst).base + (shapeOf p.dst).size ≤ 2 ^ 64 ∧ 0x400000 ≤ (shapeOf p.dst).base ∧ (shapeOf p.dst).base % 64 = 0 ∧
    Plane s (p.reqFor k (shapeOf p.dst)) accAtomic k (ofN ((shapeOf p.dst).base + 512 * chunk)) wpa (min 512 ((shapeOf p.dst).size - 512 * chunk)) ∧
    (∀ i, i < min 512 ((shapeOf p.dst).size - 512 * chunk) → inScratch (offOf (wpa + i)) = false) ∧
    (∀ i, i < min 512 ((shapeOf p.dst).size - 512 * chunk) → ∀ a, wpa ≤ a → a < wpa + min 512 ((shapeOf p.dst).size - 512 * chunk) →
      dirtyByte s (wpa + i) ≠ a) := by
  have hn : min 512 ((shapeOf credCmd.dst).size - 512 * 0) = 8 := by decide +kernel
  refine ⟨0, 5, 0, 0x40000, sChunk credCmd [], credCmd, begins_of rfl (by decide +kernel), rfl, by decide +kernel, by decide +kernel,
    by decide +kernel, padRecord_of (by decide +kernel), by decide +kernel, by decide +kernel, by decide +kernel, by decide +kernel,
    by decide +kernel, ?_, by decide +kernel, fun i hi a h1 _ h => ?_⟩
  · rw [hn]
    exact plane_held (by decide +kernel) (by decide +kernel) (by decide +kernel)
  · rw [hn] at hi
    have hd : ∀ i, i < 8 → dirtyByte (sChunk credCmd []) (0x40000 + i) < 0x40000 := by decide +kernel
    have := hd i hi
    omega

/-- An AdamW descriptor of sharded state: the gradient at 0x3000, the moments at 0x4000 and 0x5000. -/
def adamBytes (shards self : Nat) : List Byte :=
  [1, 1, 0, 0] ++ toBytes 2 shards ++ toBytes 2 self ++ toBytes 4 0 ++ toBytes 4 1 ++ toBytes 24 0 ++ toBytes 8 0x1000 ++ toBytes 8 0x3000 ++
    toBytes 8 0 ++ toBytes 8 0x4000 ++ toBytes 8 0x5000 ++ List.replicate 48 0

/-- An UPD of 130 weights in HBM, whose first chunk is not done. -/
def adamCmd (shards self : Nat) : CopyCmd :=
  { copyCmd (.upd 0x2000 (adamBytes shards self) none) (recH 1 0 0x800000 [130] [0]) 0 2 false with consts := [0x3F800000, 0x3F000000, 0x3F000000] }

/-- Chunk 1 has two gradient elements: 1.0, and a given one. -/
def sAdam (shards self g : Nat) : State := sChunk (adamCmd shards self) [(scratchBase 0 + 0x3200, toBytes 4 0x3F800000 ++ toBytes 4 g)]

/-- Chunk 1 of the weights of an UPD that owns it, whose planes are all apart. -/
structure Adam (s : State) (p : CopyCmd) : Prop where
  begins : Begins s 0 5 1 p
  kind : p.kind = .upd 0x2000 (adamBytes 1 0) none ∧ p.consts = [0x3F800000, 0x3F000000, 0x3F000000]
  more : ∃ r, r < p.chunks ∧ r ≠ 1 ∧ fget? p.done r ≠ some true
  owned : owned p.optim 1 = true ∧ p.optim.malformed (shapeOf p.dst).fmt = false ∧ p.optim.gfmt = 0
  planes : ChunkPlanes s 0 p p.optim 1 8 0x40200 (scratchBase 0 + 0x6000) (scratchBase 0 + 0x3200) (scratchBase 0 + 0x4200) (scratchBase 0 + 0x5200)

theorem adam_sAdam (g : Nat) (h : g = 0 ∨ g = 0x7F800000) : Adam (sAdam 1 0 g) (adamCmd 1 0) := by
  have hs : ((sAdam 1 0 g).poison.isEmpty && (sAdam 1 0 g).soft.isEmpty) = true := by rcases h with rfl | rfl <;> decide +kernel
  have hd : ∀ a, dirtyByte (sAdam 1 0 g) a = dirtyByte (sAdam 1 0 0) a := fun _ => rfl
  have d1 : ∀ i, i < 1024 → dirtyByte (sAdam 1 0 0) (0x40200 + i) = 0 := by decide +kernel
  have d2 : ∀ i, i < 1024 → dirtyByte (sAdam 1 0 0) (scratchBase 0 + 0x4200 + i) = 0x30000000 := by decide +kernel
  have d3 : ∀ i, i < 1024 → dirtyByte (sAdam 1 0 0) (scratchBase 0 + 0x5200 + i) = 0x30000000 := by decide +kernel
  have d4 : ∀ i, i < 1024 → dirtyByte (sAdam 1 0 0) (scratchBase 0 + 0x6000 + i) = 0x30000000 := by decide +kernel
  have hb : scratchBase 0 = 0x1800000000000 := by decide +kernel
  refine ⟨begins_of rfl (by rcases h with rfl | rfl <;> decide +kernel), ⟨rfl, rfl⟩, ⟨0, by decide, by decide, by decide⟩, by decide +kernel,
    ⟨by decide +kernel, by decide +kernel, fun acc ha => ?_, fun hl => absurd hl (by decide +kernel), by decide +kernel,
     plane_local (by decide +kernel) (by decide +kernel) hs, fun acc _ => plane_local (by decide +kernel) (by decide +kernel) hs,
     fun _ acc _ => plane_local (by decide +kernel) (by decide +kernel) hs, ?_, ?_, ?_⟩⟩
  · rcases ha with rfl | rfl
    · exact plane_held (by decide +kernel) (by rcases h with rfl | rfl <;> decide +kernel) hs
    · exact plane_held (by decide +kernel) (by rcases h with rfl | rfl <;> decide +kernel) hs
  · intro i j _ _
    omega
  · intro i j _ _
    omega
  · rintro a b hb1 ⟨i, hi, h1⟩
    rw [hd, hd, hd, hd, d1 i hi, d2 i hi, d3 i hi, d4 i hi] at h1
    omega

theorem witness_update : ∃ (s t : State) (p : CopyCmd), Adam s p ∧ Adam t p ∧
    (∀ i, i < 2 → ¬ spoils s p.optim (scratchBase 0 + 0x3200) i) ∧ ∃ i, i < 2 ∧ spoils t p.optim (scratchBase 0 + 0x3200) i := by
  have hp : ∀ g i, inScratch (offOf (scratchBase 0 + 0x3200 + (adamCmd 1 0).optim.gBytes * i)) = true →
      (gradient (sAdam 1 0 g) (adamCmd 1 0).optim (scratchBase 0 + 0x3200) i).special = false →
      ¬ spoils (sAdam 1 0 g) (adamCmd 1 0).optim (scratchBase 0 + 0x3200) i := fun g i h1 h2 h => by
    rcases h with h | h
    · rw [h1] at h
      exact absurd h.1 (by decide)
    · rw [h2] at h
      exact absurd h (by decide)
  refine ⟨sAdam 1 0 0, sAdam 1 0 0x7F800000, adamCmd 1 0, adam_sAdam 0 (.inl rfl), adam_sAdam _ (.inr rfl), fun i hi => hp 0 i ?_ ?_,
    1, by decide, .inr (by decide +kernel)⟩
  · exact (by decide +kernel : ∀ i, i < 2 → inScratch (offOf (scratchBase 0 + 0x3200 + (adamCmd 1 0).optim.gBytes * i)) = true) i hi
  · exact (by decide +kernel :
      ∀ i, i < 2 → (gradient (sAdam 1 0 0) (adamCmd 1 0).optim (scratchBase 0 + 0x3200) i).special = false) i hi

/-- A chunk that another of two shards owns. -/
theorem witness_otherShard : ∃ (s : State) (p : CopyCmd), Begins s 0 5 1 p ∧ p.kind = .upd 0x2000 (adamBytes 2 0) none ∧
    p.consts = [0x3F800000, 0x3F000000, 0x3F000000] ∧ (∃ r, r < p.chunks ∧ r ≠ 1 ∧ fget? p.done r ≠ some true) ∧ owned p.optim 1 = false :=
  ⟨sAdam 2 0 0, adamCmd 2 0, begins_of rfl (by decide +kernel), rfl, rfl, ⟨0, by decide, by decide, by decide⟩, by decide +kernel⟩

/-! ### Boot and power -/

/-- An image of 0x1000 bytes at 0x10000, whose loader is the 0x100 bytes from 0x80 on; power is on and the boot ROM waits. -/
def sBoot : State :=
  { State.reset with power := true, regs := [(0x3000, 0x10), (rBOOTIMG, 0x10000), (rBOOTLEN, 0x1000)], mem := cellsOf 0x10000 [(8, [0x80]), (13, [1])] }

theorem witness_boot : ∃ (s t u : State) (a n : Nat), s.power = false ∧ t.power = true ∧ u.power = true ∧ u.bootState = 1 ∧ ImageAt u a n ∧
    number 4 (fun i => u.byte (a + 8 + i)) + number 4 (fun i => u.byte (a + 12 + i)) ≤ n :=
  ⟨{ State.reset with power := false }, sBoot, sBoot, 0x10000, 0x1000, rfl, rfl, rfl, by decide +kernel, by unfold ImageAt; decide +kernel, by decide +kernel⟩

/-- The reserve die, unused, is left without power (R353); and the module has started. -/
theorem witness_leftOff : ∃ (s t : State) (d : Nat), s.power = true ∧ s.bootState = 1 ∧ leftOff s d ∧ t.power = true ∧ t.bootState ≠ 1 :=
  ⟨sBoot, { sBoot with regs := [(0x3000, 0x40)] }, 8, rfl, by decide +kernel,
   ⟨by decide, by rw [show sBoot.dieActive 8 = false by decide +kernel]; rfl, by decide +kernel⟩, rfl, by decide +kernel⟩

/-- Power is on; EXTCTL, ATTCTL and ATTBUF as given. -/
def sExt (ext att : Word64) : State :=
  { State.reset with power := true, regs := [(0x3000, 0x40), (rEXTCTL, ext), (rATTCTL, att), (rATTBUF, 0x10000), (rSTRBUF, 0x20000)] }

theorem witness_extend : ∃ (i j : BitVec 3) (s t u : State), s.power = true ∧ t.power = true ∧ u.power = true ∧
    bitAt (s.regN rEXTCTL) 3 = false ∧ 4 ≤ i.toNat ∧ bitAt (s.regN rATTCTL) 1 = false ∧ j.toNat < 4 ∧
    bitAt (t.regN rEXTCTL) 3 = false ∧ bitAt (t.regN rATTCTL) 1 = true ∧ bitAt (u.regN rEXTCTL) 3 = true :=
  ⟨5, 1, sExt 0 0, sExt 0 2, sExt 8 2, rfl, rfl, rfl, by decide +kernel, by decide, by decide +kernel, by decide, by decide +kernel,
   by decide +kernel, by decide +kernel⟩

theorem witness_heldExtend : ∃ (s : State) (i : Nat) (d : List Byte) (rest : List (Nat × List Byte)), s.heldExtend = (i, d) :: rest ∧ i < 8 ∧
    bitAt (s.regN rATTCTL) 1 = false :=
  ⟨{ sExt 8 0 with heldExtend := [(5, List.replicate 32 7)] }, 5, List.replicate 32 7, [], rfl, by decide, by decide +kernel⟩

/-- The firmware extends MR2; and a report is asked for while an extend of MR5 is held. -/
theorem witness_firmwareExtend : ∃ (s t : State) (i : Nat) (d : List Byte), s.power = true ∧ i = 2 ∧ d.length = 32 ∧
    bitAt (s.regN rATTCTL) 1 = false ∧ t.power = true ∧ t.attSnap = none ∧ t.heldExtend = [(5, d)] :=
  ⟨sExt 0 0, { sExt 8 0 with heldExtend := [(5, List.replicate 32 7)] }, 2, List.replicate 32 7, rfl, rfl, rfl, by decide +kernel, rfl, rfl, rfl⟩

def sAtt : State := { sExt 0 3 with attSnap := some (List.replicate 288 9) }
theorem witness_attestation : ∃ (s t : State) (snap : List Byte), s.power = true ∧ s.attSnap = none ∧ t.power = true ∧ t.attSnap = some snap ∧
    snap.length = 288 ∧ HbmRange (t.regN rATTBUF) 448 :=
  ⟨sExt 0 1, sAtt, List.replicate 288 9, rfl, rfl, rfl, rfl, by decide +kernel, by decide +kernel, by decide +kernel, by decide +kernel,
   by decide +kernel⟩

theorem witness_throttle : ∃ (level : BitVec 4) (s : State), s.power = true ∧ level.toNat ≤ 12 := ⟨5, sExt 0 0, rfl, by decide⟩

/-- Die 2 is on, and has a byte of memory; die 3 is off. -/
def sDie : State :=
  { sExt 0 0 with regs := [(0x3000, 0x40), (rDIECTL 2, 1), (rMCSTAT 2, 2)], mem := [(2 * 2 ^ 49, 5), (3 * 2 ^ 49 + 9, 5)] }

theorem witness_diePower : ∃ (d e : Nat) (s : State), d ≤ 8 ∧ e ≤ 8 ∧ s.bootState = 4 ∧ bitAt (s.regN (rDIECTL d)) 0 = true ∧
    bitAt (s.regN (rDIECTL e)) 0 = false :=
  ⟨2, 3, sDie, by decide, by decide, by decide +kernel, by decide +kernel, by decide +kernel⟩

def sGated : State := { sExt 0 0 with mem := [(scratchBase 3 + 7, 5)] }
theorem witness_coreGating : ∃ (c : Nat) (s : State), c < 216 ∧ (s.core c).region = 0 ∧ (s.core c).gated = false :=
  ⟨3, sGated, by decide, rfl, rfl⟩

def strata (time seq : Nat) : Strata := { time := time, seq := seq, kind := 2, core := 0, ctx := 0, fatal := false, detail := [1, 2, 3] }
def sStrata : State := { sExt 0 0 with dies := [(1, { Die.init with strata := [strata 70 8, strata 65 7] })] }
theorem witness_strataDump : ∃ (s : State) (d : Nat) (v : Die) (e : Strata) (rest : List Strata), s.power = true ∧ s.dies = [(d, v)] ∧
    v.strata = e :: rest ∧ HbmRange (s.regN rSTRBUF + 0x40000 * d) (64 * (rest.length + 1)) :=
  ⟨sStrata, 1, _, strata 70 8, [strata 65 7], rfl, rfl, rfl, by decide +kernel, by decide +kernel, by decide +kernel, by decide +kernel⟩

def sLoss : State := { sDie with mem := [(2 * 2 ^ 49, 5)] }
theorem witness_dieLoss : ∃ (d : Nat) (s : State), d ≤ 8 ∧ s.bootState = 4 ∧ bitAt (s.regN (rDIECTL d)) 0 = true ∧ (s.die d).lost = false ∧
    (∀ e ∈ s.ctxs, e.2.arrivals = []) ∧ (∀ h ∈ s.hard, ∀ c ∈ h.2.ctxs, c.2.arrivals = []) ∧ s.tasks = [] ∧ s.regN rSTRSAVE = 0 ∧
    s.regN rSTRBUF = 0 :=
  ⟨2, sLoss, by decide, by decide +kernel, by decide +kernel, by decide +kernel, fun e he => absurd he List.not_mem_nil,
   fun e he => absurd he List.not_mem_nil, rfl, by decide +kernel, by decide +kernel⟩

/-! ### The host link, queues and translation -/

/-- READY with die 0 on; queue 0 of 16 entries at 0x20000 and 16 completions at 0x30000 is on and QTAIL is 1. -/
def queueRegs : List (Nat × Word64) :=
  [(0x1000, 0x20000), (0x1008, 0x11), (0x1010, 1), (0x1020, 0x30000), (0x1030, 5), (0x3000, 0x40), (0x4100, 1)]
def sHost : State := { mapped 5 State.reset with regs := queueRegs, mem := [(0x50004, 9)], nextId := 4 }

theorem witness_hostMemory : ∃ (addr : BitVec 64) (data : List Byte) (s : State), data.length ≤ 4096 ∧ data.length % 4 = 0 ∧
    PlainRange addr.toNat data.length ∧ HostMay s addr.toNat data.length ∧ Sound s addr.toNat data.length :=
  ⟨0x50000, [1, 2, 3, 4, 5, 6, 7, 8], sHost, by decide, by decide, by unfold PlainRange; decide +kernel, by unfold HostMay; decide +kernel,
   sound_of (by decide +kernel)⟩

/-- Die 1 is off; and the boot ROM waits for its image in the lead die's HBM. -/
theorem witness_hostRefused : ∃ (addr : BitVec 64) (data : List Byte) (s t : State), s.power = true ∧ ¬ HostMay s addr.toNat data.length ∧
    data.length ≤ 4096 ∧ data.length % 4 = 0 ∧ t.bootState = 1 ∧ HostMay t 0x50000 4 :=
  ⟨0x2000000050000, [1, 2, 3, 4], sHost, { sHost with regs := [(0x3000, 0x10)] }, rfl, by unfold HostMay; decide +kernel, by decide, by decide,
   by decide +kernel, by unfold HostMay; decide +kernel⟩

theorem witness_doorbell : ∃ (q r : Nat) (s : State), Open s q ∧ ¬ Open s r :=
  ⟨0, 1, sHost, by unfold Open; decide +kernel, by unfold Open; decide +kernel⟩

theorem witness_linkEvents : ∃ (type wrong : BitVec 16) (n d : Nat) (s : State), s.power = true ∧ 1 ≤ type.toNat ∧ type.toNat ≤ 8 ∧
    (wrong.toNat = 0 ∨ 8 < wrong.toNat) ∧ n < 4 ∧ s.link.getLsbD n = true ∧ d ≤ 8 :=
  ⟨3, 9, 2, 4, sHost, by decide +kernel, by decide, by decide, by decide, by decide, by decide +kernel, by decide⟩

theorem witness_registerWrite : ∃ (o p r : Nat) (s t : State), s.power = true ∧ wholeWrite o ∧ waitsForReady o ∧ s.bootState = 4 ∧
    neverWrites p ∧ t.power = true ∧ waitsForReady r ∧ t.bootState ≠ 4 :=
  ⟨rQBASE 3, rMCSTAT 2, rQCTL 3, sHost, State.reset, by decide +kernel, by unfold wholeWrite; exact .inr (.inr (.inr (.inr (.inr (.inr (.inr (.inr
   (.inr (.inr (.inr (.inr ⟨3, by decide, .inl rfl⟩))))))))))), by unfold waitsForReady; decide, by decide +kernel,
   .inr (.inr (.inr (.inr (.inr (.inl ⟨2, by decide, rfl⟩))))), by decide +kernel, by unfold waitsForReady; decide, by decide +kernel⟩

/-- A register with a bit that starts something, in READY; a queue's control; and registers that read as zero and as they are. -/
theorem witness_starts : ∃ (o p r : Nat) (v : Word64) (mask : Nat) (evs : List Event) (s : State), s.power = true ∧ starts o v = some (mask, evs) ∧
    s.bootState = 4 ∧ readsZero p ∧ p ≠ rFROVF ∧ p ≠ rEXTCTL ∧ ¬ readsZero r ∧ r ≠ rFROVF ∧ r ≠ rEXTCTL :=
  ⟨rSTRCTL, 0x2100, rQBASE 0, 0x201, 0x1FE, [.strataDump], sHost, rfl, by decide +kernel, by decide +kernel, .inr (.inl rfl), by decide, by decide,
   fun h => by
     rcases h with h | h | h | ⟨w, hw, h⟩
     · exact absurd h (by decide +kernel)
     · exact absurd h (by decide)
     · exact absurd h (by decide)
     · unfold rEXTDIG rNONCE rQBASE at h
       omega,
   by decide, by decide⟩

theorem witness_cheadWrite : ∃ (q : Nat) (s : State), q < 64 ∧ s.bootState = 4 := ⟨0, sHost, by decide, by decide +kernel⟩

/-- Entry 0 of queue 0: OP, FLAGS, ASID 5, 1, RCB, TASK, USER. -/
def entryBytes (op : Nat) (rcb task : Nat) : List Byte :=
  toBytes 1 op ++ [0] ++ toBytes 2 5 ++ toBytes 2 1 ++ [0, 0] ++ toBytes 8 rcb ++ toBytes 8 task ++ toBytes 8 77
/-- The RCB at 0x800100 asks for ASID 5, PRI 3, domain TASK, one core, four contexts, 32 banks. -/
def rcbBytes : List Byte := toBytes 8 0 ++ toBytes 2 5 ++ [3, 0] ++ toBytes 4 0 ++ toBytes 4 1 ++ toBytes 4 4 ++ toBytes 4 32
/-- The record at 0x800000 is NEW, an entry task of region 1. -/
def newRecord : List Byte := toBytes 8 0x100000 ++ toBytes 8 0 ++ toBytes 8 0x900000 ++ toBytes 4 0 ++ toBytes 2 9 ++ [0xF8, 0]
def sQueue (op : Nat) : State :=
  { sHost with
    mem := cellsOf 0x20000 [(0, entryBytes op (if op = 1 then 0x800100 else 0x900000) (if op = 2 then 0x800000 else 0)),
      (0x20000, newRecord), (0x20100, rcbBytes)] |>.filter (·.2 ≠ 0)
    regions := if op = 2 then [region1] else [] }

theorem reads_sQueue {op : Nat} (h : ((sQueue op).regs = queueRegs) ∧ (sQueue op).queue = [] ∧ ((sQueue op).poison.isEmpty && (sQueue op).soft.isEmpty) = true) :
    Reads (sQueue op) 0 0 := by
  obtain ⟨h1, h2, h3⟩ := h
  have hr : ∀ o, (sQueue op).regN o = ({ State.reset with regs := queueRegs } : State).regN o := fun o => by
    simp only [State.regN, State.reg, h1]
  have hf : ∀ o hi lo, (sQueue op).regF o hi lo = ({ State.reset with regs := queueRegs } : State).regF o hi lo := fun o hi lo => by
    simp only [State.regF, hr]
  have hb : (sQueue op).bootState = ({ State.reset with regs := queueRegs } : State).bootState := by
    simp only [State.bootState, hf]
  refine ⟨⟨by decide, by rw [hb]; decide +kernel, by rw [hr]; decide +kernel, by rw [hr]; decide +kernel⟩,
    ⟨by rw [hf]; decide +kernel, by rw [hf]; decide +kernel⟩, by rw [hr]; decide +kernel, ?_, ?_, ?_, ?_, fun e he => ?_⟩
  · unfold entries
    rw [hr, hr, hf]
    decide +kernel
  · unfold entries
    rw [hr, hf]
    decide +kernel
  · rw [hr]
    unfold HbmRange
    decide +kernel
  · exact sound_of h3
  · rw [h2] at he
    exact absurd he List.not_mem_nil

/-- The region that the LAUNCH makes. -/
def launched : Region :=
  { id := 5, asid := 5, rcb := 0x800100, rcbAsid := 5, parent := none, pri := 3, fault := 0, cores := 1, contexts := 4, banks := 32,
    vault := 0, hbm := 0, tv := 0, state := .waiting, order := 5, admitOrder := 0, place := [], queue := some 0, holdFlag := false,
    used := false, stopping := false, halting := false }

theorem witness_launch : ∃ (q i pa : Nat) (s : State) (g : Region) (bs : List Byte), Reads s q i ∧ entryField s q i 0 1 = 1 ∧
    entryField s q i 2 2 < 4096 ∧
    Mapped s (schedReq (entryField s q i 2 2) s.lead) accRead (ofN (entryField s q i 8 8)) pa ∧
    Mapped s (schedReq (entryField s q i 2 2) 0) accWrite (ofN (entryField s q i 8 8)) pa ∧ Sound s pa 64 ∧
    bs = (List.range 64).map (fun j => s.byte (pa + j)) ∧
    ({ s with nextId := s.nextId + 1 } : State).regionOf (entryField s q i 2 2) (ofN (entryField s q i 8 8)) q
      (bitAt (entryField s q i 1 1) 1) bs = some g ∧ dirtyByte s (pa + 0x0C) ≠ pa + 0x0C :=
  ⟨0, 0, 0x40100, sQueue 1, launched, _, reads_sQueue ⟨rfl, rfl, rfl⟩, by decide +kernel, by decide +kernel,
   mapped_held (by decide +kernel), mapped_held (by decide +kernel), sound_of (by decide +kernel), rfl, by decide +kernel, by decide +kernel⟩

theorem witness_post : ∃ (q i pa : Nat) (s : State) (r g : Region), Reads s q i ∧ entryField s q i 0 1 = 2 ∧ entryField s q i 4 2 = 1 ∧
    s.regions.find? (fun u => u.rcb == ofN (entryField s q i 8 8) && u.rcbAsid == entryField s q i 2 2 && u.admitted) = some r ∧
    Postable s (entryField s q i 2 2) (ofN (entryField s q i 0x10 8)) pa g r.id ∧
    RecordAt s (entryField s q i 2 2) (s.ownerDie (ofN (entryField s q i 0x10 8))) (ofN (entryField s q i 0x10 8)) pa :=
  ⟨0, 0, 0x40000, sQueue 2, region1, region1, reads_sQueue ⟨rfl, rfl, rfl⟩, by decide +kernel, by decide +kernel, by decide +kernel,
   ⟨by decide +kernel, by decide +kernel, by decide +kernel, by decide +kernel, by decide +kernel, by decide +kernel,
    by decide +kernel, by decide +kernel, by decide +kernel, sound_of (by decide +kernel)⟩,
   recordAt_of (by decide +kernel) (by decide +kernel) (by decide +kernel)⟩

theorem witness_markerAndBadOp : ∃ (q i : Nat) (s t : State), Reads s q i ∧ entryField s q i 0 1 = 3 ∧ Reads t q i ∧ 4 ≤ entryField t q i 0 1 :=
  ⟨0, 0, sQueue 3, sQueue 9, reads_sQueue ⟨rfl, rfl, rfl⟩, by decide +kernel, reads_sQueue ⟨rfl, rfl, rfl⟩, by decide +kernel⟩

/-- A POST of queue 0 whose records are complete, and a MARKER after it. -/
def qEntry (id op : Nat) : QEntry :=
  { id := id, q := 0, index := 3, op := op, flags := 0, user := 77, asid := 5, rcb := 0x900000, task := 0, ntask := 1, posted := op == 2,
    region := none, nfault := 2, status := 0, done := false, held := false, recs := [] }
def sServed : State := { sHost with queue := [qEntry 2 2, qEntry 3 3] }

theorem witness_completion : ∃ (n : Nat) (s : State) (e : QEntry), s.queue.find? (·.id == n) = some e ∧ (e.op ≠ 1 ∨ e.region = none) ∧
    (e.done = true ∨ (e.op = 2 ∧ e.posted = true ∧ e.recs = []) ∨ (e.op = 3 ∧ ∀ f ∈ s.queue, f.q = e.q → e.id ≤ f.id)) ∧
    let c := entries s e.q
    let i := s.regN (rCTAIL e.q) % c
    (s.regN (rCTAIL e.q) + 1) % c ≠ s.regN (rCHEAD e.q) % c ∧ HbmRange (s.regN (rCBASE e.q) + 32 * i) 32 ∧
      bitAt (s.regN (rQSTAT e.q)) 0 = false :=
  ⟨2, sServed, qEntry 2 2, by decide +kernel, .inl (by decide), .inr (.inl (by decide)), by decide +kernel, by unfold HbmRange; decide +kernel,
   by decide +kernel⟩

/-- The region of core 0 was launched by queue 0, which has one entry unread. -/
def sDown : State :=
  { sQueue 3 with regions := [{ launched with place := [0], state := .admitted }], cores := [(0, { Core.init with region := 5 })], nextId := 9 }

theorem witness_teardown : ∃ (q : Nat) (s : State), q < 64 ∧ s.bootState = 4 ∧ bitAt (s.regN (rQSTAT q)) 0 = false ∧ 4 ≤ s.regF (rQCTL q) 7 2 ∧
    s.regF (rQCTL q) 7 2 ≤ 16 ∧ Unlisted s q ∧ s.tasks = [] ∧ (∀ i, i < entries s q → HbmRange (s.regN (rQBASE q) + 64 * i) 64 ∧
    Sound s (s.regN (rQBASE q) + 64 * i) 64) ∧ ∀ r ∈ s.regions, r.state ≠ .released → (∀ x, (s.ctx x).region ≠ r.id) ∧ r.parent = none ∧ Sole s r := by
  have h : ∀ i, i < 16 → HbmRange (0x20000 + 64 * i) 64 := by
    unfold HbmRange
    decide +kernel
  refine ⟨0, sDown, by decide, by decide +kernel, by decide +kernel, by decide +kernel, by decide +kernel,
    fun e he => absurd he List.not_mem_nil, rfl, fun i hi => ⟨?_, sound_of (by decide +kernel)⟩, fun r hr _ => ?_⟩
  · have he : entries sDown 0 = 16 := by decide +kernel
    have hq : sDown.regN (rQBASE 0) = 0x20000 := by decide +kernel
    rw [he] at hi
    rw [hq]
    exact h i hi
  · obtain rfl := List.mem_singleton.1 hr
    exact ⟨fun x => show (0 : Nat) ≠ 5 by decide, rfl, sole_one rfl⟩

/-- Die 0 translates the page 0x80 of ASID 5; core 3 has a line of it. -/
def sLines : State := { sHost with cores := [(3, { Core.init with istore := [{ asid := 5, block := 0x800, bytes := [], big := false }] })] }

theorem witness_invalidate : ∃ (d : Nat) (v w u : Word64) (s : State), Invalidates s d 0 v ∧ Invalidates s d 1 w ∧ Invalidates s d 2 u ∧ d ≤ 8 :=
  ⟨0, 0x800051, 0x55, 0x9, sLines, by unfold Invalidates; decide +kernel, by unfold Invalidates; decide +kernel,
   by unfold Invalidates; decide +kernel, by decide⟩

theorem witness_ldtDrop : ∃ (l : Nat) (s : State), l < 32768 ∧ s.bootState = 4 ∧ bitAt (s.regN rLDTCTL) 0 = false :=
  ⟨0, sHost, by decide, by decide +kernel, by decide +kernel⟩

/-- Entry 1 of the table names die 2 in memory and has been dropped, having named die 1. -/
def sRemap (old : FMap Word64) : State :=
  { sHost with regs := queueRegs.take 5 ++ [(rLDTBASE, 0x60000), (rLDTCTL, 0x10001)] ++ queueRegs.drop 5, mem := [(0x60008, 1), (0x60009, 0x40)], ldtOld := old }

theorem witness_ldtDone : ∃ (s t : State) (l : Nat) (e n : Word64), bitAt (s.regN rLDTCTL) 0 = true ∧ s.ldtOld = [] ∧
    bitAt (t.regN rLDTCTL) 0 = true ∧ t.ldtOld = [(l, e)] ∧ t.ldtEntry l = n ∧ t.regF rLDTCTL 30 16 = l ∧ bitAt n.toNat 0 = true ∧ fld e.toNat 16 1 ≠ fld n.toNat 16 1 :=
  ⟨sRemap [], sRemap [(1, 0x2001)], 1, 0x2001, 0x4001, by decide +kernel, rfl, by decide +kernel, rfl, by decide +kernel, by decide +kernel, by decide, by decide⟩

/-! ### The whole machine -/

theorem witness_roundTrip : ∃ i : Instr, i.wellFormed = true ∧ encode i ≠ [] :=
  ⟨.add { sk := true, d := 1, a := 2, b := 3, wa := true, wb := false }, by decide, by decide⟩

/-- Context 0 runs at 0x100, where a bundle of one ADD in slot 0 stands. -/
def sOne : State :=
  { State.reset with
    ctxs := [(0, { Ctx.init with state := .running, pc := 0x100, jumped := true })]
    cores := [(0, { Core.init with issuing := 0, last := 0 })]
    mem := cellsOf (scratchBase 0) [(0x100, toBytes 4 0xF8000000 ++ toBytes 4 0x00104104)] |>.filter (·.2 ≠ 0) }

theorem witness_stepRuns : ∃ (s : State) (x n h w e : Nat) (i : Instr), OneSlot s x n h w e ∧ AboutToIssue s x n ∧ decodeSlot n w e = some i := by
  refine ⟨sOne, 0, 0, 0xF8000000, 0x00104104, 0, .add { sk := false, d := 1, a := 1, b := 1, wa := false, wb := false },
    ⟨by decide, by decide, by decide, by decide, by decide +kernel, rfl, sound_of (by decide +kernel), by decide +kernel, by decide +kernel, by decide,
      by decide⟩,
    ⟨by decide +kernel, by decide +kernel, rfl, rfl, by decide, fun i _ => rfl⟩, by decide +kernel⟩

theorem witness_bundleIssue : ∃ (s : State) (x n h w e : Nat) (i : Instr) (r : RR) (f : Word64 → Word64 → Word64), OneSlot s x n h w e ∧
    AboutToIssue s x n ∧ decodeSlot n w e = some i ∧ binary i = some (r, f) ∧ Plain { s with cur := issueAt s x n h w } ∧
    full { s with cur := issueAt s x n h w } (srcRR r) :=
  ⟨sOne, 0, 0, 0xF8000000, 0x00104104, 0, .add { sk := false, d := 1, a := 1, b := 1, wa := false, wb := false }, _, _,
   ⟨by decide, by decide, by decide, by decide, by decide +kernel, rfl, sound_of (by decide +kernel), by decide +kernel, by decide +kernel, by decide,
    by decide⟩,
   ⟨by decide +kernel, by decide +kernel, rfl, rfl, by decide, fun _ _ => rfl⟩, by decide +kernel, rfl, plain_of (by decide +kernel),
   full_of (by decide +kernel)⟩

/-- A state that places one instruction, and its next state. -/
def sPlaced : State := State.reset.withFetchWord 64 0x00104104

theorem steps_sPlaced : stepsOn sPlaced = true := by decide +kernel

theorem witness_kept : ∃ s t : State, Safety.Inv s ∧ StoresFormed s ∧ NumbersFresh s ∧ Machine.step s = .next t := by
  have h : Safety.Inv sPlaced ∧ StoresFormed sPlaced ∧ NumbersFresh sPlaced := by
    unfold Safety.Inv StoresFormed NumbersFresh EveryCore Numbered
    decide +kernel
  have hs := steps_sPlaced
  unfold stepsOn at hs
  split at hs
  · rename_i t ht
    exact ⟨sPlaced, t, h.1, h.2.1, h.2.2, ht⟩
  · exact absurd hs (by decide)

/-! ### Ill-formed terms, each refused by its check -/

def refusesAll (l : List Instr) : Bool := l.all fun i => !i.wellFormed

def rr0 : RR := { sk := false, d := 1, a := 2, b := 3, wa := false, wb := false }
def ri0 : RI := { sk := false, d := 1, a := 2, wa := false, imm := 64 }
def ld0 : Ld := { sk := false, d := 1, a := 2, cls := 0, ord := 0, wa := false, disp := 0, stride := 0, scope := 0 }
def st0 : St := { sk := false, d := 1, a := 2, cls := 0, ord := 0, wa := false, wd := false, disp := 0, stride := 0, scope := 0 }
def at0 : At := { sk := false, d := 2, a := 2, cls := 0, ord := 0, wa := false, wd := false, disp := 0, stride := 0, scope := 0 }
def ato0 : Ato := { sk := false, d := 2, a := 2, cls := 0, ord := 0, opt := false, wa := false, wd := false, disp := 0, stride := 0, scope := 0 }
def vf0 : VF := { sk := false, w := 2, d := 2, a := 3, b := 0, c := 0, p := 0, wa := false, wb := false, wc := false, fi := false, fo := false, sat := false, sub := 0 }
def vm0 : VM := { sk := false, w := 2, v := 1, s := 2, wb := false, wv := false, disp := 0, stride := 0, cls := 0, p := 0 }
def vg0 : VG := { sk := false, w := 2, v := 1, s := 2, wb := false, wv := false, x := 3, wx := false, cls := 0, p := 0 }
def mma0 : Mma := { sk := false, qe := false, q := 0, b := 1, ga := 0, gb := 1, ka := false, kb := false, wit := false, km := 0 }
def mcnt0 : Mcnt := { sk := false, qe := false, q := 0, n := 0, ga := 0, gb := 1, ka := false, kb := false, km := 0 }
def copyX0 : CopyX := { stride := 0, a := 0, wa := false, ba := false }
def copy0 : Copy := { sk := false, qe := false, q := 0, hd := 0, hs := 1, cid := 0, ds := false, dt := false }
def cidx0 : Cidx := { sk := false, qe := false, q := 0, hd := 0, hs := 1, cid := 0, stride := 0, a := 0, wa := false, ba := false, x := 1, wx := false }
def nimg0 : Nimg := { sk := false, qe := false, q := 0, n := 0, a := 1, wa := false }

theorem test_illFormed_scalar : refusesAll [
    .cmp 10 rr0, .cmpImmediate 10 ri0, .bc 15 { a := 1, b := 2, wa := false, wb := false, off := 0 }, .shlImmediate ri0, .shrImmediate ri0,
    .sraImmediate ri0, .bfx { sk := false, d := 1, a := 2, wa := false, wm1 := 63, pos := 1 },
    .bfi { sk := false, d := 1, a := 2, wa := false, wd := false, wm1 := 32, pos := 32 }] = true := by decide

theorem test_illFormed_memory : refusesAll [
    .ldD { ld0 with ord := 2 }, .ldB { ld0 with scope := 1 }, .ldW { ld0 with ord := 1, scope := 5 }, .ldH { ld0 with stride := 1 },
    .stD { st0 with ord := 1 }, .stB { st0 with scope := 1 }, .stW { st0 with ord := 2, scope := 5 }, .stH { st0 with stride := 1 },
    .atopAdd { at0 with scope := 1 }, .atswp { at0 with ord := 1, scope := 7 }, .atadds { at0 with d := 3 }, .atopMax { at0 with stride := 2 },
    .atcas { ato0 with d := 3 }, .atcas { ato0 with scope := 1 }, .atfadd { ato0 with d := 5 }, .atfadd { ato0 with opt := true, scope := 1 },
    .fence { scope := 5, kind := 0 }] = true := by decide

theorem test_illFormed_vector : refusesAll [
    .vadd { vf0 with d := 320 }, .vadd { vf0 with c := 1 }, .vmul { vf0 with sat := true }, .vmul { vf0 with sub := 1 }, .vabs { vf0 with b := 1 },
    .vfadd { vf0 with w := 0 }, .vfadd { vf0 with sub := 1 }, .vfadd { vf0 with w := 1, sub := 2 }, .vfma { vf0 with c := 320 },
    .vrcp { vf0 with b := 1 }, .vcmp 10 vf0, .vcmp 0 { vf0 with d := 16 }, .vfcmp 8 vf0, .vfcmp 0 { vf0 with fo := true }, .pand vf0,
    .pnot { vf0 with w := 0, b := 1 }, .ppop { vf0 with d := 64 }, .pfirst { vf0 with a := 16 }, .vcvt { vf0 with w := 0, c := 0x18 },
    .vcvt { vf0 with w := 0, c := 1, sub := 2 }, .vcvt { vf0 with w := 0, c := 1, sat := true }, .vcvt { vf0 with w := 0, c := 0x0D, fi := true },
    .vsxpack { vf0 with w := 0, sub := 3 }, .vsxunpack { vf0 with w := 3 }, .vperm { vf0 with sub := 1 }, .vshuf { vf0 with sub := 5 },
    .vshuf { vf0 with sub := 4, b := 1 }, .vbcast { vf0 with a := 64 }, .vmovs { vf0 with sub := 2 }, .vmovs { vf0 with d := 64, sub := 1 },
    .vsel { vf0 with c := 16 }, .vcompress { vf0 with b := 1 }, .vred { vf0 with fi := true }, .vscan { vf0 with w := 0, sub := 5 },
    .vtopk { vf0 with c := 33 }, .vtopk { vf0 with d := 1, c := 8 }, .vtopk { vf0 with b := 1, c := 8 }, .vtopk { vf0 with c := 8, sub := 3 },
    .vlpmul vf0, .vlpcvt vf0, .vlpsplit { vf0 with w := 3, sub := 4 }, .vlpjoin { vf0 with w := 3, sub := 2 },
    .vrand { vf0 with a := 0, w := 1, sub := 1 }, .vrand vf0] = true := by decide

theorem test_illFormed_vectorMemory : refusesAll [
    .vld { vm0 with v := 320 }, .vld { vm0 with wv := true }, .vst { vm0 with stride := 1 }, .vlds { vm0 with s := 63 },
    .vsts { vm0 with s := 63 }, .vldb { vm0 with stride := 1 }, .vgath { vg0 with x := 320 }, .vscat { vg0 with v := 321 }] = true := by decide

theorem test_illFormed_streams : refusesAll [
    .fopenExt { f := 0, a := 1, wa := false, o := true, disp := 0 } { b := 63, wb := false, segi := 0 },
    .fldv { sk := false, f := 0, w := 2, k := false, side := false, vd := 320, a := 1, wa := false },
    .fcrd { sk := false, f := 0, w := 1, k := false, vd := 1 }, .femit { sk := false, f := 0, w := 2, p := 0, wv := false, v := 319 },
    .fstat { sk := false, f := 0, d := 1, sel := 6 }] = true := by decide

theorem test_illFormed_matrix : refusesAll [
    .xexpv { sk := false, wa := false, va := 320 }, .xcvt { sk := false, b := 0, mode := 2, e := 0 },
    .hldExt { sk := false, h := 0, a := 1, wa := false } { stride := 1, disp := 0 },
    .hstExt { sk := false, h := 0, a := 1, wa := false } { stride := 1, disp := 0 },
    .hset { sk := false, h := 0, field := 10, a := 1, wa := false }, .hfence { one := false, a := 1, wa := false },
    .acalloc { qe := false, q := 0, b := 0, fmt := 3 },
    .acrd { sk := false, qe := false, q := 0, b := 0, row := 0, h := false, stride := 1, vd := 1 },
    .acwr { sk := false, qe := false, q := 0, b := 0, row := 0, h := false, stride := 0, wv := false, vs := 320 },
    .mmaBf16 { mma0 with km := 1024 }, .mmaBf16 { mma0 with wit := true }, .mmaInt8 { mma0 with km := 2048 }, .mmaSx8 { mma0 with km := 1 },
    .mmaInt8 { mma0 with gb := 0, ka := true }, .mcntInt4 { mcnt0 with n := 2 }, .mcntE2m1 { mcnt0 with gb := 0, ka := true },
    .nclr { qe := false, q := 0, n := 2 }, .nmerge { nimg0 with n := 2 }, .ndump { nimg0 with n := 3 }, .nload { nimg0 with n := 2 },
    .ndrain { sk := false, qe := false, q := 0, b := 0, n := 2, c := false, r := false },
    .nchk { sk := false, qe := false, q := 0, n := 2, d := 1 },
    .rgset { qe := false, q := 0, g := 0, size := 1, base := 0xC000 }] = true := by decide

theorem test_illFormed_copies : refusesAll [
    .copyExt copy0 { copyX0 with a := 1 }, .copyExt copy0 { copyX0 with stride := 1 }, .cgath { cidx0 with a := 1 }, .cscat { cidx0 with stride := 1 },
    .tmode { mode := 5, a := 1, wa := false, b := 2, wb := false }, .tfwd { sk := false, qe := false, q := 0, a := 1, wa := false, ph := 0, w := 1 },
    .trevExt { sk := false, qe := false, q := 0, a := 1, wa := false } { stride := 1, disp := 0 },
    .twclr { sk := false, all := true, w := 1 }, .tstat { sk := false, d := 1, sel := 4 }] = true := by decide

/-- A tile predicate that is not in use (R119, R131). -/
theorem test_illFormed_tile : refusesAll [
    .acalloc { qe := false, q := 1, b := 0, fmt := 0 }, .mmaBf16 { mma0 with q := 1 }, .mcntInt4 { mcnt0 with q := 7 }, .nload { nimg0 with q := 2 },
    .copy { copy0 with q := 1 }, .copyExt { copy0 with q := 1 } copyX0, .cgath { cidx0 with q := 4 },
    .tfwd { sk := false, qe := false, q := 1, a := 1, wa := false, ph := 0, w := 0 }] = true := by decide

theorem test_wellFormed : ([.cmp 9 rr0, .shlImmediate { ri0 with imm := 63 }, .ldD ld0, .stD st0, .atadds at0, .atcas ato0, .vadd vf0, .vld vm0,
    .vgath vg0, .mmaBf16 mma0, .mcntInt4 mcnt0, .copyExt copy0 copyX0, .cgath cidx0, .nload nimg0,
    .copy { copy0 with qe := true, q := 5 }] : List Instr).all (·.wellFormed) = true := by
  decide

/-! ### Words that name no instruction (R114, R119, R131) -/

theorem test_reserved : ([0xF0000000, 0x01E00000, 0x0C104104, 0x40000203, 0x80E00000, 0x00000004000118004008] : List Nat).all (fun w =>
    (decodeTableWord 64 w).isNone) = true := by decide +kernel

/-! ### Words of the spec's encodings -/

/-- Every word decodes to its instruction. -/
def decodesTo (l : List (Nat × Instr)) : Bool := l.all fun p => decodeTableWord 64 p.1 == some p.2

theorem test_decode_major0_0 : decodesTo [
  (0x00000000, .sNop),
  (0x0418EB53, .add { sk := true, d := 0x23#6, a := 0x2b#6, b := 0x14#6, wa := true, wb := true }),
  (0x0428EB53, .sub { sk := true, d := 0x23#6, a := 0x2b#6, b := 0x14#6, wa := true, wb := true }),
  (0x0438EB53, .mul { sk := true, d := 0x23#6, a := 0x2b#6, b := 0x14#6, wa := true, wb := true }),
  (0x0448EB53, .mulh { sk := true, d := 0x23#6, a := 0x2b#6, b := 0x14#6, wa := true, wb := true }),
  (0x0458EB53, .mulhu { sk := true, d := 0x23#6, a := 0x2b#6, b := 0x14#6, wa := true, wb := true }),
  (0x0468EB53, .div { sk := true, d := 0x23#6, a := 0x2b#6, b := 0x14#6, wa := true, wb := true }),
  (0x0478EB53, .divu { sk := true, d := 0x23#6, a := 0x2b#6, b := 0x14#6, wa := true, wb := true }),
  (0x0488EB53, .rem { sk := true, d := 0x23#6, a := 0x2b#6, b := 0x14#6, wa := true, wb := true }),
  (0x0498EB53, .remu { sk := true, d := 0x23#6, a := 0x2b#6, b := 0x14#6, wa := true, wb := true }),
  (0x04A8EB53, .and { sk := true, d := 0x23#6, a := 0x2b#6, b := 0x14#6, wa := true, wb := true }),
  (0x04B8EB53, .or { sk := true, d := 0x23#6, a := 0x2b#6, b := 0x14#6, wa := true, wb := true })] = true := by decide +kernel

theorem test_decode_major0_1 : decodesTo [
  (0x04C8EB53, .xor { sk := true, d := 0x23#6, a := 0x2b#6, b := 0x14#6, wa := true, wb := true }),
  (0x04D8EB53, .andn { sk := true, d := 0x23#6, a := 0x2b#6, b := 0x14#6, wa := true, wb := true }),
  (0x04E8EB53, .shl { sk := true, d := 0x23#6, a := 0x2b#6, b := 0x14#6, wa := true, wb := true }),
  (0x04F8EB53, .shr { sk := true, d := 0x23#6, a := 0x2b#6, b := 0x14#6, wa := true, wb := true }),
  (0x0508EB53, .sra { sk := true, d := 0x23#6, a := 0x2b#6, b := 0x14#6, wa := true, wb := true }),
  (0x0518EB53, .min { sk := true, d := 0x23#6, a := 0x2b#6, b := 0x14#6, wa := true, wb := true }),
  (0x0528EB53, .max { sk := true, d := 0x23#6, a := 0x2b#6, b := 0x14#6, wa := true, wb := true }),
  (0x0538EB53, .minu { sk := true, d := 0x23#6, a := 0x2b#6, b := 0x14#6, wa := true, wb := true }),
  (0x0548EB53, .maxu { sk := true, d := 0x23#6, a := 0x2b#6, b := 0x14#6, wa := true, wb := true }),
  (0x0558DB02, .clz { sk := true, d := 0x23#6, a := 0x1b#6, wa := true }),
  (0x0568DB02, .ctz { sk := true, d := 0x23#6, a := 0x1b#6, wa := true }),
  (0x0578DB02, .popc { sk := true, d := 0x23#6, a := 0x1b#6, wa := true })] = true := by decide +kernel

theorem test_decode_major0_2 : decodesTo [
  (0x05A8DB02, .mov { sk := true, d := 0x23#6, a := 0x1b#6, wa := true }),
  (0x0000059E0D8A3302, .bfx { sk := true, d := 0x28#6, a := 0x33#6, wa := true, wm1 := 0x16#6, pos := 0x1e#6 }),
  (0x000009D00D95B303, .bfi { sk := true, d := 0x16#6, a := 0x33#6, wa := true, wd := true, wm1 := 0x27#6, pos := 0x10#6 }),
  (0x0685D6F3, .cmp 0x8#4 { sk := true, d := 0x17#6, a := 0x16#6, b := 0x3c#6, wa := true, wb := true }),
  (0x000000550DBA3F43, .csel { sk := true, d := 0x28#6, a := 0x3f#6, b := 0x10#6, wa := true, wb := true, wc := true, c := 0x15#6 }),
  (0x7177694C0C1D2F02, .addImmediate { sk := true, d := 0x34#6, a := 0x2f#6, wa := true, imm := 0x7177694c#31 }),
  (0x7177694C0C2D2F02, .subImmediate { sk := true, d := 0x34#6, a := 0x2f#6, wa := true, imm := 0x7177694c#31 }),
  (0x7177694C0C3D2F02, .mulImmediate { sk := true, d := 0x34#6, a := 0x2f#6, wa := true, imm := 0x7177694c#31 }),
  (0x7177694C0CAD2F02, .andImmediate { sk := true, d := 0x34#6, a := 0x2f#6, wa := true, imm := 0x7177694c#31 }),
  (0x7177694C0CBD2F02, .orImmediate { sk := true, d := 0x34#6, a := 0x2f#6, wa := true, imm := 0x7177694c#31 }),
  (0x7177694C0CCD2F02, .xorImmediate { sk := true, d := 0x34#6, a := 0x2f#6, wa := true, imm := 0x7177694c#31 }),
  (0x7177694C0CDD2F02, .andnImmediate { sk := true, d := 0x34#6, a := 0x2f#6, wa := true, imm := 0x7177694c#31 })] = true := by decide +kernel

theorem test_decode_major0_3 : decodesTo [
  (0x000000010CE71D02, .shlImmediate { sk := true, d := 0x1c#6, a := 0x1d#6, wa := true, imm := 0x00000001#31 }),
  (0x000000010CF71D02, .shrImmediate { sk := true, d := 0x1c#6, a := 0x1d#6, wa := true, imm := 0x00000001#31 }),
  (0x000000010D071D02, .sraImmediate { sk := true, d := 0x1c#6, a := 0x1d#6, wa := true, imm := 0x00000001#31 }),
  (0x7177694C0D1D2F02, .minImmediate { sk := true, d := 0x34#6, a := 0x2f#6, wa := true, imm := 0x7177694c#31 }),
  (0x7177694C0D2D2F02, .maxImmediate { sk := true, d := 0x34#6, a := 0x2f#6, wa := true, imm := 0x7177694c#31 }),
  (0x7177694C0D3D2F02, .minuImmediate { sk := true, d := 0x34#6, a := 0x2f#6, wa := true, imm := 0x7177694c#31 }),
  (0x7177694C0D4D2F02, .maxuImmediate { sk := true, d := 0x34#6, a := 0x2f#6, wa := true, imm := 0x7177694c#31 }),
  (0x215B6E130E2E6E02, .cmpImmediate 0x2#4 { sk := true, d := 0x39#6, a := 0x2e#6, wa := true, imm := 0x215b6e13#31 })] = true := by decide +kernel

theorem test_decode_major1_0 : decodesTo [
  (0x15950D3B1C08C004, .li { sk := true, d := 0x23#6, i31 := true, imm := 0x15950d3b#31 }),
  (0x259406101C1CFF06, .lih { sk := true, d := 0x33#6, a := 0x3f#6, wa := true, i31 := true, imm := 0x25940610#31 }),
  (0x1DC9F0E61C2B800C, .la { sk := true, d := 0x2e#6, m := true, i31 := true, imm := 0x1dc9f0e6#31 }),
  (0x15FE13C118800004, .br { dis := true, off := 0x15fe13c1#31 }),
  (0x1202584E189B0004, .call { d := 0x2c#6, dis := true, off := 0x1202584e#31 }),
  (0x1A579ED319603587, .bc 0x6#4 { a := 0x35#6, b := 0x21#6, wa := true, wb := true, off := 0x1a579ed3#31 }),
  (0x10A02F02, .jr { a := 0x2f#6, wa := true }),
  (0x10BAA902, .callr { d := 0x2a#6, a := 0x29#6, wa := true }),
  (0x10C02F02, .ret { a := 0x2f#6, wa := true })] = true := by decide +kernel

theorem test_decode_major2_0 : decodesTo [
  (0x12DFA8A22C08A7CA, .ldB { sk := true, d := 0x22#6, a := 0x27#6, cls := 0x6#3, ord := 0x1#2, wa := true, disp := 0x12df#15, stride := 0x1514#13, scope := 0x2#3 }),
  (0x12DFA8A22C18A7CA, .ldBu { sk := true, d := 0x22#6, a := 0x27#6, cls := 0x6#3, ord := 0x1#2, wa := true, disp := 0x12df#15, stride := 0x1514#13, scope := 0x2#3 }),
  (0x12DFA8A22C28A7CA, .ldH { sk := true, d := 0x22#6, a := 0x27#6, cls := 0x6#3, ord := 0x1#2, wa := true, disp := 0x12df#15, stride := 0x1514#13, scope := 0x2#3 }),
  (0x12DFA8A22C38A7CA, .ldHu { sk := true, d := 0x22#6, a := 0x27#6, cls := 0x6#3, ord := 0x1#2, wa := true, disp := 0x12df#15, stride := 0x1514#13, scope := 0x2#3 }),
  (0x12DFA8A22C48A7CA, .ldW { sk := true, d := 0x22#6, a := 0x27#6, cls := 0x6#3, ord := 0x1#2, wa := true, disp := 0x12df#15, stride := 0x1514#13, scope := 0x2#3 }),
  (0x12DFA8A22C58A7CA, .ldWu { sk := true, d := 0x22#6, a := 0x27#6, cls := 0x6#3, ord := 0x1#2, wa := true, disp := 0x12df#15, stride := 0x1514#13, scope := 0x2#3 }),
  (0x12DFA8A22C68A7CA, .ldD { sk := true, d := 0x22#6, a := 0x27#6, cls := 0x6#3, ord := 0x1#2, wa := true, disp := 0x12df#15, stride := 0x1514#13, scope := 0x2#3 }),
  (0x2F79657C2C8D96D3, .stB { sk := true, d := 0x36#6, a := 0x16#6, cls := 0x6#3, ord := 0x2#2, wa := true, wd := true, disp := 0x2f79#15, stride := 0x0caf#13, scope := 0x4#3 }),
  (0x2F79657C2C9D96D3, .stH { sk := true, d := 0x36#6, a := 0x16#6, cls := 0x6#3, ord := 0x2#2, wa := true, wd := true, disp := 0x2f79#15, stride := 0x0caf#13, scope := 0x4#3 }),
  (0x2F79657C2CAD96D3, .stW { sk := true, d := 0x36#6, a := 0x16#6, cls := 0x6#3, ord := 0x2#2, wa := true, wd := true, disp := 0x2f79#15, stride := 0x0caf#13, scope := 0x4#3 }),
  (0x2F79657C2CBD96D3, .stD { sk := true, d := 0x36#6, a := 0x16#6, cls := 0x6#3, ord := 0x2#2, wa := true, wd := true, disp := 0x2f79#15, stride := 0x0caf#13, scope := 0x4#3 })] = true := by decide +kernel

theorem test_decode_major3_0 : decodesTo [
  (0x3C72F1713C07F9BB, .atopAdd { sk := true, d := 0x1f#6, a := 0x39#6, cls := 0x5#3, ord := 0x3#2, wa := true, wd := true, disp := 0x3c72#15, stride := 0x1e2e#13, scope := 0x1#3 }),
  (0x3C72F1713C17F9BB, .atopAnd { sk := true, d := 0x1f#6, a := 0x39#6, cls := 0x5#3, ord := 0x3#2, wa := true, wd := true, disp := 0x3c72#15, stride := 0x1e2e#13, scope := 0x1#3 }),
  (0x3C72F1713C27F9BB, .atopOr { sk := true, d := 0x1f#6, a := 0x39#6, cls := 0x5#3, ord := 0x3#2, wa := true, wd := true, disp := 0x3c72#15, stride := 0x1e2e#13, scope := 0x1#3 }),
  (0x3C72F1713C37F9BB, .atopXor { sk := true, d := 0x1f#6, a := 0x39#6, cls := 0x5#3, ord := 0x3#2, wa := true, wd := true, disp := 0x3c72#15, stride := 0x1e2e#13, scope := 0x1#3 }),
  (0x3C72F1713C47F9BB, .atopMin { sk := true, d := 0x1f#6, a := 0x39#6, cls := 0x5#3, ord := 0x3#2, wa := true, wd := true, disp := 0x3c72#15, stride := 0x1e2e#13, scope := 0x1#3 }),
  (0x3C72F1713C57F9BB, .atopMax { sk := true, d := 0x1f#6, a := 0x39#6, cls := 0x5#3, ord := 0x3#2, wa := true, wd := true, disp := 0x3c72#15, stride := 0x1e2e#13, scope := 0x1#3 }),
  (0x3C72F1713C67F9BB, .atopSub { sk := true, d := 0x1f#6, a := 0x39#6, cls := 0x5#3, ord := 0x3#2, wa := true, wd := true, disp := 0x3c72#15, stride := 0x1e2e#13, scope := 0x1#3 }),
  (0x3C72F1713C87F9BB, .atswp { sk := true, d := 0x1f#6, a := 0x39#6, cls := 0x5#3, ord := 0x3#2, wa := true, wd := true, disp := 0x3c72#15, stride := 0x1e2e#13, scope := 0x1#3 }),
  (0x4E5CC7623C9E27EF, .atcas { sk := true, d := 0x38#6, a := 0x27#6, cls := 0x7#3, ord := 0x1#2, opt := true, wa := true, wd := true, disp := 0x4e5c#15, stride := 0x18ec#13, scope := 0x2#3 }),
  (0x4E5CC7623CAE27EF, .atfadd { sk := true, d := 0x38#6, a := 0x27#6, cls := 0x7#3, ord := 0x1#2, opt := true, wa := true, wd := true, disp := 0x4e5c#15, stride := 0x18ec#13, scope := 0x2#3 }),
  (0x6307F2743CBB19FB, .atadds { sk := true, d := 0x2c#6, a := 0x19#6, cls := 0x7#3, ord := 0x3#2, wa := true, wd := true, disp := 0x6307#15, stride := 0x1e4e#13, scope := 0x4#3 })] = true := by decide +kernel

theorem test_decode_major4_0 : decodesTo [
  (0x40000308, .fence { scope := 0x3#3, kind := 0x2#2 }),
  (0x4CBF00A0481D78DF, .waitm { d := 0x35#6, a := 0x38#6, b := 0x37#6, wa := true, wb := true, disp := 0x4cbf#15, cls := 0x5#3 }),
  (0x40207DCF, .barrive { e := true, a := 0x3d#6, b := 0x33#6, wa := true, wb := true }),
  (0x553D0000482079FF, .barriveExt { e := true, a := 0x39#6, b := 0x3f#6, wa := true, wb := true } { disp := 0x553d#15 }),
  (0x403025F3, .bexpect { a := 0x25#6, b := 0x3c#6, wa := true, wb := true }),
  (0x7476000048303357, .bexpectExt { a := 0x33#6, b := 0x15#6, wa := true, wb := true } { disp := 0x7476#15 }),
  (0x404AF7AB, .bwait { d := 0x2b#6, a := 0x37#6, b := 0x2a#6, wa := true, wb := true }),
  (0x1D7A000048441F4B, .bwaitExt { d := 0x10#6, a := 0x1f#6, b := 0x12#6, wa := true, wb := true } { disp := 0x1d7a#15 }),
  (0x405AF7AB, .btest { d := 0x2b#6, a := 0x37#6, b := 0x2a#6, wa := true, wb := true }),
  (0x1D7A000048541F4B, .btestExt { d := 0x10#6, a := 0x1f#6, b := 0x12#6, wa := true, wb := true } { disp := 0x1d7a#15 }),
  (0x40694000, .tkget { d := 0x25#6 }),
  (0x40702F02, .tkpost { a := 0x2f#6, wa := true })] = true := by decide +kernel

theorem test_decode_major4_1 : decodesTo [
  (0x408025F3, .tkdone { a := 0x25#6, b := 0x3c#6, wa := true, wb := true }),
  (0x40900000, .trap),
  (0x3A974D4F48900000, .trapExt { imm := 0x3a974d4f#31 }),
  (0x40A00000, .tret),
  (0x40BEAE00, .crd { d := 0x3a#6, cr := 0x2e#6 }),
  (0x40CAA902, .cwr { cr := 0x2a#6, a := 0x29#6, wa := true }),
  (0x40D00000, .hbeat),
  (0x40E00000, .yield)] = true := by decide +kernel

theorem test_decode_major5_0 : decodesTo [
  (0x40400001580E5400, .vadd { sk := false, w := 0x3#2, d := 0x12a#9, a := 0x000#9, b := 0x101#9, c := 0x000#9, p := 0x0#4, wa := false, wb := false, wc := false, fi := false, fo := false, sat := false, sub := 0x1#3 }),
  (0x40400001581E5400, .vsub { sk := false, w := 0x3#2, d := 0x12a#9, a := 0x000#9, b := 0x101#9, c := 0x000#9, p := 0x0#4, wa := false, wb := false, wc := false, fi := false, fo := false, sat := false, sub := 0x1#3 }),
  (0x028003805C240001, .vmul { sk := true, w := 0x1#2, d := 0x000#9, a := 0x001#9, b := 0x00a#9, c := 0x000#9, p := 0x1#4, wa := true, wb := true, wc := false, fi := false, fo := false, sat := false, sub := 0x0#3 }),
  (0x40400001583E5400, .vmulh { sk := false, w := 0x3#2, d := 0x12a#9, a := 0x000#9, b := 0x101#9, c := 0x000#9, p := 0x0#4, wa := false, wb := false, wc := false, fi := false, fo := false, sat := false, sub := 0x1#3 }),
  (0x40400001584E5400, .vmin { sk := false, w := 0x3#2, d := 0x12a#9, a := 0x000#9, b := 0x101#9, c := 0x000#9, p := 0x0#4, wa := false, wb := false, wc := false, fi := false, fo := false, sat := false, sub := 0x1#3 }),
  (0x40400001585E5400, .vmax { sk := false, w := 0x3#2, d := 0x12a#9, a := 0x000#9, b := 0x101#9, c := 0x000#9, p := 0x0#4, wa := false, wb := false, wc := false, fi := false, fo := false, sat := false, sub := 0x1#3 }),
  (0x0000100058644118, .vabs { sk := false, w := 0x1#2, d := 0x020#9, a := 0x118#9, b := 0x000#9, c := 0x000#9, p := 0x8#4, wa := false, wb := false, wc := false, fi := false, fo := false, sat := false, sub := 0x0#3 }),
  (0x028003805C740001, .vand { sk := true, w := 0x1#2, d := 0x000#9, a := 0x001#9, b := 0x00a#9, c := 0x000#9, p := 0x1#4, wa := true, wb := true, wc := false, fi := false, fo := false, sat := false, sub := 0x0#3 }),
  (0x028003805C840001, .vor { sk := true, w := 0x1#2, d := 0x000#9, a := 0x001#9, b := 0x00a#9, c := 0x000#9, p := 0x1#4, wa := true, wb := true, wc := false, fi := false, fo := false, sat := false, sub := 0x0#3 }),
  (0x028003805C940001, .vxor { sk := true, w := 0x1#2, d := 0x000#9, a := 0x001#9, b := 0x00a#9, c := 0x000#9, p := 0x1#4, wa := true, wb := true, wc := false, fi := false, fo := false, sat := false, sub := 0x0#3 }),
  (0x028003805CA40001, .vandn { sk := true, w := 0x1#2, d := 0x000#9, a := 0x001#9, b := 0x00a#9, c := 0x000#9, p := 0x1#4, wa := true, wb := true, wc := false, fi := false, fo := false, sat := false, sub := 0x0#3 }),
  (0x028003805CB40001, .vshl { sk := true, w := 0x1#2, d := 0x000#9, a := 0x001#9, b := 0x00a#9, c := 0x000#9, p := 0x1#4, wa := true, wb := true, wc := false, fi := false, fo := false, sat := false, sub := 0x0#3 })] = true := by decide +kernel

theorem test_decode_major5_1 : decodesTo [
  (0x028003805CC40001, .vshr { sk := true, w := 0x1#2, d := 0x000#9, a := 0x001#9, b := 0x00a#9, c := 0x000#9, p := 0x1#4, wa := true, wb := true, wc := false, fi := false, fo := false, sat := false, sub := 0x0#3 }),
  (0x028003805CD40001, .vsra { sk := true, w := 0x1#2, d := 0x000#9, a := 0x001#9, b := 0x00a#9, c := 0x000#9, p := 0x1#4, wa := true, wb := true, wc := false, fi := false, fo := false, sat := false, sub := 0x0#3 }),
  (0x028003805D040001, .vfadd { sk := true, w := 0x1#2, d := 0x000#9, a := 0x001#9, b := 0x00a#9, c := 0x000#9, p := 0x1#4, wa := true, wb := true, wc := false, fi := false, fo := false, sat := false, sub := 0x0#3 }),
  (0x028003805D140001, .vfsub { sk := true, w := 0x1#2, d := 0x000#9, a := 0x001#9, b := 0x00a#9, c := 0x000#9, p := 0x1#4, wa := true, wb := true, wc := false, fi := false, fo := false, sat := false, sub := 0x0#3 }),
  (0x028003805D240001, .vfmul { sk := true, w := 0x1#2, d := 0x000#9, a := 0x001#9, b := 0x00a#9, c := 0x000#9, p := 0x1#4, wa := true, wb := true, wc := false, fi := false, fo := false, sat := false, sub := 0x0#3 }),
  (0x00A0A5705D362301, .vfma { sk := true, w := 0x1#2, d := 0x111#9, a := 0x101#9, b := 0x002#9, c := 0x105#9, p := 0x2#4, wa := true, wb := false, wc := true, fi := true, fo := true, sat := false, sub := 0x0#3 }),
  (0x00A0A5705D462301, .vfms { sk := true, w := 0x1#2, d := 0x111#9, a := 0x101#9, b := 0x002#9, c := 0x105#9, p := 0x2#4, wa := true, wb := false, wc := true, fi := true, fo := true, sat := false, sub := 0x0#3 }),
  (0x028003805D540001, .vfmin { sk := true, w := 0x1#2, d := 0x000#9, a := 0x001#9, b := 0x00a#9, c := 0x000#9, p := 0x1#4, wa := true, wb := true, wc := false, fi := false, fo := false, sat := false, sub := 0x0#3 }),
  (0x028003805D640001, .vfmax { sk := true, w := 0x1#2, d := 0x000#9, a := 0x001#9, b := 0x00a#9, c := 0x000#9, p := 0x1#4, wa := true, wb := true, wc := false, fi := false, fo := false, sat := false, sub := 0x0#3 }),
  (0x0000100059744118, .vrcp { sk := false, w := 0x1#2, d := 0x020#9, a := 0x118#9, b := 0x000#9, c := 0x000#9, p := 0x8#4, wa := false, wb := false, wc := false, fi := false, fo := false, sat := false, sub := 0x0#3 }),
  (0x0000100059844118, .vrsq { sk := false, w := 0x1#2, d := 0x020#9, a := 0x118#9, b := 0x000#9, c := 0x000#9, p := 0x8#4, wa := false, wb := false, wc := false, fi := false, fo := false, sat := false, sub := 0x0#3 }),
  (0x0000100059944118, .vexp2 { sk := false, w := 0x1#2, d := 0x020#9, a := 0x118#9, b := 0x000#9, c := 0x000#9, p := 0x8#4, wa := false, wb := false, wc := false, fi := false, fo := false, sat := false, sub := 0x0#3 })] = true := by decide +kernel

theorem test_decode_major5_2 : decodesTo [
  (0x0000100059A44118, .vlog2 { sk := false, w := 0x1#2, d := 0x020#9, a := 0x118#9, b := 0x000#9, c := 0x000#9, p := 0x8#4, wa := false, wb := false, wc := false, fi := false, fo := false, sat := false, sub := 0x0#3 }),
  (0x438018005A700089, .vcmp 0x7#4 { sk := false, w := 0x0#2, d := 0x000#9, a := 0x089#9, b := 0x10e#9, c := 0x000#9, p := 0xc#4, wa := false, wb := false, wc := false, fi := false, fo := false, sat := false, sub := 0x0#3 }),
  (0x2E8016005B0800E9, .vfcmp 0x0#4 { sk := false, w := 0x2#2, d := 0x000#9, a := 0x0e9#9, b := 0x0ba#9, c := 0x000#9, p := 0xb#4, wa := false, wb := false, wc := false, fi := false, fo := false, sat := false, sub := 0x0#3 })] = true := by decide +kernel

theorem test_decode_major6_0 : decodesTo [
  (0x0000000068000000, .vNop),
  (0x0000000068100000, .pand { sk := false, w := 0x0#2, d := 0x000#9, a := 0x000#9, b := 0x000#9, c := 0x000#9, p := 0x0#4, wa := false, wb := false, wc := false, fi := false, fo := false, sat := false, sub := 0x0#3 }),
  (0x0000000068200000, .por { sk := false, w := 0x0#2, d := 0x000#9, a := 0x000#9, b := 0x000#9, c := 0x000#9, p := 0x0#4, wa := false, wb := false, wc := false, fi := false, fo := false, sat := false, sub := 0x0#3 }),
  (0x0000000068300000, .pxor { sk := false, w := 0x0#2, d := 0x000#9, a := 0x000#9, b := 0x000#9, c := 0x000#9, p := 0x0#4, wa := false, wb := false, wc := false, fi := false, fo := false, sat := false, sub := 0x0#3 }),
  (0x0000000068400000, .pnot { sk := false, w := 0x0#2, d := 0x000#9, a := 0x000#9, b := 0x000#9, c := 0x000#9, p := 0x0#4, wa := false, wb := false, wc := false, fi := false, fo := false, sat := false, sub := 0x0#3 }),
  (0x0000000068500000, .ppop { sk := false, w := 0x0#2, d := 0x000#9, a := 0x000#9, b := 0x000#9, c := 0x000#9, p := 0x0#4, wa := false, wb := false, wc := false, fi := false, fo := false, sat := false, sub := 0x0#3 }),
  (0x0000000068600000, .pfirst { sk := false, w := 0x0#2, d := 0x000#9, a := 0x000#9, b := 0x000#9, c := 0x000#9, p := 0x0#4, wa := false, wb := false, wc := false, fi := false, fo := false, sat := false, sub := 0x0#3 }),
  (0x0002D20668820800, .vcvt { sk := false, w := 0x0#2, d := 0x104#9, a := 0x000#9, b := 0x000#9, c := 0x016#9, p := 0x9#4, wa := false, wb := false, wc := false, fi := false, fo := false, sat := false, sub := 0x6#3 }),
  (0x000000056899609B, .vsxpack { sk := false, w := 0x2#2, d := 0x0b0#9, a := 0x09b#9, b := 0x000#9, c := 0x000#9, p := 0x0#4, wa := false, wb := false, wc := false, fi := false, fo := false, sat := false, sub := 0x5#3 }),
  (0x0000000568A9609B, .vsxunpack { sk := false, w := 0x2#2, d := 0x0b0#9, a := 0x09b#9, b := 0x000#9, c := 0x000#9, p := 0x0#4, wa := false, wb := false, wc := false, fi := false, fo := false, sat := false, sub := 0x5#3 }),
  (0x028003806CC40001, .vperm { sk := true, w := 0x1#2, d := 0x000#9, a := 0x001#9, b := 0x00a#9, c := 0x000#9, p := 0x1#4, wa := true, wb := true, wc := false, fi := false, fo := false, sat := false, sub := 0x0#3 }),
  (0x3380160368D8F11F, .vshuf { sk := false, w := 0x2#2, d := 0x078#9, a := 0x11f#9, b := 0x0ce#9, c := 0x000#9, p := 0xb#4, wa := false, wb := false, wc := false, fi := false, fo := false, sat := false, sub := 0x3#3 })] = true := by decide +kernel

theorem test_decode_major6_1 : decodesTo [
  (0x0000140068E8FC00, .vbcast { sk := false, w := 0x2#2, d := 0x07e#9, a := 0x000#9, b := 0x000#9, c := 0x000#9, p := 0xa#4, wa := false, wb := false, wc := false, fi := false, fo := false, sat := false, sub := 0x0#3 }),
  (0x0000000068FA6628, .vmovs { sk := false, w := 0x2#2, d := 0x133#9, a := 0x028#9, b := 0x000#9, c := 0x000#9, p := 0x0#4, wa := false, wb := false, wc := false, fi := false, fo := false, sat := false, sub := 0x0#3 }),
  (0x00C05B806D0D2327, .vsel { sk := true, w := 0x3#2, d := 0x091#9, a := 0x127#9, b := 0x003#9, c := 0x002#9, p := 0xd#4, wa := true, wb := true, wc := false, fi := false, fo := false, sat := false, sub := 0x0#3 }),
  (0x0000100069144118, .vcompress { sk := false, w := 0x1#2, d := 0x020#9, a := 0x118#9, b := 0x000#9, c := 0x000#9, p := 0x8#4, wa := false, wb := false, wc := false, fi := false, fo := false, sat := false, sub := 0x0#3 }),
  (0x0000100069244118, .vexpand { sk := false, w := 0x1#2, d := 0x020#9, a := 0x118#9, b := 0x000#9, c := 0x000#9, p := 0x8#4, wa := false, wb := false, wc := false, fi := false, fo := false, sat := false, sub := 0x0#3 }),
  (0x0000100069444118, .vred { sk := false, w := 0x1#2, d := 0x020#9, a := 0x118#9, b := 0x000#9, c := 0x000#9, p := 0x8#4, wa := false, wb := false, wc := false, fi := false, fo := false, sat := false, sub := 0x0#3 }),
  (0x0000100069544118, .vscan { sk := false, w := 0x1#2, d := 0x020#9, a := 0x118#9, b := 0x000#9, c := 0x000#9, p := 0x8#4, wa := false, wb := false, wc := false, fi := false, fo := false, sat := false, sub := 0x0#3 }),
  (0x46C026056D641000, .vtopk { sk := true, w := 0x1#2, d := 0x008#9, a := 0x000#9, b := 0x11b#9, c := 0x001#9, p := 0x3#4, wa := false, wb := false, wc := false, fi := false, fo := false, sat := false, sub := 0x5#3 }),
  (0x00001400698D8000, .vlpmul { sk := false, w := 0x3#2, d := 0x0c0#9, a := 0x000#9, b := 0x000#9, c := 0x000#9, p := 0xa#4, wa := false, wb := false, wc := false, fi := false, fo := false, sat := false, sub := 0x0#3 }),
  (0x00001400699D8000, .vlpadd { sk := false, w := 0x3#2, d := 0x0c0#9, a := 0x000#9, b := 0x000#9, c := 0x000#9, p := 0xa#4, wa := false, wb := false, wc := false, fi := false, fo := false, sat := false, sub := 0x0#3 }),
  (0x0000140069AD8000, .vlpmax { sk := false, w := 0x3#2, d := 0x0c0#9, a := 0x000#9, b := 0x000#9, c := 0x000#9, p := 0xa#4, wa := false, wb := false, wc := false, fi := false, fo := false, sat := false, sub := 0x0#3 }),
  (0x0000140069BD8000, .vlpdiv { sk := false, w := 0x3#2, d := 0x0c0#9, a := 0x000#9, b := 0x000#9, c := 0x000#9, p := 0xa#4, wa := false, wb := false, wc := false, fi := false, fo := false, sat := false, sub := 0x0#3 })] = true := by decide +kernel

theorem test_decode_major6_2 : decodesTo [
  (0x0000000169CE0200, .vlpcvt { sk := false, w := 0x3#2, d := 0x101#9, a := 0x000#9, b := 0x000#9, c := 0x000#9, p := 0x0#4, wa := false, wb := false, wc := false, fi := false, fo := false, sat := false, sub := 0x1#3 }),
  (0x0000000169DE0200, .vlpsplit { sk := false, w := 0x3#2, d := 0x101#9, a := 0x000#9, b := 0x000#9, c := 0x000#9, p := 0x0#4, wa := false, wb := false, wc := false, fi := false, fo := false, sat := false, sub := 0x1#3 }),
  (0x4040000169EE5400, .vlpjoin { sk := false, w := 0x3#2, d := 0x12a#9, a := 0x000#9, b := 0x101#9, c := 0x000#9, p := 0x0#4, wa := false, wb := false, wc := false, fi := false, fo := false, sat := false, sub := 0x1#3 }),
  (0x000014006A08FC00, .vrand { sk := false, w := 0x2#2, d := 0x07e#9, a := 0x000#9, b := 0x000#9, c := 0x000#9, p := 0xa#4, wa := false, wb := false, wc := false, fi := false, fo := false, sat := false, sub := 0x0#3 })] = true := by decide +kernel

theorem test_decode_major7_0 : decodesTo [
  (0x6E5960DC7C0E0CAC, .vld { sk := true, w := 0x3#2, v := 0x106#9, s := 0x15#6, wb := true, wv := false, disp := 0x372c#14, stride := 0x2c1#10, cls := 0x5#3, p := 0xc#4 }),
  (0x663F51CF7C1DB1C6, .vst { sk := true, w := 0x3#2, v := 0x0d8#9, s := 0x38#6, wb := true, wv := true, disp := 0x331f#14, stride := 0x2a3#10, cls := 0x4#3, p := 0xf#4 }),
  (0x6E5960DC7C2E0CAC, .vlds { sk := true, w := 0x3#2, v := 0x106#9, s := 0x15#6, wb := true, wv := false, disp := 0x372c#14, stride := 0x2c1#10, cls := 0x5#3, p := 0xc#4 }),
  (0x663F51CF7C3DB1C6, .vsts { sk := true, w := 0x3#2, v := 0x0d8#9, s := 0x38#6, wb := true, wv := true, disp := 0x331f#14, stride := 0x2a3#10, cls := 0x4#3, p := 0xf#4 }),
  (0x4EE0006D7849BB14, .vgath { sk := false, w := 0x2#2, v := 0x0dd#9, s := 0x22#6, wb := true, wv := false, x := 0x13b#9, wx := true, cls := 0x6#3, p := 0xd#4 }),
  (0x0860004F7C5648EE, .vscat { sk := true, w := 0x1#2, v := 0x124#9, s := 0x1d#6, wb := true, wv := true, x := 0x021#9, wx := true, cls := 0x4#3, p := 0xf#4 }),
  (0x6E5960DC7C6E0CAC, .vldb { sk := true, w := 0x3#2, v := 0x106#9, s := 0x15#6, wb := true, wv := false, disp := 0x372c#14, stride := 0x2c1#10, cls := 0x5#3, p := 0xc#4 })] = true := by decide +kernel

theorem test_decode_major8_0 : decodesTo [
  (0x80000000, .fNop),
  (0x80103576, .fopen { f := 0x3#4, a := 0x15#6, wa := true, o := true, disp := 0x6#4 }),
  (0x000077988810FAB9, .fopenExt { f := 0xf#4, a := 0x2a#6, wa := true, o := true, disp := 0x9#4 } { b := 0x1d#6, wb := true, segi := 0x198#9 }),
  (0x8420DA40, .fnext { sk := true, f := 0xd#4, nm1 := 0xa4#8 }),
  (0x8430DCF0, .fskip { sk := true, f := 0xd#4, b := 0x33#6, wb := true, t := true }),
  (0x84403DB0, .fisect { sk := true, d := 0x3#4, x := 0xd#4, y := 0xb#4 }),
  (0x84503DB0, .funion { sk := true, d := 0x3#4, x := 0xd#4, y := 0xb#4 }),
  (0x0000FFDC8C606B60, .fmerge { sk := true, fo := 0x6#4, fu := 0xb#4, fmt := 0x1#2, z := true, a := 0x3f#6, wa := true, b := 0x3b#6, wb := true }),
  (0x000099518C70FB00, .fldv { sk := true, f := 0xf#4, w := 0x2#2, k := true, side := true, vd := 0x132#9, a := 0x28#6, wa := true }),
  (0x000090808C801A00, .fcrd { sk := true, f := 0x1#4, w := 0x2#2, k := true, vd := 0x121#9 }),
  (0x000091008C90BBE0, .femit { sk := true, f := 0xb#4, w := 0x2#2, p := 0xf#4, wv := true, v := 0x122#9 }),
  (0x84A05998, .fstat { sk := true, f := 0x5#4, d := 0x26#6, sel := 0x3#3 })] = true := by decide +kernel

theorem test_decode_major8_1 : decodesTo [
  (0x80B0AA60, .fsave { f := 0xa#4, a := 0x29#6, wa := true }),
  (0x80C0AA60, .frest { f := 0xa#4, a := 0x29#6, wa := true }),
  (0x80D05000, .fclose { f := 0x5#4 })] = true := by decide +kernel

theorem test_decode_major9_0 : decodesTo [
  (0x90000000, .xNop),
  (0x9410E200, .xscale { sk := true, a := 0x38#6, wa := true }),
  (0x000003339C200000, .xexpv { sk := true, wa := true, va := 0x133#9 }),
  (0x00000F559C30FAC3, .xfix { sk := true, b := 0x1f#5, g := 0x2#3, a := 0x30#6, wa := true, pop := true, km := 0xf55#12 }),
  (0x000000A09C40E200, .xcvt { sk := true, b := 0x1c#5, mode := 0x1#2, e := 0xa0#8 })] = true := by decide +kernel

theorem test_decode_majorA_0 : decodesTo [
  (0xA0000000, .hNop),
  (0xA4106DC0, .hld { sk := true, h := 0x3#3, a := 0x1b#6, wa := true }),
  (0x3CDFCB4BAC107E40, .hldExt { sk := true, h := 0x3#3, a := 0x3c#6, wa := true } { stride := 0x3cdf#15, disp := 0xcb4b#16 }),
  (0xA4206DC0, .hst { sk := true, h := 0x3#3, a := 0x1b#6, wa := true }),
  (0x3CDFCB4BAC207E40, .hstExt { sk := true, h := 0x3#3, a := 0x3c#6, wa := true } { stride := 0x3cdf#15, disp := 0xcb4b#16 }),
  (0xA4304BC4, .hset { sk := true, h := 0x2#3, field := 0x5#4, a := 0x38#6, wa := true }),
  (0xA040F100, .hfence { one := true, a := 0x38#6, wa := true })] = true := by decide +kernel

theorem test_decode_majorB_0 : decodesTo [
  (0xB0000000, .mNop),
  (0xB01D8200, .acalloc { qe := true, q := 0x5#3, b := 0x10#5, fmt := 0x1#2 }),
  (0xB02DF000, .acfree { qe := true, q := 0x5#3, b := 0x1e#5 }),
  (0xB03BD500, .acgrant { qe := true, q := 0x3#3, b := 0x1a#5, ctx := 0x2#2, r := true }),
  (0xB44DD800, .aczero { sk := true, qe := true, q := 0x5#3, b := 0x1b#5 }),
  (0x76660114BC5FDFA0, .acrd { sk := true, qe := true, q := 0x7#3, b := 0x1b#5, row := 0x1e#5, h := true, stride := 0x7666#15, vd := 0x114#9 }),
  (0x00000036BC5AC810, .acrdSt { sk := true, qe := true, q := 0x2#3, b := 0x19#5, sd := 0x36#6 }),
  (0x7B98032ABC6CEEA0, .acwr { sk := true, qe := true, q := 0x4#3, b := 0x1d#5, row := 0x1a#5, h := true, stride := 0x7b98#15, wv := true, vs := 0x12a#9 }),
  (0x00000181BD0B9856, .mmaBf16 { sk := true, qe := true, q := 0x3#3, b := 0x13#5, ga := 0x1#3, gb := 0x2#3, ka := true, kb := true, wit := false, km := 0x181#12 }),
  (0x00000181BD1B9856, .mmaFp16 { sk := true, qe := true, q := 0x3#3, b := 0x13#5, ga := 0x1#3, gb := 0x2#3, ka := true, kb := true, wit := false, km := 0x181#12 }),
  (0x00000181BD2B9856, .mmaE4m3 { sk := true, qe := true, q := 0x3#3, b := 0x13#5, ga := 0x1#3, gb := 0x2#3, ka := true, kb := true, wit := false, km := 0x181#12 }),
  (0x00000181BD3B9856, .mmaE5m2 { sk := true, qe := true, q := 0x3#3, b := 0x13#5, ga := 0x1#3, gb := 0x2#3, ka := true, kb := true, wit := false, km := 0x181#12 })] = true := by decide +kernel

theorem test_decode_majorB_1 : decodesTo [
  (0x00000550BD4DE0CF, .mmaInt8 { sk := true, qe := true, q := 0x5#3, b := 0x1c#5, ga := 0x3#3, gb := 0x1#3, ka := true, kb := true, wit := true, km := 0x550#12 }),
  (0x00000000BD5BE8B3, .mmaSx8 { sk := true, qe := true, q := 0x3#3, b := 0x1d#5, ga := 0x2#3, gb := 0x6#3, ka := false, kb := true, wit := true, km := 0x000#12 }),
  (0x00000000BD6BE8B3, .mmaSx5 { sk := true, qe := true, q := 0x3#3, b := 0x1d#5, ga := 0x2#3, gb := 0x6#3, ka := false, kb := true, wit := true, km := 0x000#12 }),
  (0x00000000BD7BE8B3, .mmaSx3 { sk := true, qe := true, q := 0x3#3, b := 0x1d#5, ga := 0x2#3, gb := 0x6#3, ka := false, kb := true, wit := true, km := 0x000#12 }),
  (0x00000527BD8E02AE, .mcntInt4 { sk := true, qe := true, q := 0x6#3, n := 0x1#2, ga := 0x2#3, gb := 0x5#3, ka := true, kb := true, km := 0x527#12 }),
  (0x00000527BD9E02AE, .mcntE2m1 { sk := true, qe := true, q := 0x6#3, n := 0x1#2, ga := 0x2#3, gb := 0x5#3, ka := true, kb := true, km := 0x527#12 }),
  (0xB20F0200, .nclr { qe := true, q := 0x7#3, n := 0x1#2 }),
  (0xB61C0384, .nmerge { sk := true, qe := true, q := 0x4#3, n := 0x1#2, a := 0x30#6, wa := true }),
  (0xB62C0384, .ndump { sk := true, qe := true, q := 0x4#3, n := 0x1#2, a := 0x30#6, wa := true }),
  (0xB63C0384, .nload { sk := true, qe := true, q := 0x4#3, n := 0x1#2, a := 0x30#6, wa := true }),
  (0xB64A9B80, .ndrain { sk := true, qe := true, q := 0x2#3, b := 0x13#5, n := 0x1#2, c := true, r := true }),
  (0xB65A03B0, .nchk { sk := true, qe := true, q := 0x2#3, n := 0x1#2, d := 0x36#6 })] = true := by decide +kernel

theorem test_decode_majorB_2 : decodesTo [
  (0x0000299FBA8B9115, .rgset { qe := true, q := 0x3#3, g := 0x4#3, size := 0x1115#13, base := 0x299f#16 })] = true := by decide +kernel

theorem test_decode_majorC_0 : decodesTo [
  (0xC0000000, .cNop),
  (0xC4194F38, .copy { sk := true, qe := true, q := 0x1#3, hd := 0x2#3, hs := 0x3#3, cid := 0x19#5, ds := true, dt := true }),
  (0x5735D700CC1C6758, .copyExt { sk := true, qe := true, q := 0x4#3, hd := 0x3#3, hs := 0x1#3, cid := 0x1a#5, ds := true, dt := true } { stride := 0x5735#15, a := 0x35#6, wa := true, ba := true }),
  (0xC4297EB0, .copyt { sk := true, qe := true, q := 0x1#3, hd := 0x3#3, hs := 0x7#3, cid := 0x15#5, ds := true }),
  (0x7578D700CC2EF370, .copytExt { sk := true, qe := true, q := 0x6#3, hd := 0x7#3, hs := 0x4#3, cid := 0x1b#5, ds := true } { stride := 0x7578#15, a := 0x35#6, wa := true, ba := true }),
  (0x2AFE7BF6CC3EA780, .cgath { sk := true, qe := true, q := 0x6#3, hd := 0x5#3, hs := 0x1#3, cid := 0x1c#5, stride := 0x2afe#15, a := 0x1e#6, wa := true, ba := true, x := 0x3d#6, wx := true }),
  (0x2AFE7BF6CC4EA780, .cscat { sk := true, qe := true, q := 0x6#3, hd := 0x5#3, hs := 0x1#3, cid := 0x1c#5, stride := 0x2afe#15, a := 0x1e#6, wa := true, ba := true, x := 0x3d#6, wx := true }),
  (0xC4594F38, .cred { sk := true, qe := true, q := 0x1#3, hd := 0x2#3, hs := 0x3#3, cid := 0x19#5, ds := true, sr := true }),
  (0x5735D700CC5C6758, .credExt { sk := true, qe := true, q := 0x4#3, hd := 0x3#3, hs := 0x1#3, cid := 0x1a#5, ds := true, sr := true } { stride := 0x5735#15, a := 0x35#6, wa := true, ba := true }),
  (0xC469D680, .cring { sk := true, qe := true, q := 0x1#3, g := 0x6#3, hs := 0x5#3, cid := 0x14#5 }),
  (0x47B1E300CC6DC600, .cringExt { sk := true, qe := true, q := 0x5#3, g := 0x6#3, hs := 0x1#3, cid := 0x10#5 } { stride := 0x47b1#15, a := 0x38#6, wa := true, ba := true }),
  (0xC070B690, .cwait { a := 0x2d#6, cid := 0x14#5, wa := true })] = true := by decide +kernel

theorem test_decode_majorC_1 : decodesTo [
  (0xC0806E60, .ctest { d := 0x1b#6, cid := 0x13#5 }),
  (0xC0906260, .publish { h := 0x3#3, cid := 0x13#5 }),
  (0x0000E75CC8A04220, .upd { h := 0x2#3, cid := 0x11#5, a := 0x39#6, wa := true, g := 0x2b#6, wg := true })] = true := by decide +kernel

theorem test_decode_majorD_0 : decodesTo [
  (0xD0000000, .tNop),
  (0x0000E200D8106AC0, .tmode { mode := 0x3#3, a := 0x15#6, wa := true, b := 0x38#6, wb := true }),
  (0xD4209F1C, .tevid { sk := true, a := 0x27#6, wa := true, b := 0x23#6, wb := true }),
  (0xD030BE00, .tseed { a := 0x2f#6, wa := true }),
  (0xD44FA7E8, .tfwd { sk := true, qe := true, q := 0x7#3, a := 0x29#6, wa := true, ph := 0x3#2, w := 0xd#4 }),
  (0x2CF3B9C1DC4C9740, .tfwdExt { sk := true, qe := true, q := 0x4#3, a := 0x25#6, wa := true, ph := 0x2#2, w := 0x8#4 } { stride := 0x2cf3#15, disp := 0xb9c1#16 }),
  (0xD45AD600, .trev { sk := true, qe := true, q := 0x2#3, a := 0x35#6, wa := true }),
  (0x6FEFFD1DDC5FA600, .trevExt { sk := true, qe := true, q := 0x7#3, a := 0x29#6, wa := true } { stride := 0x6fef#15, disp := 0xfd1d#16 }),
  (0xD46AD600, .tsamp { sk := true, qe := true, q := 0x2#3, a := 0x35#6, wa := true }),
  (0xD47AD600, .targm { sk := true, qe := true, q := 0x2#3, a := 0x35#6, wa := true }),
  (0x00008A00DC897FBC, .tratio { sk := true, qe := true, q := 0x1#3, a := 0x1f#6, wa := true, b := 0x37#6, wb := true, c := 0x22#6, wc := true }),
  (0xD4905000, .twclr { sk := true, all := false, w := 0xa#4 })] = true := by decide +kernel

theorem test_decode_majorD_1 : decodesTo [
  (0xD4A094C0, .tstat { sk := true, d := 0x25#6, sel := 0x3#4 })] = true := by decide +kernel

theorem test_decode_majorE_0 : decodesTo [
  (0xE3AF9C25, .hint 0x3af9c25#27),
  (0x612BAD22EF5D3E83, .hintExt 0x75d3e83#27 0x612bad22#31)] = true := by decide +kernel

/-! ### One step each, with results worked out by hand -/

/-- The next state meets a test. -/
def gives (o : Host.Outcome State Fault Refusal) (p : State → Bool) : Bool :=
  match o with
  | .next t => p t
  | _ => false

def s1Is (v : Word64) (t : State) : Bool := (t.ctx 0).live.sv 1 == v

theorem test_add_wraps : gives (exec (.add rr0) (regs0 [(2, 0xFFFFFFFFFFFFFFFF), (3, 2)])) (s1Is 1) = true := by decide +kernel
theorem test_mulh_signed : gives (exec (.mulh rr0) (regs0 [(2, 0xFFFFFFFFFFFFFFFF), (3, 2)])) (s1Is 0xFFFFFFFFFFFFFFFF) = true := by decide +kernel
theorem test_mulhu_unsigned : gives (exec (.mulhu rr0) (regs0 [(2, 0xFFFFFFFFFFFFFFFF), (3, 2)])) (s1Is 1) = true := by decide +kernel
theorem test_div_rounds_to_zero : gives (exec (.div rr0) (regs0 [(2, 0xFFFFFFFFFFFFFFF9), (3, 2)])) (s1Is 0xFFFFFFFFFFFFFFFD) = true := by
  decide +kernel
theorem test_rem_sign : gives (exec (.rem rr0) (regs0 [(2, 0xFFFFFFFFFFFFFFF9), (3, 2)])) (s1Is 0xFFFFFFFFFFFFFFFF) = true := by decide +kernel
theorem test_sra_sign : gives (exec (.sra rr0) (regs0 [(2, 0x8000000000000000), (3, 63)])) (s1Is 0xFFFFFFFFFFFFFFFF) = true := by decide +kernel
theorem test_sub_order : gives (exec (.sub rr0) (regs0 [(2, 1), (3, 2)])) (s1Is 0xFFFFFFFFFFFFFFFF) = true := by decide +kernel
theorem test_write_s0_dropped : gives (exec (.add { rr0 with d := 0 }) (regs0 [(2, 1), (3, 2)])) (fun t => (t.ctx 0).live.sv 0 == 0) = true := by
  decide +kernel
/-- A load leaves its value on its way, its destination empty (R121); a store waits in the gate for the mark (R126). -/
theorem test_ldB_sign_extends : gives (exec (.ldB ld0) ((regs0 [(2, 0x2000)]).write (scratchBase 0 + 0x2000) [0x80])) (fun t =>
    (t.ctx 0).live.isEmpty (srcS 1 false) && (t.ctx 0).arrivals.map (fun a => (a.reg, a.val)) == [(1, 0xFFFFFFFFFFFFFF80)]) = true := by
  decide +kernel
theorem test_stH_little_endian : gives (exec (.stH st0) (regs0 [(1, 0x1234ABCD), (2, 0x2000)])) (fun t =>
    (t.ctx 0).gate.map (·.writes) == [[(0x2000, [0xCD, 0xAB])]] && t.mem == []) = true := by
  decide +kernel
theorem test_vadd_lanes : gives (exec (.vadd { vf0 with w := 1, d := 1, a := 2, b := 3 })
    (with0 fun c => { c with live := { c.live with v := [(2, 0x0001FFFF), (3, 0x00010001)] } })) (fun t => (t.ctx 0).live.vv 1 == 0x00020000) = true := by
  decide +kernel
theorem test_vfadd_rounds_to_even : gives (exec (.vfadd { vf0 with d := 1, a := 2, b := 3 })
    (with0 fun c => { c with live := { c.live with v := [(2, 0x4B800000), (3, 0x3F800000)] } })) (fun t =>
      (t.ctx 0).live.vv 1 == 0x4B800000) = true := by
  decide +kernel

end Sys2Proof.Tests
end

section
/-! PROOFS. Memory stays in its canonical form (log 1): the rules.

Memory is a list of cells, and only a few parts of the model change it: a write (`State.write`) puts cells, a partition's
change between scratchpad and hardpan (`State.moveBytes`) takes cells out and puts them elsewhere, and the loss of power takes out a
die's cells (`State.dieOff`) or all (`State.unpowered`). Every other update of the state takes `mem` over as it was
(`Inv.update`). So a function of the model keeps the form because the functions that it calls keep it, and there is one lemma for
each, in the order of the model:

* `Inv.f` for a function `f` from states to states,
* `Preserves.f` for an operation (`Op`), `TPreserves.f` for a computation of the tree engine (`TM`),
* `Yields.f` for a function that answers an outcome.

Where an operation only reads the state, or ends the issue, its lemma is about any property `P` of states. -/

namespace Sys2Proof.Safety

open Sys2Proof.Machine

variable {α β : Type} {P : State → Prop}

/-! ### What an operation keeps -/

/-- The state that an operation leaves, whether it delivers a value or ends the issue. -/
def left (r : EStateM.Result Exit State α) : State :=
  match r with
  | .ok _ s => s
  | .error _ s => s

/-- From a state with a property, an operation leaves one with it, however it ends. -/
def Preserves (P : State → Prop) (x : Op α) : Prop := ∀ s, P s → P (left (x s))

namespace Preserves

theorem ok {x : Op α} {s t : State} {a : α} (h : Preserves P x) (hs : P s) (e : x s = .ok a t) : P t := by
  simpa [e, left] using h s hs

theorem error {x : Op α} {s t : State} {e : Exit} (h : Preserves P x) (hs : P s) (he : x s = .error e t) :
    P t := by
  simpa [he, left] using h s hs

theorem pure {a : α} : Preserves P (Pure.pure a : Op α) := fun _ h => h

theorem throw {e : Exit} : Preserves P (MonadExcept.throw e : Op α) := fun _ h => h

theorem bind {x : Op α} {f : α → Op β} (hx : Preserves P x) (hf : ∀ a, Preserves P (f a)) : Preserves P (x >>= f) := by
  intro s hs
  rw [op_bind]
  split
  · next e => exact hf _ _ (hx.ok hs e)
  · next e => exact hx.error hs e

/-- What follows a reading of the state may rely on the property of the state read. -/
theorem get {f : State → Op β} (hf : ∀ s, P s → Preserves P (f s)) : Preserves P (MonadState.get >>= f) :=
  fun s hs => hf s hs s hs

theorem set {t : State} (h : P t) : Preserves P (MonadStateOf.set t : Op PUnit) := fun _ _ => h

theorem modify {f : State → State} (h : ∀ s, P s → P (f s)) : Preserves P (modify f : Op PUnit) := h

theorem ite {c : Prop} [Decidable c] {x y : Op α} (hx : Preserves P x) (hy : Preserves P y) :
    Preserves P (if c then x else y) := by
  split
  · exact hx
  · exact hy

/-- Both branches go on with the same operation. -/
theorem iteBind {c : Prop} [Decidable c] {x y : Op α} {f : α → Op β} (hx : Preserves P x) (hy : Preserves P y)
    (hf : ∀ a, Preserves P (f a)) : Preserves P (if c then x >>= f else y >>= f) := .ite (.bind hx hf) (.bind hy hf)

/-- An operation performed under a condition, and what follows it either way. -/
theorem iteThen {c : Prop} [Decidable c] {x : Op Unit} {f : Unit → Op β} (hx : Preserves P x)
    (hf : ∀ a, Preserves P (f a)) : Preserves P (if c then x >>= f else f ()) := .ite (.bind hx hf) (hf ())

theorem iteElse {c : Prop} [Decidable c] {x : Op Unit} {f : Unit → Op β} (hx : Preserves P x)
    (hf : ∀ a, Preserves P (f a)) : Preserves P (if c then f () else x >>= f) := .ite (hf ()) (.bind hx hf)

/-- Two operations performed under a condition, and what follows them either way. -/
theorem iteElse₂ {c : Prop} [Decidable c] {x : Op α} {y : Op Unit} {f : Unit → Op β} (hx : Preserves P x)
    (hy : Preserves P y) (hf : ∀ a, Preserves P (f a)) : Preserves P (if c then f () else x >>= fun _ => y >>= f) :=
  .ite (hf ()) (.bind hx fun _ => .bind hy hf)

end Preserves

namespace Inv

/-- A record update that leaves memory as it was keeps its form. -/
theorem update {s : State} {power time withheld poison soft arrayErr tags regs dies cores ctxs hard seifs
    frSeq heldExtend attSnap queue coal regions tasks msgs ldtCache ldtOld moduleNo link hostOut fabricOut
    nextId cur agenda fresh}
    (h : Inv s) :
    Inv
      (State.mk power time withheld s.mem poison soft arrayErr tags regs dies cores ctxs hard seifs frSeq
      heldExtend attSnap queue coal regions tasks msgs ldtCache ldtOld moduleNo link hostOut fabricOut
      nextId cur agenda fresh) := h

theorem ite {c : Prop} [Decidable c] {s t : State} (hs : Inv s) (ht : Inv t) : Inv (if c then s else t) := by
  split
  · exact hs
  · exact ht

theorem foldl {l : List α} {f : State → α → State} {s : State} (hs : Inv s) (hf : ∀ s a, Inv s → Inv (f s a)) :
    Inv (l.foldl f s) := by
  induction l generalizing s with
  | nil => exact hs
  | cons a l ih => exact ih (hf s a hs)

/-- An operation that keeps memory in form leaves a state in which it is. -/
theorem leaves {x : Op α} {s : State} (hx : Preserves Inv x) (hs : Inv s) : Inv (left (x s)) := hx s hs

end Inv

/-! ### Memory with cells taken out or put in -/

theorem filter_wf {m : Memory} {p : Host.Cell → Bool} (h : m.wf = true) : Memory.wf (m.filter p) = true := by
  unfold Memory.wf at *
  rw [fwf_iff] at *
  exact ⟨h.1.filter p, fun e he => h.2 e (List.mem_filter.mp he).1⟩

theorem foldl_fset_wf {l : List Host.Cell} {m : Memory} (h : m.wf = true) :
    Memory.wf (l.foldl (fun m (a, b) => fset unwritten m a b) m) = true := by
  induction l generalizing m with
  | nil => exact h
  | cons e l ih => exact ih (fset_wf unwritten e.1 e.2 h)

/-! ### What an outcome yields -/

/-- Where an outcome is a next state, that state has a property. -/
def Yields (P : State → Prop) (o : Host.Outcome State Fault Refusal) : Prop := ∀ t, o = .next t → P t

namespace Yields

theorem next {t : State} (h : P t) : Yields P (.next t) := by
  intro _ e
  cases e
  exact h

theorem ite {c : Prop} [Decidable c] {x y : Host.Outcome State Fault Refusal} (hx : Yields P x) (hy : Yields P y) :
    Yields P (if c then x else y) := by
  split
  · exact hx
  · exact hy

theorem fault {f : Fault} : Yields P (.fault f) := by
  intro t e
  cases e

theorem refused {r : Refusal} : Yields P (.refused r) := by
  intro t e
  cases e

theorem foldl {l : List α} {f : Host.Outcome State Fault Refusal → α → Host.Outcome State Fault Refusal}
    {o : Host.Outcome State Fault Refusal} (ho : Yields P o) (hf : ∀ o a, Yields P o → Yields P (f o a)) :
    Yields P (l.foldl f o) := by
  induction l generalizing o with
  | nil => exact ho
  | cons a l ih => exact ih (hf o a ho)

end Yields

/-! ### What a computation of the tree engine keeps -/

/-- From a state with a property, a computation of the tree engine leaves one with it, however it ends. -/
def TPreserves (P : State → Prop) (m : TM α) : Prop := ∀ r, Preserves P (StateT.run (ExceptT.run m) r)

namespace TPreserves

theorem op {x : Op α} (h : Preserves P x) : TPreserves P (TM.op x) := fun r =>
  have h' : Preserves P (x >>= fun a => Pure.pure (a, r)) := .bind h fun _ => .pure
  .bind h' fun _ => .pure

theorem pure {a : α} : TPreserves P (Pure.pure a : TM α) := fun _ => .pure

theorem bind {x : TM α} {f : α → TM β} (hx : TPreserves P x) (hf : ∀ a, TPreserves P (f a)) : TPreserves P (x >>= f) := by
  refine fun r => .bind (hx r) ?_
  rintro ⟨a | a, r⟩
  · exact .pure
  · exact hf a r

theorem get {f : State → TM β} (hf : ∀ s, P s → TPreserves P (f s)) : TPreserves P (TM.op MonadState.get >>= f) :=
  fun r s hs => hf s hs r s hs

theorem ite {c : Prop} [Decidable c] {x y : TM α} (hx : TPreserves P x) (hy : TPreserves P y) :
    TPreserves P (if c then x else y) := by
  split
  · exact hx
  · exact hy

theorem iteThen {c : Prop} [Decidable c] {x : TM Unit} {f : Unit → TM β} (hx : TPreserves P x)
    (hf : ∀ a, TPreserves P (f a)) : TPreserves P (if c then x >>= f else f ()) := .ite (.bind hx hf) (hf ())

theorem throw {e : Unit} : TPreserves P (MonadExcept.throw e : TM α) := fun _ => .pure

theorem now : TPreserves P TM.now := fun _ => .pure

theorem mod {f : TRun → TRun} : TPreserves P (TM.mod f) := fun _ => .pure

theorem mapM {l : List α} {f : α → TM β} (hf : ∀ a, TPreserves P (f a)) : TPreserves P (l.mapM f) := by
  induction l with
  | nil =>
    rw [List.mapM_nil]
    exact .pure
  | cons a l ih =>
    rw [List.mapM_cons]
    exact .bind (hf a) fun _ => .bind ih fun _ => .pure

end TPreserves

end Sys2Proof.Safety
end

section
/-! PROOFS. Memory stays in its canonical form: each function of the model, then the step. -/

namespace Sys2Proof.Safety

open Sys2Proof.Machine

variable {α β : Type} {P : State → Prop}

/-! ### Module registers -/

theorem Inv.setReg {s off v} (h : Inv s) : Inv (s.setReg off v) := h.update
theorem Inv.setRegF {s off hi lo v} (h : Inv s) : Inv (s.setRegF off hi lo v) := h.setReg
theorem Inv.count {s d k} (h : Inv s) : Inv (s.count d k) := h.setReg

/-! ### Contexts, cores, dies, and operations repeated over a list -/

theorem Inv.setCtx {s x c} (h : Inv s) : Inv (s.setCtx x c) := h.update
theorem Inv.setCore {s k c} (h : Inv s) : Inv (s.setCore k c) := h.update
theorem Inv.setDie {s d v} (h : Inv s) : Inv (s.setDie d v) := h.update
theorem Inv.modCtx {s x f} (h : Inv s) : Inv (s.modCtx x f) := h.setCtx
theorem Inv.modCore {s k f} (h : Inv s) : Inv (s.modCore k f) := h.setCore
theorem Inv.modDie {s d f} (h : Inv s) : Inv (s.modDie d f) := h.setDie
theorem Preserves.modC {f} : Preserves Inv (modC f) := .modify fun _ h => h.modCtx
theorem Preserves.modL {f} : Preserves Inv (modL f) := .modC
theorem Preserves.modK {f} : Preserves Inv (modK f) := .modify fun _ h => h.modCore
theorem Preserves.modCur {f} : Preserves Inv (modCur f) := .modify fun _ h => h.update
theorem Preserves.nextFree : Preserves Inv nextFree := fun _ h => h.update
theorem Preserves.trapAt {cause info} : Preserves P (trapAt cause info : Op α) := fun _ h => h

theorem Preserves.forEach_mem {l : List α} {f : α → Op Unit} (hf : ∀ a ∈ l, Preserves P (f a)) :
    Preserves P (forEach l f) := by
  induction l with
  | nil => exact .pure
  | cons a l ih =>
    rw [op_forEach_cons]
    exact .bind (hf a List.mem_cons_self) fun _ => ih fun b hb => hf b (List.mem_cons_of_mem a hb)

theorem Preserves.forEach {l : List α} {f : α → Op Unit} (hf : ∀ a, Preserves P (f a)) : Preserves P (forEach l f) :=
  .forEach_mem fun a _ => hf a

theorem Preserves.mapEach {l : List α} {f : α → Op β} (hf : ∀ a, Preserves P (f a)) : Preserves P (mapEach l f) := by
  induction l with
  | nil => exact .pure
  | cons a l ih => exact .bind (hf a) fun _ => .bind ih fun _ => .pure

theorem Inv.send {s m} (h : Inv s) : Inv (s.send m) := h.update
theorem Inv.irq {s vec} (h : Inv s) : Inv (s.irq vec) := h.send

theorem Inv.strataAdd {s d kind fatal core ctx detail} (h : Inv s) :
    Inv (s.strataAdd d kind fatal core ctx detail) := .ite h.modDie.irq h.modDie

/-! ### Physical memory and translation -/

theorem Inv.write {s pa bs} (h : Inv s) : Inv (s.write pa bs) := write_wf s pa bs h
theorem Inv.poisonWords {s pa n} (h : Inv s) : Inv (s.poisonWords pa n) := h.update
theorem Inv.markDirty {s pa} (h : Inv s) : Inv (s.markDirty pa) := h.write
theorem Inv.eccEvent {s pa} (h : Inv s) : Inv (s.eccEvent pa) := h.count.strataAdd

theorem Inv.eccCorrect {s pa n} (h : Inv s) : Inv (s.eccCorrect pa n) :=
  .foldl h fun _ _ h => h.update.count

theorem Inv.eccRead {s pa n} (h : Inv s) : Inv (s.eccRead pa n) := .ite h.eccCorrect.eccEvent h.eccCorrect
theorem Inv.writeMapped {s pa bs} (h : Inv s) : Inv (s.writeMapped pa bs) := h.markDirty.write
theorem Preserves.refuse {rq acc reason va} : Preserves P (refuse rq acc reason va : Op α) := .throw

theorem Preserves.tableWord {pa} : Preserves Inv (tableWord pa) :=
  .get fun _ h => .bind (.set h.eccRead) fun _ => .pure

theorem Preserves.ldtLookup {l} : Preserves Inv (ldtLookup l) :=
  .get fun _ _ => by
    split
    · exact .pure
    · exact .bind .tableWord fun _ => .iteThen (.modify fun _ h => h.update) fun _ => .pure

theorem Preserves.tlbInstall {d e} : Preserves Inv (tlbInstall d e) :=
  .get fun _ h => .ite (.set h.setDie) <| .bind .nextFree fun _ => .modify fun _ h => h.setDie

theorem Preserves.walk {rq acc d off va} : Preserves Inv (walk rq acc d off va) :=
  .get fun _ _ => .bind .tableWord fun _ => .ite .refuse <| .ite .refuse <| .bind .tableWord fun _ =>
  .ite .refuse <| .ite .refuse <| .bind .tableWord fun _ => .ite .refuse <| .ite .refuse <|
  .bind .tableWord fun _ => .ite .refuse <| .ite (.ite .pure .refuse) <| .ite .refuse <|
  .bind .tableWord fun _ => .ite .refuse <| .ite .pure .refuse

theorem Preserves.tlbLookup {rq acc d off va} : Preserves Inv (tlbLookup rq acc d off va) :=
  .get fun _ _ => by
    split
    · exact .pure
    · exact .bind .walk fun _ => .bind .tlbInstall fun _ => .pure

theorem Preserves.leafPhys {rq acc d off va e shadow} : Preserves Inv (leafPhys rq acc d off va e shadow) :=
  .ite (.ite .refuse .pure) <| .ite (.ite .refuse .pure) <| .ite .pure <| .get fun _ _ =>
  .bind .tableWord fun _ => .ite .refuse .pure

theorem Preserves.translate {rq acc va} : Preserves Inv (translate rq acc va) :=
  .bind .ldtLookup fun _ => .get fun _ _ => .ite .refuse <| .ite .pure <| by
    dsimp only
    split
    · exact .refuse
    · exact .bind .tlbLookup fun _ => .ite .refuse <| .ite .refuse <| .bind .leafPhys fun _ =>
        .get fun _ _ => .ite .refuse <| by
          split
          · exact .pure
          · exact .ite .refuse .pure

theorem Preserves.locate {rq acc c ea} : Preserves Inv (locate rq acc c ea) := by
  unfold Machine.locate
  split
  · exact .pure
  · exact .pure
  · exact .translate

theorem Preserves.readPlace {rq va p n} : Preserves Inv (readPlace rq va p n) := by
  unfold Machine.readPlace
  split
  · exact .get fun _ h => .bind (.set h.eccRead) fun _ => .pure
  · exact .bind (.modify fun _ h => h.update) fun _ =>
      .bind (.mapEach fun _ => .bind .nextFree fun _ => .pure) fun _ => .pure

theorem Preserves.writePlace {rq va p bs mapped} : Preserves Inv (writePlace rq va p bs mapped) := by
  unfold Machine.writePlace
  split
  · exact .modify fun _ h => .ite h.writeMapped h.write
  · exact .modify fun _ h => h.update

theorem Preserves.readVirt {rq va n} : Preserves Inv (readVirt rq va n) :=
  .bind .translate fun _ => .readPlace

theorem Preserves.readEa {rq c ea n} : Preserves Inv (readEa rq c ea n) := .bind .locate fun _ => .readPlace

theorem Preserves.tryOp {x : Op α} (hx : Preserves P x) : Preserves P (tryOp x) := by
  intro s hs
  have h := hx s hs
  unfold Machine.tryOp
  split <;> next e => rwa [e] at h

/-! ### Barriers in memory and the fault ring -/

theorem Inv.faultDropped {s} (h : Inv s) : Inv s.faultDropped := .ite h.setReg.strataAdd h.setReg

theorem Preserves.faultPost {r} : Preserves Inv (faultPost r) :=
  .get fun _ h => .ite (.modify fun _ h => h.faultDropped) <| .bind (.set h.write.update) fun _ =>
  .bind (.modify fun _ h => h.setReg) fun _ => .ite (.modify fun _ h => h.irq) .pure

theorem Preserves.physRefused {acc reason pa} : Preserves Inv (physRefused acc reason pa) := .faultPost

theorem Preserves.freeBytes {n} : Preserves Inv (freeBytes n) :=
  .mapEach fun _ => .bind .nextFree fun _ => .pure

theorem Preserves.devRead {pa n} : Preserves Inv (devRead pa n) :=
  .ite (.get fun _ h => .bind (.set h.eccRead) fun _ => .pure) <| .bind .physRefused fun _ => .freeBytes

theorem Preserves.devWrite {pa bs} : Preserves Inv (devWrite pa bs) :=
  .ite (.modify fun _ h => h.write) .physRefused

theorem Inv.barAct {s pa a mapped} (h : Inv s) : Inv (s.barAct pa a mapped) :=
  .ite h.eccRead.writeMapped h.eccRead.write

theorem Preserves.barArrive {rq c ea a} : Preserves Inv (barArrive rq c ea a) := by
  intro s hs
  have h := Preserves.locate (rq := rq) (acc := accAtomic) (c := c) (ea := ea) s hs
  unfold Machine.barArrive
  split
  · next e =>
    rw [e] at h
    split
    · exact h
    · exact h.barAct
  · next e =>
    rw [e] at h
    exact h.update
  · next r t e =>
    rw [e] at h
    split
    · have hp := Preserves.faultPost (r := undeliverable rq ea) t h
      split <;> next e => rwa [e] at hp
    · exact h
  · next e => rwa [e] at h

/-! ### States of a context -/

theorem Inv.handIssue {s k} (h : Inv s) : Inv (s.handIssue k) :=
  .ite h <| by
    dsimp only
    split
    · exact h.setCore
    · exact h.setCore.modCtx

theorem Inv.makeReady {s x} (h : Inv s) : Inv (s.makeReady x) := h.modCtx.handIssue
theorem Inv.leave {s x st why} (h : Inv s) : Inv (s.leave x st why) := h.modCtx.handIssue

theorem Inv.deferTrap {s x d} (h : Inv s) : Inv (s.deferTrap x d) :=
  .ite h <| .ite h.modCtx.makeReady h.modCtx

theorem Inv.stickySw {s x bits} (h : Inv s) : Inv (s.stickySw x bits) := h.modCtx
theorem Inv.retire {s x} (h : Inv s) : Inv (s.retire x) := h.setCore.modCtx.handIssue

/-! ### Commands of the matrix engine and the scale port -/

theorem Inv.sdcEvent {s x source unit info low pc} (h : Inv s) :
    Inv (s.sdcEvent x source unit info low pc) := h.stickySw.count.strataAdd

theorem Inv.fillPort {s x id d} (h : Inv s) : Inv (s.fillPort x id d) := h.modCtx.modCore
theorem Inv.enginePoison {s m pa} (h : Inv s) : Inv (s.enginePoison m pa) := h.eccEvent.deferTrap

theorem Inv.tileCorrect {s r k off n} (h : Inv s) : Inv (s.tileCorrect r k off n) :=
  .foldl h fun _ _ h => h.eccCorrect

theorem Inv.mmaRetire {m fmt b bfmt ga gb ka kb wit k entry s} (h : Inv s) :
    Inv (mmaRetire m fmt b bfmt ga gb ka kb wit k entry s) := by
  unfold Machine.mmaRetire
  dsimp only
  split
  · exact .enginePoison
        (.modCore
           (.tileCorrect
              (.tileCorrect
                 (.ite h.fillPort <| .ite h.fillPort <| .ite (.ite h.setCore.sdcEvent h.setCore) h.setCore))))
  · exact .modCore
        (.tileCorrect
           (.tileCorrect
              (.ite h.fillPort <| .ite h.fillPort <| .ite (.ite h.setCore.sdcEvent h.setCore) h.setCore)))

theorem Inv.mcntRetire {m fmt n ga gb ka kb k s} (h : Inv s) : Inv (mcntRetire m fmt n ga gb ka kb k s) := by
  unfold Machine.mcntRetire
  dsimp only
  split
  · exact .enginePoison (.ite h.setCore.tileCorrect.tileCorrect.stickySw h.setCore.tileCorrect.tileCorrect)
  · exact .ite h.setCore.tileCorrect.tileCorrect.stickySw h.setCore.tileCorrect.tileCorrect

theorem Inv.loadImage {m merge n addr s} (h : Inv s) : Inv (loadImage m merge n addr s) :=
  .ite h.setCore.eccCorrect.enginePoison h.setCore.eccCorrect

theorem Inv.performXfix {m b g addr k pop s} (h : Inv s) : Inv (performXfix m b g addr k pop s) :=
  .ite h.deferTrap <| by
    dsimp only
    split
    · exact .enginePoison
          (by
             split
             · exact h.setCore.tileCorrect.eccCorrect.deferTrap
             · exact h.setCore.tileCorrect.eccCorrect)
    · split
      · exact h.setCore.tileCorrect.eccCorrect.deferTrap
      · exact h.setCore.tileCorrect.eccCorrect

theorem Inv.onBank {m b f s} (h : Inv s) : Inv (onBank m b f s) := h.modCore
theorem Inv.mCmdSends {m isV reg tok v s} (h : Inv s) : Inv (MCmd.sends m isV reg tok v s) := h.modCtx

theorem Inv.shortOp {m g s} (h : Inv s) : Inv (shortOp m g s) := by
  unfold Machine.shortOp
  dsimp only
  split
  · exact h.deferTrap.modCore
  · exact h.deferTrap

theorem Inv.arrayBad {s k i} (h : Inv s) : Inv (s.arrayBad k i) := h.modCore.count.strataAdd.update

theorem Inv.arrayRead {s k arr} (h : Inv s) : Inv (s.arrayRead k arr) :=
  .foldl h.update fun _ _ h => .ite h.arrayBad h.count

theorem Inv.mCmdChecked {m s} (h : Inv s) : Inv (MCmd.checked m s) :=
  .ite h <| .update (.foldl h fun _ _ h => h.arrayRead)

theorem Inv.mCmdAct {m s} (h : Inv s) : Inv (MCmd.act m s) := by
  unfold MCmd.act
  dsimp only
  split
  · exact h.onBank
  · exact h.mCmdSends
  · exact h.onBank
  · exact h.mmaRetire
  · exact h.mcntRetire
  · exact h.modCore
  · exact h.loadImage
  · exact h.loadImage
  · exact h.write
  · exact h.modCore
  · exact .ite h.mCmdSends.sdcEvent h.mCmdSends
  · split
    · exact h
    · exact .ite h.onBank.sdcEvent h.onBank
  · split
    · exact h
    · exact .ite h.onBank.deferTrap h.onBank
  · exact h.performXfix
  · exact h.onBank
  · exact h.modCore

theorem Inv.mCmdRun {m s} (h : Inv s) : Inv (MCmd.run m s) := h.mCmdChecked.mCmdAct

theorem Inv.finishRun {s x} (h : Inv s) : Inv (s.finishRun x) := by
  unfold State.finishRun
  split
  · exact .ite h.modCore.mCmdRun h
  · exact h

/-! ### The task scheduler -/

theorem Inv.setTask {s t} (h : Inv s) : Inv (s.setTask t) := h.update
theorem Inv.setRegion {s r} (h : Inv s) : Inv (s.setRegion r) := h.update
theorem Inv.enqueue {s d asid rec op held} (h : Inv s) : Inv (s.enqueue d asid rec op held) := h.update
theorem Inv.dupComp {s d rec} (h : Inv s) : Inv (s.dupComp d rec) := h.strataAdd
theorem Inv.noteDone {s asid va status} (h : Inv s) : Inv (s.noteDone asid va status) := h.update

theorem Preserves.recWrite {d asid va off bs} : Preserves Inv (recWrite d asid va off bs) :=
  .bind .translate fun _ => by
    split
    · exact .modify fun _ h => h.writeMapped
    · exact .writePlace

theorem Preserves.recRead {d asid va} : Preserves Inv (recRead d asid va) := .bind .readVirt fun _ => .pure
theorem Inv.recDone {s t status} (h : Inv s) : Inv (s.recDone t status) := h.setTask.noteDone
theorem Inv.sendAway {s asid va kind data} (h : Inv s) : Inv (s.sendAway asid va kind data) := h.update

theorem Preserves.postStep {d asid va within bs} : Preserves Inv (postStep d asid va within bs) :=
  .get fun _ h =>
  .ite (.bind (.set h.dupComp) fun _ => .iteThen (.modify fun _ h => h.noteDone) fun _ => .pure) <|
  .bind (.modify fun _ h => h.update) fun _ =>
  .ite (.bind (.modify fun _ h => h.recDone) fun _ => .pure) <|
  .ite (.bind (.modify fun _ h => h.recDone) fun _ => .pure) .pure

theorem Preserves.decrementStep {d sender asid va} : Preserves Inv (decrementStep d sender asid va) :=
  .get fun _ _ => .bind .recRead fun _ => by
    dsimp only
    split
    · exact .ite
          (.bind .recWrite fun _ =>
           .ite (.bind .recWrite fun _ => .bind (.modify fun _ h => h.setTask) fun _ => .pure) .pure)
          (.bind .faultPost fun _ => .pure)
    · exact .ite (.bind .recWrite fun _ => .pure) <| .bind .faultPost fun _ => .pure

theorem Preserves.cancelStep {d sender asid va} : Preserves Inv (cancelStep d sender asid va) :=
  .get fun _ _ => .bind .recRead fun _ => by
    dsimp only
    split
    · exact .ite (.bind (.modify fun _ h => h.recDone) fun _ => .pure) <| .bind .faultPost fun _ => .pure
    · exact .ite (.bind .recWrite fun _ => .pure) <| .bind .faultPost fun _ => .pure

theorem Inv.dispatchTo {s t r x bs} (h : Inv s) : Inv (s.dispatchTo t r x bs) :=
  .ite h.setTask.modCtx.makeReady <| .foldl (.ite h.setTask.update h.setTask) fun _ _ h => .handIssue
      (h.modCtx)

theorem Preserves.arriveStep {d asid va err} : Preserves Inv (arriveStep d asid va err) :=
  .bind .recRead fun _ => .ite .pure <| .ite (.bind .faultPost fun _ => .pure) <|
  .bind (.tryOp .translate) fun _ => by
    dsimp only
    split
    · exact .ite (.bind .faultPost fun _ => .pure) <| .bind (.modify fun _ h => h.barAct) fun _ => .pure
    · exact .bind (.modify fun _ h => h.update) fun _ => .pure
    · exact .ite (.bind .faultPost fun _ => .pure) <| .bind .throw fun _ => .pure

theorem Preserves.successorList {d asid succ n} : Preserves Inv (successorList d asid succ n) :=
  .mapEach fun _ => .bind .readVirt fun _ => .pure

theorem Inv.tellRecord {s d asid ok va} (h : Inv s) : Inv (s.tellRecord d asid ok va) :=
  .ite h.sendAway h.enqueue

theorem Preserves.successorsStep {d asid va ok} : Preserves Inv (successorsStep d asid va ok) :=
  .bind .recRead fun _ => .bind .successorList fun _ =>
  .bind (.forEach fun _ => .modify fun _ h => h.tellRecord) fun _ => .pure

theorem Preserves.dispatchStep {d asid va} : Preserves Inv (dispatchStep d asid va) :=
  .bind .recRead fun _ => .get fun _ h => by
    split
    · split
      · exact .bind (.set h.dispatchTo) fun _ => .pure
      · exact .pure
    · exact .pure

theorem Preserves.schedStep {d asid va op} : Preserves Inv (schedStep d asid va op) := by
  unfold Machine.schedStep
  split
  · exact .bind .recRead fun _ => .postStep
  · exact .decrementStep
  · exact .cancelStep
  · exact .dispatchStep
  · exact .bind .recWrite fun _ => .pure
  · exact .bind .recWrite fun _ => .iteThen (.modify fun _ h => h.update) fun _ => .pure
  · exact .arriveStep
  · exact .successorsStep

theorem Inv.holdAll {s d asid va ops} (h : Inv s) : Inv (s.holdAll d asid va ops) :=
  .foldl h fun _ _ h => h.enqueue

theorem Preserves.runSteps {d asid va n ops} : Preserves Inv (runSteps d asid va n ops) := by
  induction n generalizing ops with
  | zero => exact .modify fun _ h => h.holdAll
  | succ n ih =>
    cases ops with
    | nil => exact .pure
    | cons op ops =>
      refine .bind (.tryOp .schedStep) fun r => ?_
      cases r with
      | ok more => exact ih
      | error ref => exact .bind .faultPost fun _ => .modify fun _ h => h.holdAll

theorem Preserves.runFor {d asid va ops} : Preserves Inv (runFor d asid va ops) :=
  .get fun _ _ => .ite (.modify fun _ h => h.holdAll) .runSteps

theorem Preserves.completeOnly {t status} : Preserves Inv (completeOnly t status) :=
  .bind (.modify fun _ h => h.recDone) fun _ => .runFor

theorem Preserves.rcbState {r st} : Preserves Inv (rcbState r st) :=
  .bind (.tryOp .recWrite) fun _ => by split; exact .pure

theorem Inv.freeCores {s r} (h : Inv s) : Inv (s.freeCores r) := h.update

theorem Inv.keepCopies {s r} (h : Inv s) : Inv (s.keepCopies r) :=
  .foldl h fun _ _ h => .ite (.ite h h.modCore) h

theorem Inv.dropSlots {s r reset} (h : Inv s) : Inv (s.dropSlots r reset) := .update (.ite h h.keepCopies)

theorem Preserves.releaseRegion {r reset} : Preserves Inv (releaseRegion r reset) :=
  .bind (.modify fun _ h => h.setRegion.freeCores.dropSlots) fun _ => .rcbState

theorem Preserves.teardown {reset r} : Preserves Inv (teardown reset r) :=
  .get fun _ _ => .bind (.forEach fun _ => .completeOnly) fun _ =>
  .bind (.forEach fun _ => .completeOnly) fun _ =>
  .bind (.forEach fun _ => .modify fun _ h => .retire (.finishRun (.ite h.modCore h.modCore))) fun _ =>
  .bind (.modify fun _ h => h.update) fun _ => .releaseRegion

theorem Preserves.faultDomain {r} : Preserves Inv (faultDomain r) :=
  .get fun _ _ => by
    split
    · exact .pure
    · exact .ite .pure <| by
          split
          · exact .forEach fun _ => .teardown
          · exact .ite .teardown .pure

theorem Preserves.complete {t status} : Preserves Inv (complete t status) :=
  .bind .completeOnly fun _ => .ite .faultDomain .pure

theorem Preserves.completeAll {l status} : Preserves Inv (completeAll l status) :=
  .bind (.forEach fun _ => .get fun _ _ => .ite .completeOnly .pure) fun _ => .forEach fun _ => .faultDomain

theorem Preserves.failTasks {xs} : Preserves Inv (failTasks xs) := .get fun _ _ => .completeAll

theorem Preserves.failPosted {n} : Preserves Inv (failPosted n) :=
  .get fun _ _ => .forEach fun _ => .faultDomain

theorem Preserves.postRecord {d asid va within} : Preserves Inv (postRecord d asid va within) :=
  .get fun _ h => .ite (.set h.sendAway) <| .bind .runFor fun _ => .failPosted

theorem Preserves.dispatchOne {d} : Preserves Inv (dispatchOne d) :=
  .get fun _ _ => by
    split
    · exact .runFor
    · exact .pure

/-! ### Fetch -/

theorem Preserves.fetchTrap {cause a} : Preserves P (fetchTrap cause a : Op α) := .throw

theorem Preserves.holdLine {k l} : Preserves Inv (holdLine k l) :=
  .get fun _ h => .ite (.set h.setCore) <| .bind .nextFree fun _ => .modify fun _ h => h.setCore

theorem Preserves.fetchLine {x block} : Preserves Inv (fetchLine x block) :=
  .get fun _ _ => by
    dsimp only
    split
    · exact .pure
    · exact .bind .locate fun _ => by
          split
          · exact .bind (.modify fun _ h => h.eccRead) fun _ => .get fun _ _ => .ite .pure <|
              .bind .holdLine fun _ => .pure
          · exact .bind .readPlace fun _ => .bind .holdLine fun _ => .pure

theorem Preserves.fetchWord {x a} : Preserves Inv (fetchWord x a) := by
  unfold Machine.fetchWord
  split
  · exact .fetchTrap
  · exact .bind .fetchLine fun _ => .pure

theorem Preserves.fetchSlots {x is a} : Preserves Inv (fetchSlots x is a) := by
  induction is generalizing a with
  | nil => exact .pure
  | cons i is ih =>
    exact .bind .fetchWord fun _ => .ite (.bind .fetchWord fun _ => .bind ih fun _ => .pure) <|
      .bind ih fun _ => .pure

theorem Preserves.fetchBundle {x pc jumped} : Preserves Inv (fetchBundle x pc jumped) :=
  .ite .fetchTrap <| .bind .fetchWord fun _ => .ite .fetchTrap <| .ite .throw <| .bind .fetchSlots fun _ =>
  .pure

/-! ### What performs with its issue -/

theorem Preserves.sendValue {a} : Preserves Inv (sendValue a) := .modC
theorem Inv.setTag {s pa v} (h : Inv s) : Inv (s.setTag pa v) := h.update

theorem Inv.atomicAt {s kind pa a b r mapped} (h : Inv s) : Inv (s.atomicAt kind pa a b r mapped) := by
  unfold State.atomicAt
  dsimp only
  split
  · exact .ite h.writeMapped h.write
  · exact .ite h.setTag.writeMapped h.setTag.write
  · split
    · exact .ite h.writeMapped h.write
    · exact h

theorem Preserves.unwait {d tok} : Preserves Inv (unwait d tok) := .modL

theorem Preserves.performAtomic {kind ea a b d tok cls} :
    Preserves Inv (performAtomic kind ea a b d tok cls) :=
  .get fun _ _ => .bind .locate fun _ => by
    split
    · exact .ite (.bind .unwait fun _ => .modify fun _ h => h.deferTrap) <| .get fun _ _ =>
        .bind
          (by
             split
             · exact .bind .nextFree fun _ => .pure
             · exact .pure) fun _ =>
        .bind (.modify fun _ h => h.eccRead.atomicAt) fun _ => .ite .pure .sendValue
    · exact .get fun _ _ => .bind (.modify fun _ h => h.update) fun _ =>
        .bind (.mapEach fun _ => .bind .nextFree fun _ => .pure) fun _ => .sendValue

theorem Preserves.performBarrier {ea act} : Preserves Inv (performBarrier ea act) :=
  .get fun _ _ => by
    dsimp only
    split
    · exact .bind .barArrive fun _ => .pure
    · exact .bind .locate fun _ => by
          split
          · exact .modify fun _ h => h.barAct
          · exact .modify fun _ h => h.update

theorem Preserves.performPost {record} : Preserves Inv (performPost record) :=
  .get fun _ _ => .bind .readVirt fun _ => .get fun _ _ => .postRecord

theorem Preserves.performDone {record status} : Preserves Inv (performDone record status) :=
  .get fun _ _ => .ite (.bind .modC fun _ => .modify fun _ h => h.sendAway) <| by
    split
    · exact .bind .modC fun _ => .complete
    · exact .modify fun _ h => h.dupComp

theorem Preserves.endOpPerform {o} : Preserves Inv (EndOp.perform o) := by
  unfold EndOp.perform
  split
  · exact .performAtomic
  · exact .performBarrier
  · exact .performPost
  · exact .performDone

/-! ### Operands -/

theorem Preserves.need {l} : Preserves P (need l) :=
  .get fun _ _ => by
    split
    · exact .throw
    · split
      · exact .trapAt
      · exact .pure

theorem Preserves.getS {r} : Preserves P (getS r) := .get fun _ _ => .pure
theorem Preserves.getV {r} : Preserves P (getV r) := .get fun _ _ => .pure
theorem Preserves.getP {r} : Preserves P (getP r) := .get fun _ _ => .pure
theorem Preserves.writeS {r v} : Preserves Inv (writeS r v) := .modL
theorem Preserves.writeV {r v} : Preserves Inv (writeV r v) := .modC
theorem Preserves.writeP {r v} : Preserves Inv (writeP r v) := .modL

theorem Preserves.markEmpty {isV r} : Preserves Inv (markEmpty isV r) :=
  .get fun _ _ => .bind .modC fun _ => .pure

theorem Preserves.checkHole {ea} : Preserves P (checkHole ea) := by
  unfold Machine.checkHole
  split
  · exact .trapAt
  · exact .pure

theorem Preserves.checkAlign {ea n} : Preserves P (checkAlign ea n) := .ite .trapAt .pure

theorem Preserves.loadFor {x src cls ea n} : Preserves Inv (loadFor x src cls ea n) :=
  .get fun _ _ => .ite .pure <| .bind .readEa fun _ => .pure

theorem Preserves.loadBytes {src cls ea n} : Preserves Inv (loadBytes src cls ea n) :=
  .get fun _ _ => .loadFor

theorem Preserves.gateStore {src cls writes} : Preserves Inv (gateStore src cls writes) :=
  .get fun _ h => .bind (.set h.update) fun _ => .modC

/-! ### Status word and FP flags -/

theorem Preserves.getRM : Preserves P getRM := .get fun _ _ => .pure

theorem Preserves.raiseFlags {flags write} (hwrite : Preserves Inv write) :
    Preserves Inv (raiseFlags flags write) := .get fun _ _ => .bind .modL fun _ => .ite .trapAt hwrite

/-! ### The fibre queue -/

theorem Preserves.modLive {x f} : Preserves Inv (modLive x f) := .modify fun _ h => h.modCtx

theorem Preserves.fillGate {x id writes poison} : Preserves Inv (fillGate x id writes poison) :=
  .modify fun _ h => h.modCtx

theorem Preserves.sendTo {x a} : Preserves Inv (sendTo x a) := .modify fun _ h => h.modCtx
theorem Preserves.fibreRead {x a n} : Preserves Inv (fibreRead x a n) := .bind .loadFor fun _ => .pure

theorem Preserves.mergeSide {x base n e} : Preserves Inv (mergeSide x base n e) := by
  unfold Machine.mergeSide
  split
  · exact .pure
  · exact .bind .fibreRead fun _ => .pure

theorem Preserves.mergeAll {x f n rm z pos a b es acc} : Preserves Inv (mergeAll x f n rm z pos a b es acc) := by
  induction es generalizing acc with
  | nil => exact .pure
  | cons e es ih => exact .bind .mergeSide fun _ => .bind .mergeSide fun _ => .ite ih ih

theorem Preserves.fibreTrap {x cause info} : Preserves Inv (fibreTrap x cause info) :=
  .get fun _ _ => .modify fun _ h => h.modCtx.deferTrap

theorem Preserves.dropHoles {x writes} : Preserves Inv (dropHoles x writes) := by
  unfold Machine.dropHoles
  split
  · exact .pure
  · exact .bind .fibreTrap fun _ => .pure

theorem Preserves.laneReads {x n es} : Preserves Inv (laneReads x n es) := by
  induction es with
  | nil => exact .pure
  | cons e es ih =>
    refine .bind ?_ fun _ => .bind ih fun _ => .pure
    split
    · exact .pure
    · exact .fibreRead

theorem Preserves.fOpPerform {o x pc} : Preserves Inv (FOp.perform o x pc) := by
  unfold FOp.perform
  split
  · exact .bind .laneReads fun _ => .sendTo
  · exact .sendTo
  · exact .get fun _ _ => .bind .modLive fun _ => .bind .dropHoles fun _ => .fillGate
  · exact .get fun _ _ => .bind .mergeAll fun _ => .bind .modLive fun _ => .bind .dropHoles fun _ =>
      .bind .fillGate fun _ => .ite .fibreTrap .pure
  · exact .get fun _ _ => .sendTo
  · exact .get fun _ _ => .fillGate

theorem Preserves.performFibres {x cs} : Preserves Inv (performFibres x cs) := by
  induction cs with
  | nil => exact .pure
  | cons c cs ih => exact .bind (.modify fun _ h => h.modCore) fun _ => .bind .fOpPerform fun _ => ih

theorem Preserves.drainFibre {x} : Preserves Inv (drainFibre x) := .get fun _ _ => .performFibres

/-! ### Shared operations of an issue -/

theorem Preserves.awaitEngines : Preserves Inv awaitEngines :=
  .get fun _ _ => .bind .drainFibre fun _ => .get fun _ _ => .ite .throw <| .ite .throw .pure

theorem Inv.stalled {s u} (h : Inv s) : Inv (s.stalled u) := by
  unfold State.stalled
  dsimp only
  split
  · exact h.update
  · exact h.update
  · exact h

theorem Preserves.awaitCopies {write ea n} : Preserves P (awaitCopies write ea n) :=
  .get fun _ _ => .ite .throw .pure

theorem Preserves.acceptEntry {g} : Preserves Inv (acceptEntry g) :=
  .get fun _ _ => .mapEach fun _ => .bind .locate fun _ => .pure

theorem Preserves.performEntry {g acc} : Preserves Inv (performEntry g acc) :=
  .get fun _ _ =>
  .bind
    (.forEach fun ⟨_, _, _⟩ => .bind .writePlace fun _ => by
         split
         · exact .forEach fun _ => .modify fun _ h => h.poisonWords
         · exact .pure) fun _ =>
  .modK

theorem Preserves.commitGate : Preserves Inv commitGate :=
  .get fun _ _ => .bind .drainFibre fun _ => .get fun _ _ => .bind
    (.mapEach fun _ => .acceptEntry) fun _ =>
  .bind (.forEach fun _ => .performEntry) fun _ => .modC

theorem Preserves.takeMark {p} : Preserves Inv (takeMark p) :=
  .bind .commitGate fun _ => .get fun _ _ => .bind .modK fun _ => .modC

theorem Inv.decouple {s id} (h : Inv s) : Inv (s.decouple id) := h.update

theorem Inv.park {s x r} (h : Inv s) : Inv (s.park x r) := by
  unfold State.park
  dsimp only
  split
  · next e =>
    refine Preserves.faultPost.ok ?_ e
    exact h.modCore.modCtx.modCore.decouple.handIssue
  · next e =>
    refine Preserves.faultPost.error ?_ e
    exact h.modCore.modCtx.modCore.decouple.handIssue

theorem Inv.ctxStateEntry {s x} (h : Inv s) : Inv (s.ctxStateEntry x) := h.strataAdd
theorem Inv.trapEntryRecord {s x t} (h : Inv s) : Inv (s.trapEntryRecord x t) := h.strataAdd
theorem Inv.halt {s x} (h : Inv s) : Inv (s.halt x) := h.modCore.modCtx.handIssue

theorem Preserves.takeTrap {t} : Preserves Inv (takeTrap t) :=
  .get fun _ _ => .bind (.modify fun _ h => h.decouple) fun _ =>
  .ite (.bind (.modify fun _ h => h.halt.trapEntryRecord.ctxStateEntry) fun _ => .failTasks) <|
  .ite
    (.bind .modC fun _ => .bind (.modify fun _ h => h.halt.trapEntryRecord.ctxStateEntry) fun _ =>
     .failTasks)
    (.bind .modC fun _ => .bind .takeMark fun _ => .bind .modC fun _ => .iteThen
       (.modify fun _ h => h.trapEntryRecord) fun _ =>
       .ite (.modify fun _ h => h.makeReady) .pure)

theorem Preserves.tretHeader {x a} : Preserves Inv (tretHeader x a) :=
  .ite .pure <| by
    split
    · exact .pure
    · exact .bind .fetchWord fun _ => .pure

theorem Preserves.returnFromTrap {word} : Preserves Inv (returnFromTrap word) :=
  .get fun _ _ => .ite .trapAt <| .bind .tretHeader fun _ => .bind .modCur fun _ => by
    split
    · exact .ite .throw <| .bind .modC fun _ => .ite (.modify fun _ h => h.trapEntryRecord) .pure
    · exact .bind .modC fun _ => .bind .takeMark fun _ => .bind .modC fun _ =>
        .ite (.modify fun _ h => h.leave) .pure


theorem Preserves.beginIssue : Preserves Inv beginIssue := .get fun _ _ => .bind .modC fun _ => .modCur
theorem Preserves.armSlot {o} : Preserves Inv (armSlot o) := .get fun _ _ => .ite .modL .pure
theorem Preserves.stepSlot {o} : Preserves Inv (stepSlot o) := .modL

theorem Preserves.performAtEnd : Preserves Inv performAtEnd :=
  .get fun _ _ => by
    split
    · exact .bind .modCur fun _ => .endOpPerform
    · exact .pure

theorem Preserves.performSlotOp {o} (ho : Preserves Inv o.perform) : Preserves Inv (performSlotOp o) :=
  .bind .modCur fun _ => .get fun _ _ => .ite .pure <| .bind .armSlot fun _ =>
  .ite (.bind .modCur fun _ => .stepSlot) <| .bind ho fun _ => .bind .performAtEnd fun _ =>
  .bind .modCur fun _ => .stepSlot

theorem Preserves.raiseShape : Preserves Inv raiseShape :=
  .get fun _ _ => by
    split
    · exact .ite .pure <| .bind .modCur fun _ => .bind .modC fun _ => .trapAt
    · exact .pure

theorem Inv.releaseYield {s x} (h : Inv s) : Inv (s.releaseYield x) :=
  .foldl h fun _ _ h => .ite h.modCtx.makeReady h

theorem Preserves.endIssue : Preserves Inv endIssue :=
  .get fun _ _ => .ite (.modify fun _ h => h.releaseYield) <| .bind .modC fun _ =>
  .iteThen .takeMark fun _ => .bind .modC fun _ => .get fun _ _ =>
    .ite (.bind (.modify fun _ h => h.leave) fun _ => .modify fun _ h => h.releaseYield) <|
    .modify fun _ h => h.releaseYield

theorem Preserves.performIssue {l} (hl : ∀ o ∈ l, Preserves Inv o.perform) : Preserves Inv (performIssue l) :=
  have part (p : SlotOp → Bool) : Preserves Inv (Machine.forEach (l.filter p) Machine.performSlotOp) :=
    .forEach_mem fun o ho => .performSlotOp (hl o (List.mem_filter.mp ho).1)
  .bind .beginIssue fun _ => .bind (part _) fun _ => .bind .raiseShape fun _ => .bind (part _) fun _ => .endIssue

theorem Preserves.preMarks {mark l} : Preserves Inv (preMarks mark l) :=
  .get fun _ _ => .ite .takeMark .pure

theorem Preserves.blockIssue {why} : Preserves Inv (blockIssue why) :=
  .get fun _ _ => .bind .takeMark fun _ => .bind .modC fun _ => .modify fun _ h => h.leave

theorem Yields.settle {base r} (hb : Inv base) (hr : Inv (left r)) : Yields Inv (settle base r) := by
  have back : ∀ r : EStateM.Result Exit State Unit, Inv (left r) → Yields Inv
      (match r with
        | .ok _ s => .next s
        | .error (.refuse f) _ => .next (base.park base.cur.x f)
        | .error (.stall u) _ => .next (base.stalled u)
        | .error (.fault f) _ => .fault f
        | .error _ s => .next s) := by
    intro r hr
    split
    · exact .next hr
    · exact .next hb.park
    · exact .next hb.stalled
    · exact .fault
    · exact .next hr
  unfold Machine.settle
  split
  · exact .next hr
  · exact back _ (.leaves .takeTrap hr)
  · exact back _ (.leaves .blockIssue hb)
  · exact back _ hr

theorem Yields.runIssue {mark l s} (hl : ∀ o ∈ l, Preserves Inv o.perform) (h : Inv s) :
    Yields Inv (runIssue mark l s) := by
  unfold Machine.runIssue
  split
  · exact .settle h (.leaves .blockIssue h)
  · split
    · next e =>
      have hb := Preserves.preMarks.ok h e
      exact .settle hb (.leaves (.performIssue hl) hb)
    · next e => exact .settle h (Preserves.preMarks.error h e)

/-! ### The order of matrix and scale commands -/

theorem Yields.execMCommandPerform {k s} (h : Inv s) : Yields Inv (execMCommandPerform k s) := by
  unfold Machine.execMCommandPerform
  dsimp only
  split
  · exact .next h
  · exact .ite
        (by
           split
           · exact .next h.setCore.shortOp
           · exact .next h.setCore.setCore)
        (.next h.setCore.mCmdRun)

theorem Yields.execMmaRetirement {k s} (h : Inv s) : Yields Inv (execMmaRetirement k s) := by
  unfold Machine.execMmaRetirement
  split
  · exact .next h
  · exact .next h.modCore.mCmdRun

/-! ### Reading and writing tensors -/

theorem Inv.modCopy {s k id f} (h : Inv s) : Inv (s.modCopy k id f) := h.modCore

theorem Inv.tellAccess {s k p a} (h : Inv s) : Inv (s.tellAccess k p a) := by
  unfold State.tellAccess
  split
  · exact .ite h h.modCopy.deferTrap
  · exact h

theorem Preserves.parkCopy {k id r} : Preserves Inv (parkCopy k id r) :=
  .bind (.modify fun _ h => h.modCopy) fun _ => .faultPost

theorem Inv.copyBits {s p} (h : Inv s) : Inv (s.copyBits p) := .ite h h.modCtx
theorem Inv.copyDone {s k p} (h : Inv s) : Inv (s.copyDone k p) := h.modCore

theorem Inv.chunksDone {s k id l} (h : Inv s) : Inv (s.chunksDone k id l) := by
  unfold State.chunksDone
  dsimp only
  split
  · exact .ite h.modCopy.copyBits.copyDone h.modCopy.copyBits
  · exact h.modCopy

theorem Inv.copyAll {s k id} (h : Inv s) : Inv (s.copyAll k id) := by
  unfold State.copyAll
  split
  · exact h.chunksDone
  · exact h

theorem Preserves.readCarried {rq va p n} : Preserves Inv (readCarried rq va p n) :=
  .bind .readPlace fun _ => .get fun _ _ => .pure

theorem Preserves.writeCarried {rq va p l mapped} : Preserves Inv (writeCarried rq va p l mapped) :=
  .bind .writePlace fun _ => by
    split
    · exact .forEach fun _ => .modify fun _ h => h.poisonWords
    · exact .pure

theorem Preserves.writePieces {rq mapped ps l} : Preserves Inv (writePieces rq mapped ps l) := by
  induction ps generalizing l with
  | nil => exact .pure
  | cons p ps ih => exact .bind (.forEach fun _ => .writeCarried) fun _ => ih

theorem Preserves.shapeLocate {s rq acc k a} : Preserves Inv (Shape.locate s rq acc k a) :=
  .ite .translate .pure

theorem Preserves.shapePieces {s rq acc k lo n} : Preserves Inv (Shape.pieces s rq acc k lo n) :=
  .mapEach fun _ => .bind .shapeLocate fun _ => .pure

theorem Preserves.copyCmdRead {p k sh lo n} : Preserves Inv (CopyCmd.read p k sh lo n) :=
  .bind (.mapEach fun _ => .ite .pure <| .bind .shapeLocate fun _ => .readCarried) fun _ => .pure

theorem Preserves.planePieces {rq acc k ea n} : Preserves Inv (planePieces rq acc k ea n) :=
  .mapEach fun _ => .bind .locate fun _ => .pure

theorem Preserves.planeRead {rq k ea n} : Preserves Inv (planeRead rq k ea n) :=
  .bind .planePieces fun _ => .bind (.mapEach fun _ => .readCarried) fun _ => .pure

theorem Preserves.planeWrite {rq ps l} : Preserves Inv (planeWrite rq ps l) := .writePieces

theorem Yields.runOp {op : Op Unit} {s} (hop : Preserves Inv op) (h : Inv s) : Yields Inv (runOp op s) := by
  unfold Machine.runOp
  split
  · next e => exact .next (hop.ok h e)
  · exact .fault
  · exact .next h

/-! ### The update engine -/

theorem Preserves.updateChunk {k p q} : Preserves Inv (updateChunk k p q) := by
  unfold Machine.updateChunk
  dsimp only
  split
  · exact .modify fun _ h => h.tellAccess
  · exact .bind .planePieces fun _ => .bind .planeRead fun _ => .bind .planePieces fun _ =>
      .bind .planeRead fun _ => .iteBind .planePieces .pure fun _ => .iteBind .planeRead .pure fun _ =>
          .iteBind .planePieces .pure fun _ => .iteBind .planeRead .pure fun _ =>
              .bind .shapePieces fun _ => .bind .copyCmdRead fun _ => .bind .nextFree fun _ =>
              .get fun _ _ => .ite (.modify fun _ h => h.modCopy) <| .iteThen .planeWrite fun _ =>
                .bind .planeWrite fun _ =>
                .ite
                  (.bind .writePieces fun _ => .bind .planeWrite fun _ => .modify fun _ h => h.modCopy)
                  (.bind .writePieces fun _ => .modify fun _ h => h.modCopy)

theorem Inv.resetTags {s ps} (h : Inv s) : Inv (s.resetTags ps) :=
  .foldl h fun _ ⟨_, _, _⟩ h => by
      dsimp only
      split
      · exact .ite h h.setTag.setTag
      · exact h

theorem Preserves.writeStatusWord {k p v} : Preserves Inv (writeStatusWord k p v) :=
  .ite (.modify fun _ h => h.tellAccess) <| .bind .planePieces fun _ => .planeWrite

theorem Preserves.finishUpdate {k p} : Preserves Inv (finishUpdate k p) :=
  .bind (.mapEach fun _ => .planePieces) fun _ =>
  .bind (.forEach fun _ => .bind (.modify fun _ h => h.resetTags) fun _ => .ite .planeWrite .pure) fun _ =>
  .writeStatusWord

theorem Preserves.gateOpen {k p gate} : Preserves Inv (gateOpen k p gate) := by
  unfold Machine.gateOpen
  split
  · exact .pure
  · exact .bind .locate fun _ => .bind .readPlace fun _ => .pure

theorem Preserves.readDescriptor {k p} : Preserves Inv (readDescriptor k p) := by
  unfold Machine.readDescriptor
  split
  · exact .bind .planeRead fun _ => .bind (.modify fun _ h => h.modCopy) fun _ => .pure
  · exact .pure

theorem Preserves.beginUpdate {k p0} : Preserves Inv (beginUpdate k p0) :=
  .bind .readDescriptor fun _ => .ite (.bind .writeStatusWord fun _ => .modify fun _ h => h.copyAll) <|
  .bind .gateOpen fun _ => .ite .pure <|
  .bind
    (.ite (.bind (.modify fun _ h => h.tellAccess) fun _ => .bind .nextFree fun _ => .pure) <|
     .bind .planeRead fun _ => .pure) fun _ =>
  .bind .nextFree fun _ => .modify fun _ h => h.modCopy

/-! ### The block-transfer engine -/

theorem Preserves.copyCmdIndex {p k base r} : Preserves Inv (CopyCmd.index p k base r) :=
  .ite .pure <| .bind .planeRead fun _ => .pure

theorem Preserves.copyCmdRowOf {p k base limit r} : Preserves Inv (CopyCmd.rowOf p k base limit r) :=
  .bind .copyCmdIndex fun _ => by
    split
    · exact .pure
    · exact .bind (.modify fun _ h => h.tellAccess) fun _ => .pure

theorem Preserves.copyCmdRowBytes {p k row off n} : Preserves Inv (CopyCmd.rowBytes p k row off n) := by
  unfold CopyCmd.rowBytes
  dsimp only
  split
  · exact .pure
  · exact .bind .copyCmdRead fun _ => .pure

theorem Preserves.copyCmdTranspose {p k lo n} : Preserves Inv (CopyCmd.transpose p k lo n) :=
  .ite (.mapEach fun _ => .bind .copyCmdRead fun _ => .bind .copyCmdRead fun _ => .pure) <|
  .bind (.mapEach fun _ => .copyCmdRead) fun _ => .pure

theorem Preserves.copyCmdFetch {p k lo n} : Preserves Inv (CopyCmd.fetch p k lo n) := by
  unfold CopyCmd.fetch
  dsimp only
  cases p.kind with
  | gather _ =>
    exact .bind (.mapEach fun _ => .bind .copyCmdRowOf fun _ => .copyCmdRowBytes) fun _ => .pure
  | scatter _ =>
    exact .bind (.mapEach fun _ => .copyCmdRowOf) fun _ => .bind (.mapEach fun _ => .copyCmdRowBytes) fun _ => .pure
  | copyt => exact .bind .copyCmdTranspose fun _ => .pure
  | _ => exact .bind .copyCmdRead fun _ => .pure

theorem Preserves.copyCmdTarget {p k lo n} : Preserves Inv (CopyCmd.target p k lo n) := by
  unfold CopyCmd.target
  split
  · exact .get fun _ _ => .pure
  · exact .shapePieces

theorem Preserves.crcCheck {ps l} : Preserves Inv (crcCheck ps l) :=
  .bind .nextFree fun _ => by
    dsimp only
    split
    · exact .bind (.forEach fun _ => .modify fun _ h => h.count) fun _ =>
        .ite (.bind (.modify fun _ h => h.strataAdd) fun _ => .pure) .pure
    · exact .pure

theorem Preserves.reducePieces {rq fmt size sr ps l} : Preserves Inv (reducePieces rq fmt size sr ps l) := by
  induction ps generalizing l with
  | nil => exact .pure
  | cons p ps ih =>
    exact .bind (.forEach fun _ => .bind (.ite (.bind .nextFree fun _ => .pure) .pure) fun _ =>
      .bind .readCarried fun _ => .writeCarried) fun _ => ih

theorem Preserves.reduceChunk {k p sr lo n} : Preserves Inv (reduceChunk k p sr lo n) :=
  .bind .copyCmdRead fun _ => .bind .shapePieces fun _ => by
    dsimp only
    split
    · exact .bind (.modify fun _ h => h.tellAccess) fun _ => .pure
    · exact .bind .crcCheck fun _ => .bind .reducePieces fun _ => .pure

theorem Preserves.servePage {k p chunk} : Preserves Inv (servePage k p chunk) :=
  .ite .pure <| .bind .translate fun _ =>
  .bind
    (by
       split
       · exact .get fun _ h => .ite (.bind (.set h.write) fun _ => .pure) .pure
       · exact .bind .nextFree fun _ => .pure) fun _ =>
  .ite (.bind (.modify fun _ h => h.modCopy) fun _ => .pure) .pure

theorem Preserves.copyCmdTransfer {p k chunk} : Preserves Inv (CopyCmd.transfer p k chunk) := by
  unfold CopyCmd.transfer
  dsimp only
  split
  · exact .reduceChunk
  · exact .iteThen .updateChunk fun _ => .pure
  · exact .bind .copyCmdFetch fun _ => .bind .copyCmdTarget fun _ => .bind .crcCheck fun _ =>
      .bind .writePieces fun _ => .pure

theorem Preserves.copyCmdArrival {p k chunk} : Preserves Inv (CopyCmd.arrival p k chunk) := by
  unfold CopyCmd.arrival
  split
  · exact .pure
  · exact .bind .barArrive fun _ => by
        split
        · exact .bind .faultPost fun _ => .modify fun _ h => h.tellAccess
        · exact .pure

theorem Preserves.copyCmdAfterChunk {p k chunk} : Preserves Inv (CopyCmd.afterChunk p k chunk) := by
  unfold CopyCmd.afterChunk
  split
  · exact .ite .finishUpdate .pure
  · exact .copyCmdArrival

theorem Preserves.settleChunk {k id chunk} : Preserves Inv (settleChunk k id chunk) :=
  .get fun _ _ => by
    split
    · exact .pure
    · exact .bind (.tryOp .copyCmdAfterChunk) fun _ => by
          split
          · exact .modify fun _ h => h.chunksDone
          · exact .parkCopy

theorem Preserves.writeChunk {k p chunk} : Preserves Inv (writeChunk k p chunk) :=
  .bind (.tryOp .copyCmdTransfer) fun _ => by
    split
    · exact .parkCopy
    · exact .ite (.modify fun _ h => h.chunksDone) <| .bind (.modify fun _ h => h.modCopy) fun _ =>
        .settleChunk

theorem Preserves.copyChunk {k id chunk} : Preserves Inv (copyChunk k id chunk) :=
  .get fun _ _ => by
    split
    · exact .pure
    · exact .ite .settleChunk <|
        .ite
          (.bind (.tryOp .servePage) fun _ => by
             split
             · exact .parkCopy
             · exact .writeChunk
             · exact .modify fun _ h => h.chunksDone)
          .writeChunk

theorem Yields.execCopyChunkWritten {k id chunk s} (h : Inv s) :
    Yields Inv (execCopyChunkWritten k id chunk s) := .runOp .copyChunk h

theorem Yields.execCringRoom {k id s} (h : Inv s) : Yields Inv (execCringRoom k id s) := by
  unfold Machine.execCringRoom
  split
  · exact .next h.modCopy
  · exact .next h

theorem Preserves.publishPages {rq pages} : Preserves Inv (publishPages rq pages) :=
  .bind .ldtLookup fun _ => .get fun _ _ => .ite .refuse <|
  .ite (.bind (.modify fun _ h => h.update) fun _ => .pure) <| by
    dsimp only
    split
    · exact .refuse
    · exact .bind (.mapEach fun _ => .bind .tlbLookup fun _ => .ite .refuse .pure) fun _ => .pure

theorem Inv.exchange {s d t} (h : Inv s) : Inv (s.exchange d t) := h.write.modDie

theorem Yields.execPublishExchange {k id s} (h : Inv s) : Yields Inv (execPublishExchange k id s) := by
  unfold Machine.execPublishExchange
  split
  · exact .next h
  · exact .runOp (.bind (.tryOp .publishPages) fun _ => by
            split
            · exact .parkCopy
            · exact .modify fun _ h => h.copyAll
            · exact .modify fun _ h => .copyAll (.foldl h fun _ _ h => h.exchange)) h

theorem Yields.execUpdGateOpen {k id s} (h : Inv s) : Yields Inv (execUpdGateOpen k id s) := by
  unfold Machine.execUpdGateOpen
  split
  · exact .next h
  · exact .runOp (.bind (.tryOp .beginUpdate) fun _ => by
            split
            · exact .parkCopy
            · exact .pure) h

/-! ### Scalar integer forms -/

theorem Preserves.aluRR {f r} : Preserves Inv (aluRR f r) :=
  .bind .need fun _ => .bind .getS fun _ => .bind .getS fun _ => .writeS

theorem Preserves.aluRU {f r} : Preserves Inv (aluRU f r) :=
  .bind .need fun _ => .bind .getS fun _ => .writeS

theorem Preserves.aluRI {f r} : Preserves Inv (aluRI f r) :=
  .bind .need fun _ => .bind .getS fun _ => .writeS

theorem Preserves.sNopOp : Preserves P sNopOp := .pure
theorem Preserves.bfxOp {r} : Preserves Inv (bfxOp r) := .bind .need fun _ => .bind .getS fun _ => .writeS

theorem Preserves.bfiOp {r} : Preserves Inv (bfiOp r) :=
  .bind .need fun _ => .bind .getS fun _ => .bind .getS fun _ => .writeS

theorem Preserves.cselOp {r} : Preserves Inv (cselOp r) :=
  .bind .need fun _ => .bind .getS fun _ => .bind .getS fun _ => .bind .getS fun _ => .writeS

theorem Preserves.lihOp {r} : Preserves Inv (lihOp r) := .bind .need fun _ => .bind .getS fun _ => .writeS
theorem Preserves.laOp {r} : Preserves Inv (laOp r) := .get fun _ _ => .writeS

/-! ### Branches and calls -/

theorem Preserves.brOp {r} : Preserves Inv (brOp r) := .get fun _ _ => .modCur
theorem Preserves.callOp {r} : Preserves Inv (callOp r) := .get fun _ _ => .bind .writeS fun _ => .modCur

theorem Preserves.bcOp {cc r} : Preserves Inv (bcOp cc r) :=
  .bind .need fun _ => .bind .getS fun _ => .bind .getS fun _ => .ite (.get fun _ _ => .modCur) .pure

theorem Preserves.jrOp {r} : Preserves Inv (jrOp r) := .bind .need fun _ => .bind .getS fun _ => .modCur

theorem Preserves.callrOp {r} : Preserves Inv (callrOp r) :=
  .bind .need fun _ => .get fun _ _ => .bind .writeS fun _ => .bind .getS fun _ => .modCur

theorem Preserves.retOp {r} : Preserves Inv (retOp r) := .bind .need fun _ => .bind .getS fun _ => .modCur

/-! ### Scalar loads, stores and atomics -/

theorem Preserves.scalarAddr {a disp stride} : Preserves P (scalarAddr a disp stride) :=
  .get fun _ _ => .bind .getS fun _ => .pure

theorem Preserves.deliverS {d cls ea v bad} : Preserves Inv (deliverS d cls ea v bad) :=
  .bind .markEmpty fun _ => .get fun _ _ => .ite .pure .sendValue

theorem Preserves.loadOp {n signed r} : Preserves Inv (loadOp n signed r) :=
  .bind .need fun _ => .bind .scalarAddr fun _ => .bind .checkHole fun _ => .bind .checkAlign fun _ =>
  .bind .awaitEngines fun _ => .bind .loadBytes fun _ => .deliverS

theorem Preserves.storeOp {n r} : Preserves Inv (storeOp n r) :=
  .bind .need fun _ => .bind .scalarAddr fun _ => .bind .checkHole fun _ => .bind .checkAlign fun _ =>
  .bind .awaitEngines fun _ => .bind .getS fun _ => .gateStore

theorem Preserves.atomicIssue {kind ea a b d cls} : Preserves Inv (atomicIssue kind ea a b d cls) :=
  .bind .checkHole fun _ => .bind .checkAlign fun _ => by
    split
    · exact .trapAt
    · exact .bind .awaitEngines fun _ => .bind .markEmpty fun _ => .modCur

theorem Preserves.atOp {kind r} : Preserves Inv (atOp kind r) :=
  .bind .need fun _ => .bind .scalarAddr fun _ => .bind .getS fun _ => .atomicIssue

theorem Preserves.atcasOp {r} : Preserves Inv (atcasOp r) :=
  .bind .need fun _ => .bind .scalarAddr fun _ => .bind .getS fun _ => .bind .getS fun _ => .atomicIssue

theorem Preserves.atfaddOp {r} : Preserves Inv (atfaddOp r) :=
  .bind .need fun _ => .bind .getS fun _ => .ite .trapAt <| .bind .scalarAddr fun _ => .bind .getS fun _ =>
  .atomicIssue

theorem Preserves.ataddsOp {r} : Preserves Inv (ataddsOp r) :=
  .bind .need fun _ => .bind .getS fun _ => .ite .trapAt <| .bind .scalarAddr fun _ => .bind .getS fun _ =>
  .atomicIssue

/-! ### Lanes -/

theorem Preserves.writeLanes {d p n new} : Preserves Inv (writeLanes d p n new) :=
  .bind .getV fun _ => .writeV

theorem Preserves.writePLanes {d p n new} : Preserves Inv (writePLanes d p n new) :=
  .bind .getP fun _ => .writeP

/-! ### Vector integer forms -/

theorem Preserves.vint2 {f r} : Preserves Inv (vint2 f r) :=
  .bind .need fun _ => .bind .getV fun _ => .bind .getV fun _ => .bind .getP fun _ => .writeLanes

theorem Preserves.vabsOp {r} : Preserves Inv (vabsOp r) :=
  .bind .need fun _ => .bind .getP fun _ => .bind .getV fun _ => .writeLanes

theorem Preserves.vcmpOp {cc r} : Preserves Inv (vcmpOp cc r) :=
  .bind .need fun _ => .bind .getV fun _ => .bind .getV fun _ => .bind .getP fun _ => .writePLanes

theorem Preserves.vNopOp : Preserves P vNopOp := .pure
theorem Preserves.pandOp {r} : Preserves Inv (pandOp r) := .bind .getP fun _ => .bind .getP fun _ => .writeP
theorem Preserves.porOp {r} : Preserves Inv (porOp r) := .bind .getP fun _ => .bind .getP fun _ => .writeP
theorem Preserves.pxorOp {r} : Preserves Inv (pxorOp r) := .bind .getP fun _ => .bind .getP fun _ => .writeP
theorem Preserves.pnotOp {r} : Preserves Inv (pnotOp r) := .bind .getP fun _ => .writeP
theorem Preserves.ppopOp {r} : Preserves Inv (ppopOp r) := .bind .getP fun _ => .writeS
theorem Preserves.pfirstOp {r} : Preserves Inv (pfirstOp r) := .bind .getP fun _ => .writeS

/-! ### Vector floating-point forms -/

theorem Preserves.vfp1 {f r} : Preserves Inv (vfp1 f r) :=
  .bind .need fun _ => .bind .getRM fun _ => .bind .getP fun _ => .bind .getV fun _ =>
  .raiseFlags .writeLanes

theorem Preserves.vfp2 {f r} : Preserves Inv (vfp2 f r) :=
  .bind .need fun _ => .bind .getRM fun _ => .bind .getP fun _ => .bind .getV fun _ => .bind .getV fun _ =>
  .raiseFlags .writeLanes

theorem Preserves.vfma3 {sub r} : Preserves Inv (vfma3 sub r) :=
  .bind .need fun _ => .bind .getRM fun _ => .bind .getP fun _ => .bind .getV fun _ => .bind .getV fun _ =>
  .bind .getV fun _ => .raiseFlags .writeLanes

theorem Preserves.vfcmpOp {cc r} : Preserves Inv (vfcmpOp cc r) :=
  .bind .need fun _ => .bind .getP fun _ => .bind .getV fun _ => .bind .getV fun _ =>
  .raiseFlags .writePLanes

theorem Preserves.vcvtOp {r} : Preserves Inv (vcvtOp r) :=
  .bind .need fun _ => .bind .getRM fun _ => .bind .getP fun _ => .bind .getV fun _ => .bind .getV fun _ =>
  .raiseFlags .writeV

theorem Preserves.vsxpackOp {r} : Preserves Inv (vsxpackOp r) :=
  .bind .need fun _ => .bind .getRM fun _ => .bind .getV fun _ => .bind .getV fun _ => .raiseFlags .writeV

theorem Preserves.vsxunpackOp {r} : Preserves Inv (vsxunpackOp r) :=
  .bind .need fun _ => .bind .getV fun _ => .writeV

/-! ### Vector data movement -/

theorem Preserves.vpermOp {r} : Preserves Inv (vpermOp r) :=
  .bind .need fun _ => .bind .getV fun _ => .bind .getV fun _ => .bind .getP fun _ => .writeLanes

theorem Preserves.vshufOp {r} : Preserves Inv (vshufOp r) :=
  .bind .need fun _ => .bind .getV fun _ => .bind .getV fun _ => .bind .getP fun _ => .writeLanes

theorem Preserves.vbcastOp {r} : Preserves Inv (vbcastOp r) :=
  .bind .need fun _ => .bind .getS fun _ => .bind .getP fun _ => .writeLanes

theorem Preserves.vmovsOp {r} : Preserves Inv (vmovsOp r) :=
  .ite (.bind .need fun _ => .bind .getS fun _ => .bind .getV fun _ => .writeS) <| .bind .need fun _ =>
  .bind .getS fun _ => .bind .getS fun _ => .bind .getV fun _ => .writeV

theorem Preserves.vselOp {r} : Preserves Inv (vselOp r) :=
  .bind .need fun _ => .bind .getV fun _ => .bind .getV fun _ => .bind .getP fun _ => .bind .getP fun _ =>
  .writeLanes

theorem Preserves.vcompressOp {r} : Preserves Inv (vcompressOp r) :=
  .bind .need fun _ => .bind .getP fun _ => .bind .getV fun _ => .writeV

theorem Preserves.vexpandOp {r} : Preserves Inv (vexpandOp r) :=
  .bind .need fun _ => .bind .getP fun _ => .bind .getV fun _ => .writeLanes

theorem Preserves.vredOp {r} : Preserves Inv (vredOp r) :=
  .bind .need fun _ => .bind .getRM fun _ => .bind .getP fun _ => .bind .getV fun _ => .bind .getV fun _ =>
  .raiseFlags .writeV

theorem Preserves.vscanOp {r} : Preserves Inv (vscanOp r) :=
  .bind .need fun _ => .bind .getRM fun _ => .bind .getP fun _ => .bind .getV fun _ =>
  .raiseFlags .writeLanes

theorem Preserves.vtopkOp {r} : Preserves Inv (vtopkOp r) :=
  .bind .need fun _ => .bind .getP fun _ => .bind .getV fun _ => .bind .getV fun _ => .bind .getV fun _ =>
  .bind .getV fun _ => .bind .writeV fun _ => .writeV

/-! ### LP forms -/

theorem Preserves.deliverLp {p l write} (hwrite : ∀ a0, Preserves P (write a0)) :
    Preserves P (deliverLp p l write) := .ite .trapAt <| hwrite _

theorem Preserves.vlp2 {f r} : Preserves Inv (vlp2 f r) :=
  .bind .need fun _ => .bind .getP fun _ => .bind .getV fun _ => .bind .getV fun _ => .deliverLp fun _ =>
    .writeLanes

theorem Preserves.vlpcvtOp {r} : Preserves Inv (vlpcvtOp r) :=
  .bind .need fun _ => .bind .getP fun _ => .bind .getV fun _ => .bind .getV fun _ =>
  .bind .getRM fun _ => by
    split
    · exact .raiseFlags .writeLanes
    · exact .raiseFlags .writeV
    · exact .writeLanes
    · exact .deliverLp fun _ => .writeV

theorem Preserves.vlpsplitOp {r} : Preserves Inv (vlpsplitOp r) :=
  .bind .need fun _ => .bind .getV fun _ => .bind .getV fun _ => .bind .getV fun _ => .bind
    .writeV fun _ =>
  .writeV

theorem Preserves.vlpjoinOp {r} : Preserves Inv (vlpjoinOp r) :=
  .bind .need fun _ => .bind .getP fun _ => .bind .getV fun _ => .bind .getV fun _ => .deliverLp fun _ =>
    .writeLanes

theorem Preserves.vrandOp {r} : Preserves Inv (vrandOp r) :=
  .get fun _ _ => .bind .modL fun _ => .bind .getP fun _ => .writeLanes

/-! ### Vector loads and stores -/

theorem Preserves.vecAddr {r} : Preserves P (vecAddr r) := .get fun _ _ => .bind .getS fun _ => .pure

theorem Preserves.checkLaneHoles {l} : Preserves P (checkLaneHoles l) := by
  unfold Machine.checkLaneHoles
  split
  · exact .trapAt
  · exact .pure

theorem Preserves.checkLanes {n l} : Preserves P (checkLanes n l) :=
  .bind .checkLaneHoles fun _ => by
    split
    · exact .trapAt
    · exact .pure

theorem Preserves.deliverV {d cls p n ea new bad} : Preserves Inv (deliverV d cls p n ea new bad) :=
  .bind .getV fun _ => .bind .markEmpty fun _ => .get fun _ _ => .sendValue

theorem Preserves.loadLanes {d cls p n ea l} : Preserves Inv (loadLanes d cls p n ea l) :=
  .bind .awaitEngines fun _ => .bind (.mapEach fun _ => .bind .loadBytes fun _ => .pure) fun _ => .deliverV

theorem Preserves.storeLanes {v cls n l} : Preserves Inv (storeLanes v cls n l) :=
  .bind .awaitEngines fun _ => .gateStore

theorem Preserves.vldOp {r} : Preserves Inv (vldOp r) :=
  .bind .need fun _ => .bind .vecAddr fun _ => .bind .checkHole fun _ => .bind .checkAlign fun _ =>
  .bind .getP fun _ => .bind .checkLaneHoles fun _ => .loadLanes

theorem Preserves.vstOp {r} : Preserves Inv (vstOp r) :=
  .bind .need fun _ => .bind .vecAddr fun _ => .bind .checkHole fun _ => .bind .checkAlign fun _ =>
  .bind .getP fun _ => .bind .getV fun _ => .bind .checkLaneHoles fun _ =>
  .ite (.bind .awaitEngines fun _ => .gateStore) .storeLanes

theorem Preserves.stridedAddrs {r} : Preserves P (stridedAddrs r) :=
  .bind .vecAddr fun _ => .bind .getS fun _ => .bind .getP fun _ => .pure

theorem Preserves.vldsOp {r} : Preserves Inv (vldsOp r) :=
  .bind .need fun _ => .bind .stridedAddrs fun _ => .bind .checkLanes fun _ => .bind .getP fun _ =>
  .bind .vecAddr fun _ => .loadLanes

theorem Preserves.vstsOp {r} : Preserves Inv (vstsOp r) :=
  .bind .need fun _ => .bind .stridedAddrs fun _ => .bind .checkLanes fun _ => .bind .getV fun _ =>
  .storeLanes

theorem Preserves.indexedAddrs {r} : Preserves P (indexedAddrs r) :=
  .bind .getS fun _ => .bind .getV fun _ => .bind .getP fun _ => .pure

theorem Preserves.vgathOp {r} : Preserves Inv (vgathOp r) :=
  .bind .need fun _ => .bind .indexedAddrs fun _ => .bind .checkLanes fun _ => .bind .getP fun _ =>
  .bind .getS fun _ => .loadLanes

theorem Preserves.vscatOp {r} : Preserves Inv (vscatOp r) :=
  .bind .need fun _ => .bind .indexedAddrs fun _ => .bind .checkLanes fun _ => .bind .getV fun _ =>
  .storeLanes

theorem Preserves.vldbOp {r} : Preserves Inv (vldbOp r) :=
  .bind .need fun _ => .bind .vecAddr fun _ => .bind .checkHole fun _ => .bind .checkAlign fun _ =>
  .bind .getP fun _ => .bind .awaitEngines fun _ => .bind (.ite .pure .loadBytes) fun _ => .deliverV

/-! ### Fibre streams at their issue -/

theorem Preserves.aheadBytes {a n} : Preserves Inv (aheadBytes a n) :=
  .bind
    (.mapEach fun _ => .bind .checkHole fun _ => .get fun _ _ => .iteThen .throw fun _ =>
         .bind .awaitCopies fun _ => .bind .loadBytes fun _ => .get fun _ _ => .ite .trapAt .pure) fun _ =>
  .pure

theorem Preserves.ahead {a n} : Preserves Inv (ahead a n) := .bind .aheadBytes fun _ => .pure

theorem Preserves.readLevel {desc} : Preserves Inv (readLevel desc) :=
  .bind .ahead fun _ => .ite .trapAt .pure

theorem Preserves.skipEntry {lv m} : Preserves Inv (skipEntry lv m) :=
  .ite (.bind .ahead fun _ => .pure) <| .bind .ahead fun _ => .pure

theorem Preserves.bitmapBit {lv s b} : Preserves Inv (bitmapBit lv s b) := .bind .ahead fun _ => .pure

theorem Preserves.nextBit {lv s n b} : Preserves Inv (nextBit lv s n b) := by
  induction n generalizing b with
  | zero => exact .pure
  | succ n ih => exact .bind .bitmapBit fun _ => .ite .pure ih

theorem Preserves.countBits {lv s n} : Preserves Inv (countBits lv s n) := by
  induction n with
  | zero => exact .pure
  | succ n ih => exact .bind .bitmapBit fun _ => .bind ih fun _ => .pure

theorem Preserves.malcoord {f v cond} : Preserves Inv (malcoord f v cond : Op α) :=
  .bind .modL fun _ => .trapAt

theorem Preserves.accept {f states} : Preserves P (accept f states) := .get fun _ _ => .ite .pure .trapAt

theorem Preserves.decodeEntry {lv f v prev} : Preserves Inv (decodeEntry lv f v prev) :=
  .ite .malcoord <| .bind .ahead fun _ => .ite .malcoord <| .ite .malcoord <|
  .bind (.ite .ahead .pure) fun _ => .ite .malcoord <| .ite .malcoord <|
  .bind (.ite .skipEntry .pure) fun _ => .ite .malcoord <| .ite .malcoord .pure

theorem Preserves.entryLen {lv v} : Preserves Inv (entryLen lv v) :=
  .ite .pure <| .bind .ahead fun _ => .pure

theorem Preserves.advanceIn {lv f v} : Preserves Inv (advanceIn lv f v) :=
  .ite .malcoord <| .ite .pure <| by
    dsimp only
    split
    · exact .ite .pure .pure
    · exact .bind .entryLen fun _ => .ite .pure .decodeEntry
    · exact .bind .nextBit fun _ => by split <;> exact .pure
    · exact .pure

theorem Preserves.skipSeq {lv f c n v} : Preserves Inv (skipSeq lv f c n v) := by
  induction n generalizing v with
  | zero => exact .pure
  | succ n ih => exact .ite .pure <| .bind .advanceIn fun _ => ih

theorem Preserves.tableFind {lv v c k} : Preserves Inv (tableFind lv v c k) := by
  induction k with
  | zero => exact .pure
  | succ k ih => exact .bind .skipEntry fun _ => .ite .pure ih

theorem Preserves.skipTable {lv f c v} : Preserves Inv (skipTable lv f c v) :=
  .bind .tableFind fun _ => by
    split
    · exact .pure
    · exact .ite .malcoord <| .ite .malcoord .pure

theorem Preserves.skipIn {lv f c tab v} : Preserves Inv (skipIn lv f c tab v) :=
  .ite .pure <| .ite .malcoord <| .ite .pure <| .bind (.ite .skipTable .pure) fun _ => .skipSeq

theorem Preserves.levelOf {v} : Preserves Inv (levelOf v) := .ite (.ite .pure .readLevel) .pure

theorem Preserves.walkOf {f v} : Preserves Inv (walkOf f v) :=
  .get fun _ _ => .bind .levelOf fun _ => .ite (.bind .levelOf fun _ => .bind .levelOf fun _ => .pure) .pure

theorem Preserves.resyncIsect {n w} : Preserves Inv (resyncIsect n w) := by
  induction n generalizing w with
  | zero => exact .pure
  | succ n ih => exact .ite .pure <| .ite (.bind .skipSeq fun _ => ih) <| .bind .skipSeq fun _ => ih

theorem Preserves.freeDraw : Preserves Inv freeDraw := .bind .nextFree fun _ => .pure

theorem Preserves.resyncUnion {w} : Preserves Inv (resyncUnion w) :=
  .ite (.bind .freeDraw fun _ => .pure) .pure

theorem Preserves.resync {w} : Preserves Inv (resync w) := .ite .resyncIsect .resyncUnion

theorem Preserves.walkAdvance {w} : Preserves Inv (Walk.advance w) :=
  .ite (.bind .advanceIn fun _ => .pure) <| .ite .malcoord <| .ite .pure <|
  .bind (.ite .advanceIn .pure) fun _ => .bind (.ite .advanceIn .pure) fun _ => .resync

theorem Preserves.walkAdvanceBy {n w} : Preserves Inv (Walk.advanceBy n w) := by
  induction n generalizing w with
  | zero => exact .pure
  | succ n ih => exact .bind .walkAdvance fun _ => ih

theorem Preserves.walkSkip {w c tab} : Preserves Inv (Walk.skip w c tab) :=
  .ite (.bind .skipIn fun _ => .pure) <| .ite .pure <| .ite .malcoord <| .bind .skipIn fun _ =>
  .bind .skipIn fun _ => .resync

theorem Preserves.walkTake {past n w} : Preserves Inv (Walk.take past n w) := by
  induction n generalizing w with
  | zero => exact .pure
  | succ n ih =>
    exact .ite .pure <| .ite .malcoord <| .ite .pure <| .bind .walkAdvance fun _ => .bind ih fun _ => .pure

theorem Preserves.freeStream {state desc lv} : Preserves Inv (freeStream state desc lv) :=
  .bind .freeDraw fun _ => .pure

theorem Preserves.segEntry {lv s} : Preserves Inv (segEntry lv s) :=
  .ite (.bind .ahead fun _ => .pure) <| .bind .ahead fun _ => .pure

theorem Preserves.openIn {f lv s} : Preserves Inv (openIn f lv s) :=
  .bind .freeStream fun _ => by
    dsimp only
    split
    · exact .pure
    · exact .bind .segEntry fun _ => .bind .segEntry fun _ => .ite .malcoord <| .ite .pure .decodeEntry
    · refine .bind .ahead fun _ => .bind .countBits fun _ => .bind .nextBit fun b => ?_
      cases b with
      | none => exact .pure
      | some _ => exact .pure
    · exact .bind .ahead fun _ => .ite .malcoord .pure

theorem Preserves.openOut {lv entry vbase} : Preserves Inv (openOut lv entry vbase) :=
  .bind .freeStream fun _ => .ite .trapAt .pure

theorem Preserves.openWith {r seg vbase} : Preserves Inv (openWith r seg vbase) :=
  .bind .accept fun _ => .bind .getS fun _ => .bind .checkHole fun _ => .bind .checkAlign fun _ =>
  .bind .awaitEngines fun _ => .bind .readLevel fun _ => .bind (.ite .openOut .openIn) fun _ => .modL

theorem Preserves.fopenOp {r} : Preserves Inv (fopenOp r) := .bind .need fun _ => .openWith

theorem Preserves.fopenExtOp {r e} : Preserves Inv (fopenExtOp r e) :=
  .bind .need fun _ => .bind .getS fun _ => .bind .getS fun _ => .openWith

theorem Preserves.fnextOp {r} : Preserves Inv (fnextOp r) :=
  .bind .accept fun _ => .bind .awaitEngines fun _ => .get fun _ _ => .ite (.ite .trapAt .modL) <|
  .bind .walkOf fun _ => .bind .walkAdvanceBy fun _ => .modL

theorem Preserves.fskipOp {r} : Preserves Inv (fskipOp r) :=
  .bind .need fun _ => .bind .accept fun _ => .bind .awaitEngines fun _ => .bind .getS fun _ =>
  .get fun _ _ => .bind .walkOf fun _ => .bind .walkSkip fun _ => .modL

theorem Preserves.joinOp {state r} : Preserves Inv (joinOp state r) :=
  .bind .accept fun _ => .bind .accept fun _ => .iteThen .trapAt fun _ => .bind .accept fun _ => .iteThen
      .trapAt fun _ =>
      .bind .awaitEngines fun _ => .bind .freeDraw fun _ => .bind .freeStream fun _ =>
      .bind .walkOf fun _ => .bind .resync fun _ => .modL

theorem Preserves.fibreRoom : Preserves P fibreRoom := .get fun _ _ => .ite .throw .pure

theorem Preserves.awaitWrite {ea n} : Preserves P (awaitWrite ea n) :=
  .bind .awaitCopies fun _ => .get fun _ _ => .ite .throw .pure

theorem Preserves.pushFibre {o} : Preserves Inv (pushFibre o) := .get fun _ _ => .modK

theorem Preserves.reserveGate : Preserves Inv reserveGate :=
  .get fun _ h => .bind (.set h.update) fun _ => .bind .modC fun _ => .pure

theorem Preserves.takeElems {f keep n} : Preserves Inv (takeElems f keep n) :=
  .get fun _ _ => .bind .walkOf fun _ => .walkTake

theorem Preserves.passElems {keep w} : Preserves Inv (passElems keep w) := .ite .pure .modL

theorem Preserves.checkHoles {n l} : Preserves P (checkHoles n l) :=
  .forEach fun _ => by
      split
      · exact .bind .checkHole fun _ => .awaitCopies
      · exact .pure

theorem Preserves.fldvOp {r} : Preserves Inv (fldvOp r) :=
  .bind .fibreRoom fun _ => .bind .need fun _ => .bind .accept fun _ => .get fun _ _ =>
  .iteThen .trapAt fun _ => .bind .getS fun _ => .bind .checkAlign fun _ => .bind .awaitEngines fun _ =>
    .bind .takeElems fun _ => .bind .checkHoles fun _ => .bind .passElems fun _ => .bind
      .markEmpty fun _ =>
    .pushFibre

theorem Preserves.fcrdOp {r} : Preserves Inv (fcrdOp r) :=
  .bind .fibreRoom fun _ => .bind .accept fun _ => .bind .awaitEngines fun _ => .bind .takeElems fun _ =>
  .bind .passElems fun _ => .bind .markEmpty fun _ => .pushFibre

theorem Preserves.checkEmit {f extent prev l} : Preserves Inv (checkEmit f extent prev l) := by
  induction l generalizing prev with
  | nil => exact .pure
  | cons e l ih => exact .ite .trapAt <| .ite .trapAt ih

theorem Preserves.femitOp {r} : Preserves Inv (femitOp r) :=
  .bind .fibreRoom fun _ => .bind .need fun _ => .bind .accept fun _ => .bind .awaitEngines fun _ =>
  .get fun _ _ => .bind .readLevel fun _ => .bind .getP fun _ => .bind .getV fun _ => .bind .getV fun _ =>
  .bind .checkEmit fun _ => by
    dsimp only
    split
    · exact .bind .modL fun _ => .bind .awaitWrite fun _ => .bind .awaitWrite fun _ =>
        .bind .reserveGate fun _ => .pushFibre
    · exact .bind .awaitWrite fun _ => .bind .awaitWrite fun _ => .bind .reserveGate fun _ => .pushFibre

theorem Preserves.fmergeOp {r} : Preserves Inv (fmergeOp r) :=
  .bind .fibreRoom fun _ => .bind .need fun _ => .bind .accept fun _ => .bind .accept fun _ =>
  .bind .getS fun _ => .bind .getS fun _ => .bind .checkAlign fun _ => .bind .checkAlign fun _ =>
  .bind .awaitEngines fun _ => .get fun _ _ => .bind .readLevel fun _ => .get fun _ _ =>
  .bind .walkOf fun _ => .bind .walkTake fun _ => .iteThen .trapAt fun _ => .bind .checkHoles fun _ =>
    .bind .modL fun _ => .iteElse .modL fun _ => .bind .awaitWrite fun _ => .bind .awaitWrite fun _ =>
      .bind .getRM fun _ => .bind .reserveGate fun _ => .pushFibre

theorem Preserves.fstatOp {r} : Preserves Inv (fstatOp r) :=
  .bind .fibreRoom fun _ => .bind .markEmpty fun _ => .pushFibre

theorem Preserves.fsaveOp {r} : Preserves Inv (fsaveOp r) :=
  .bind .fibreRoom fun _ => .bind .need fun _ => .bind .getS fun _ => .bind .checkHole fun _ =>
  .bind .checkAlign fun _ => .bind .awaitEngines fun _ => .bind .awaitWrite fun _ =>
  .bind .reserveGate fun _ => .pushFibre

theorem Preserves.frestOp {r} : Preserves Inv (frestOp r) :=
  .bind .need fun _ => .bind .accept fun _ => .bind .getS fun _ => .bind .checkHole fun _ =>
  .bind .checkAlign fun _ => .bind .awaitEngines fun _ => .bind .ahead fun _ => .get fun _ _ =>
  .ite .trapAt .modL

theorem Preserves.fcloseOp {r} : Preserves Inv (fcloseOp r) :=
  .bind .accept fun _ => .get fun _ _ => .bind .drainFibre fun _ => .modL

theorem Preserves.fNopOp : Preserves P fNopOp := .pure

/-! ### The M slot at its issue -/

theorem Preserves.myIndex : Preserves P myIndex := .get fun _ _ => .pure

theorem Preserves.bankFor {b read} : Preserves P (bankFor b read) :=
  .get fun _ _ => .ite .trapAt <| .ite .pure .trapAt

theorem Preserves.bankOf {b fmt} : Preserves P (bankOf b fmt) := .bind .bankFor fun _ => .ite .trapAt .pure

theorem Preserves.csetFor {n} : Preserves P (csetFor n) :=
  .get fun _ _ => .ite .trapAt <| .ite .trapAt .pure

theorem Preserves.ringFor {g t} : Preserves P (ringFor g t) :=
  .get fun _ _ => by
    split
    · exact .trapAt
    · exact .ite .trapAt .pure

theorem Preserves.ringsFor {ga gb ta tb} : Preserves P (ringsFor ga gb ta tb) :=
  .ite (.bind .ringFor fun _ => .pure) <| .bind .ringFor fun _ => .bind .ringFor fun _ => .pure

theorem Preserves.matrixRoom : Preserves P matrixRoom := .get fun _ _ => .ite .throw .pure

theorem Preserves.pushEngine {op port} : Preserves Inv (pushEngine op port) :=
  .get fun _ _ => .bind .modK fun _ => .modC

theorem Preserves.acallocOp {r} : Preserves Inv (acallocOp r) :=
  .bind .matrixRoom fun _ => .get fun _ _ => .bind .myIndex fun _ => .ite .trapAt <| .bind .modK fun _ =>
  .pushEngine

theorem Preserves.acfreeOp {r} : Preserves Inv (acfreeOp r) :=
  .bind .matrixRoom fun _ => .bind .bankFor fun _ => .modK

theorem Preserves.acgrantOp {r} : Preserves Inv (acgrantOp r) :=
  .bind .matrixRoom fun _ => .bind .bankFor fun _ => .bind .myIndex fun _ => .ite .pure .modK

theorem Preserves.aczeroOp {r} : Preserves Inv (aczeroOp r) :=
  .bind .matrixRoom fun _ => .bind .bankFor fun _ => .pushEngine

theorem Preserves.acrdOp {r} : Preserves Inv (acrdOp r) :=
  .bind .matrixRoom fun _ => .bind .bankFor fun _ => .get fun _ _ => .bind .markEmpty fun _ => .pushEngine

theorem Preserves.settleEngine : Preserves Inv settleEngine :=
  .get fun _ _ => .ite .throw <| .ite .pure <| .bind .commitGate fun _ => .get fun _ _ => .ite .throw <|
  .bind .modC fun _ => .modify fun _ h => .foldl h fun _ _ h => h.mCmdRun

theorem Preserves.acrdStOp {r} : Preserves Inv (acrdStOp r) :=
  .bind .matrixRoom fun _ => .bind .settleEngine fun _ => .get fun _ _ => .writeS

theorem Preserves.acwrOp {r} : Preserves Inv (acwrOp r) :=
  .bind .matrixRoom fun _ => .bind .need fun _ => .bind .bankFor fun _ => .get fun _ _ =>
  .bind .getV fun _ => .pushEngine

theorem Preserves.mmaOp {fmt r} : Preserves Inv (mmaOp fmt r) :=
  .bind .matrixRoom fun _ => .bind .bankFor fun _ => .iteThen .trapAt fun _ => .bind .ringsFor fun _ =>
    .get fun _ h => .ite (.bind (.set h.update) fun _ => .bind .modC fun _ => .pushEngine) .pushEngine

theorem Preserves.checkSetFmt {n v fmt} : Preserves P (checkSetFmt n v fmt) := .ite .trapAt .pure

theorem Preserves.mcntOp {fmt r} : Preserves Inv (mcntOp fmt r) :=
  .bind .matrixRoom fun _ => .bind .csetFor fun _ => .bind .checkSetFmt fun _ => .bind .ringsFor fun _ =>
  .iteThen .trapAt fun _ => .bind .modK fun _ => .pushEngine

theorem Preserves.nclrOp {r} : Preserves Inv (nclrOp r) :=
  .bind .matrixRoom fun _ => .bind .myIndex fun _ => .get fun _ _ => .ite .trapAt <| .bind .modK fun _ =>
  .pushEngine

theorem Preserves.imageAddr {a} : Preserves P (imageAddr a) := .ite .trapAt <| .ite .trapAt .pure

theorem Preserves.imageHeader {n a} : Preserves Inv (imageHeader n a) :=
  .bind .awaitEngines fun _ => .bind .awaitCopies fun _ => .bind .loadBytes fun _ => .ite .trapAt <|
  .ite .trapAt .pure

theorem Preserves.nmergeOp {r} : Preserves Inv (nmergeOp r) :=
  .bind .matrixRoom fun _ => .bind .need fun _ => .bind .csetFor fun _ => .bind .getS fun _ =>
  .bind .imageAddr fun _ => .bind .imageHeader fun _ => .bind .checkSetFmt fun _ =>
  .iteThen .trapAt fun _ => .bind .modK fun _ => .pushEngine

theorem Preserves.ndumpOp {r} : Preserves Inv (ndumpOp r) :=
  .bind .matrixRoom fun _ => .bind .need fun _ => .bind .csetFor fun _ => .bind .getS fun _ =>
  .bind .imageAddr fun _ => .pushEngine

theorem Preserves.nloadOp {r} : Preserves Inv (nloadOp r) :=
  .bind .matrixRoom fun _ => .bind .need fun _ => .bind .csetFor fun _ => .bind .getS fun _ =>
  .bind .imageAddr fun _ => .bind .imageHeader fun _ => .bind .checkSetFmt fun _ => .bind .modK fun _ =>
  .pushEngine

theorem Preserves.ndrainOp {r} : Preserves Inv (ndrainOp r) :=
  .bind .matrixRoom fun _ => .bind .bankOf fun _ => .bind .csetFor fun _ => .bind .modK fun _ => .pushEngine

theorem Preserves.nchkOp {r} : Preserves Inv (nchkOp r) :=
  .bind .matrixRoom fun _ => .bind .csetFor fun _ => .bind .markEmpty fun _ => .pushEngine

theorem Preserves.rgsetOp {r} : Preserves Inv (rgsetOp r) :=
  .bind .matrixRoom fun _ => .bind .myIndex fun _ => .get fun _ _ => .ite .trapAt <| .ite .modK .modK

theorem Preserves.mNopOp : Preserves P mNopOp := .pure

/-! ### The X slot at its issue -/

theorem Preserves.boundEntry : Preserves P boundEntry := .get fun _ _ => .pure

theorem Preserves.xscaleOp {r} : Preserves Inv (xscaleOp r) :=
  .bind .need fun _ => .bind .boundEntry fun _ => by
    split
    · exact .pure
    · exact .bind .bankOf fun _ => .bind .getS fun _ => .pushEngine

theorem Preserves.xexpvOp {r} : Preserves Inv (xexpvOp r) :=
  .bind .need fun _ => .bind .boundEntry fun _ => by
    split
    · exact .pure
    · exact .bind .bankOf fun _ => .bind .getV fun _ => .pushEngine

theorem Preserves.xfixOp {r} : Preserves Inv (xfixOp r) :=
  .bind .need fun _ => .bind .bankOf fun _ => .bind .ringFor fun _ => .bind .getS fun _ =>
  .iteThen .trapAt fun _ => .bind .checkAlign fun _ => .pushEngine

theorem Preserves.xcvtOp {r} : Preserves Inv (xcvtOp r) :=
  .bind .bankOf fun _ => .bind .modK fun _ => .pushEngine

theorem Preserves.xNopOp : Preserves P xNopOp := .pure

/-! ### Shape registers -/

theorem Preserves.recordAddr {a disp stride} : Preserves P (recordAddr a disp stride) :=
  .get fun _ _ => .bind .getS fun _ => .bind .checkHole fun _ => .bind .checkAlign fun _ => .pure

theorem Preserves.cacheRecord {ea r} : Preserves Inv (cacheRecord ea r) :=
  .get fun _ _ => .ite .modK <| .bind .nextFree fun _ => .modK

theorem Preserves.loadRecord {ea} : Preserves Inv (loadRecord ea) :=
  .get fun _ _ => by
    split
    · exact .pure
    · exact .bind .awaitEngines fun _ => .bind .loadBytes fun _ => .bind .cacheRecord fun _ => .iteThen
          (.modify fun _ h => h.deferTrap) fun _ =>
          .pure

theorem Preserves.scheduleH {x0 whole field val} : Preserves Inv (scheduleH x0 whole field val) :=
  .get fun _ _ => .modL

theorem Preserves.loadShape {r disp stride} : Preserves Inv (loadShape r disp stride) :=
  .bind .need fun _ => .bind .recordAddr fun _ => .bind .loadRecord fun _ => .scheduleH

theorem Preserves.storeShape {r disp stride} : Preserves Inv (storeShape r disp stride) :=
  .bind .need fun _ => .bind .recordAddr fun _ => .bind .awaitEngines fun _ => .get fun _ h =>
  .bind (.set h.update) fun _ => .modC

theorem Preserves.hsetOp {r} : Preserves Inv (hsetOp r) :=
  .bind .need fun _ => .bind .getS fun _ => .scheduleH

theorem Preserves.hfenceOp {r} : Preserves Inv (hfenceOp r) :=
  .ite (.bind .need fun _ => .bind .getS fun _ => .bind .checkAlign fun _ => .modK) .modK

theorem Preserves.hNopOp : Preserves P hNopOp := .pure

/-! ### The C slot at its issue -/

theorem Preserves.copyRoom {cid} : Preserves P (copyRoom cid) :=
  .get fun _ _ => .ite .throw <| .ite .throw .pure

theorem Preserves.recordOf {x0 stride} : Preserves P (recordOf x0 stride) := .get fun _ _ => .pure

theorem Preserves.checkRecord {x0 v} : Preserves P (checkRecord x0 v) := by
  unfold Machine.checkRecord
  split
  · exact .trapAt
  · exact .pure

theorem Preserves.require {ok x1 check} : Preserves P (require ok x1 check) := .ite .pure .trapAt

theorem Preserves.checkBank {x0 s} : Preserves P (checkBank x0 s) :=
  .ite .pure <| .bind .bankFor fun _ => .require

theorem Preserves.barrierOf {ba a} : Preserves P (barrierOf ba a) :=
  .ite .pure <| .bind .getS fun _ => .bind .checkHole fun _ => .bind .checkAlign fun _ => .pure

theorem Preserves.startCopy {cid kind dst src size empty bar waits} :
    Preserves Inv (startCopy cid kind dst src size empty bar waits) :=
  .get fun _ _ => .ite .modC <| .bind .modK fun _ => .bind (.modify fun _ h => h.copyBits) fun _ =>
  .ite .pushEngine .pure

theorem Preserves.twoRecords {hd hs ds stride more} (hmore : ∀ a0 a1, Preserves P (more a0 a1)) :
    Preserves P (twoRecords hd hs ds stride more) :=
  .bind .recordOf fun _ => .bind .recordOf fun _ => .bind .checkRecord fun _ => .bind .checkRecord fun _ =>
  .bind (hmore _ _) fun _ => .bind .checkBank fun _ => .pure

theorem Preserves.copyForm {r e} : Preserves Inv (copyForm r e) :=
  .bind .copyRoom fun _ => .bind .need fun _ =>
  .bind
    (.twoRecords fun _ _ => .bind .require fun _ => .bind .require fun _ =>
       .ite (.bind .require fun _ => .require) .pure) fun _ =>
  .bind .barrierOf fun _ => .startCopy

theorem Preserves.copytForm {r e} : Preserves Inv (copytForm r e) :=
  .bind .copyRoom fun _ => .bind .need fun _ =>
  .bind (.twoRecords fun _ _ => .bind .require fun _ => .bind .require fun _ => .require) fun _ =>
  .bind .barrierOf fun _ => .startCopy

theorem Preserves.indexedForm {r kind} : Preserves Inv (indexedForm r kind) :=
  .bind .copyRoom fun _ => .bind .need fun _ =>
  .bind (.twoRecords fun _ _ => .bind .require fun _ => .require) fun _ => .bind .barrierOf fun _ =>
  .bind .getS fun _ => .bind .checkHole fun _ => .bind .checkAlign fun _ => .startCopy

theorem Preserves.credForm {r e} : Preserves Inv (credForm r e) :=
  .bind .copyRoom fun _ => .bind .need fun _ =>
  .bind (.twoRecords fun _ _ => .bind .require fun _ => .require) fun _ => .bind .barrierOf fun _ =>
  .startCopy

theorem Preserves.cringForm {r e} : Preserves Inv (cringForm r e) :=
  .bind .copyRoom fun _ => .bind .need fun _ => .bind .recordOf fun _ => .bind .checkRecord fun _ =>
  .bind .checkBank fun _ => .bind .ringFor fun _ => .bind .barrierOf fun _ => .get fun _ _ =>
  .bind .startCopy fun _ => .ite .pure .modK

theorem Preserves.cwaitOp {r} : Preserves P (cwaitOp r) :=
  .bind .need fun _ => .bind (.ite .pure .getS) fun _ => .get fun _ _ => .ite .pure .throw

theorem Preserves.ctestOp {r} : Preserves Inv (ctestOp r) := .get fun _ _ => .writeS

theorem Preserves.publishOp {r} : Preserves Inv (publishOp r) :=
  .bind .copyRoom fun _ => .bind .recordOf fun _ => .bind .checkRecord fun _ => .bind .require fun _ =>
  .startCopy

theorem Preserves.updOp {r} : Preserves Inv (updOp r) :=
  .bind .copyRoom fun _ => .bind .need fun _ => .bind .recordOf fun _ => .bind .checkRecord fun _ =>
  .bind .require fun _ => .bind .getS fun _ => .bind .checkHole fun _ => .bind .checkAlign fun _ =>
  .bind .getS fun _ => .iteElse₂ .checkHole .checkAlign fun _ =>
    .iteElse₂ .awaitEngines .awaitCopies fun _ => .get fun _ _ => .bind .startCopy fun _ => .ite .pure <|
      .get fun _ _ => .get fun _ _ => by
        split
        · exact .pure
        · exact .bind (.tryOp .loadBytes) fun _ => .bind (.tryOp .loadBytes) fun _ => by
              split
              · exact .modify fun _ h => h.modCopy
              · exact .parkCopy
              · exact .parkCopy

theorem Preserves.cNopOp : Preserves P cNopOp := .pure

/-! ### Fences, barriers, tasks, traps and control registers -/

theorem Preserves.fenceOp {r} : Preserves Inv (fenceOp r) := .ite .pure .awaitEngines

theorem Preserves.waitmOp {r} : Preserves Inv (waitmOp r) :=
  .bind .need fun _ => .bind .getS fun _ => .bind .checkHole fun _ => .bind .checkAlign fun _ =>
  .bind .awaitEngines fun _ => .bind .loadBytes fun _ => .bind .getS fun _ => .ite .throw .deliverS

theorem Preserves.barrierAddr {acc a disp} : Preserves Inv (barrierAddr acc a disp) :=
  .bind .getS fun _ => .bind .checkHole fun _ => .bind .checkAlign fun _ => .get fun _ _ =>
  .bind (.tryOp .locate) fun _ => by
    split
    · exact .ite .trapAt .pure
    · exact .pure
    · exact .ite .pure .throw

theorem Preserves.arriveAt {r disp} : Preserves Inv (arriveAt r disp) :=
  .bind .need fun _ => .bind .barrierAddr fun _ => .bind .awaitEngines fun _ => .bind .getS fun _ => .modCur

theorem Preserves.expectAt {r disp} : Preserves Inv (expectAt r disp) :=
  .bind .need fun _ => .bind .barrierAddr fun _ => .bind .awaitEngines fun _ => .bind .getS fun _ => .modCur

theorem Preserves.readBarrier {ea} : Preserves Inv (readBarrier ea) :=
  .get fun _ _ => .bind .readEa fun _ => .pure

theorem Preserves.waitAt {r disp} : Preserves Inv (waitAt r disp) :=
  .bind .need fun _ => .bind .barrierAddr fun _ => .bind .awaitEngines fun _ => .bind .readBarrier fun _ =>
  .bind .getS fun _ => .ite .deliverS .throw

theorem Preserves.testAt {r disp} : Preserves Inv (testAt r disp) :=
  .bind .need fun _ => .bind .barrierAddr fun _ => .bind .awaitEngines fun _ => .bind .readBarrier fun _ =>
  .bind .getS fun _ => .deliverS

theorem Preserves.tkgetOp {r} : Preserves Inv (tkgetOp r) :=
  .get fun _ _ => by
    split
    · exact .bind .modC fun _ => .writeS
    · exact .throw

theorem Preserves.tkpostOp {r} : Preserves Inv (tkpostOp r) :=
  .bind .need fun _ => .bind .getS fun _ => .bind .checkAlign fun _ => .get fun _ _ =>
  .iteThen .throw fun _ => .bind .awaitEngines fun _ => .modCur

theorem Preserves.tkdoneOp {r} : Preserves Inv (tkdoneOp r) :=
  .bind .need fun _ => .bind .awaitEngines fun _ => .bind .getS fun _ => .bind .getS fun _ => .modCur

theorem Preserves.crdOp {r} : Preserves Inv (crdOp r) :=
  .get fun _ _ => by
    split
    · exact .trapAt
    · exact .ite .trapAt .writeS

theorem Preserves.cregWrite {cr v} : Preserves Inv (cregWrite cr v) := by
  unfold Machine.cregWrite
  dsimp only
  split
  · exact .modL
  · exact .modC
  · exact .modC
  · exact .modC
  · exact .modC
  · exact .modC
  · exact .modC
  · exact .modC
  · exact .modL
  · exact .modK
  · exact .ite .modL .pure

theorem Preserves.cwrOp {r} : Preserves Inv (cwrOp r) :=
  .bind .need fun _ => .get fun _ _ => .ite .trapAt <| .ite .trapAt <| .bind .getS fun _ => .cregWrite

theorem Preserves.yieldOp : Preserves P yieldOp := .get fun _ _ => .ite .throw .pure
theorem Preserves.hintOp {x0} : Preserves P (hintOp x0) := .pure
theorem Preserves.hintExtOp {x0 x1} : Preserves P (hintExtOp x0 x1) := .pure

/-! ### The tree engine -/




theorem TPreserves.tFail {a} : TPreserves P (tFail a : TM α) := .bind .mod fun _ => .throw
theorem TPreserves.tRange {x} : TPreserves P (tRange x : TM α) := .bind .mod fun _ => .throw

theorem TPreserves.tLp {x v} : TPreserves P (tLp x v : TM α) := by
  unfold Machine.tLp
  split
  · exact .pure
  · exact .tRange

theorem TPreserves.tTry {m : TM α} (h : TPreserves P m) : TPreserves P (tTry m) := fun r =>
  .bind (.bind (h r) fun _ => .pure) fun _ => .pure

theorem Preserves.treeWaits {m ea n write} : Preserves P (treeWaits m ea n write) :=
  .get fun _ _ => .ite .throw <| .ite .throw .pure

theorem TPreserves.tPieces {ea n acc} : TPreserves Inv (tPieces ea n acc) :=
  .bind .now fun _ => .get fun _ _ => .bind (.op .treeWaits) fun _ =>
  .bind (.op (.tryOp .planePieces)) fun _ => by
    split
    · exact .pure
    · exact .tFail
    · exact .bind (.op .faultPost) fun _ => .tFail

theorem TPreserves.tRead {ea n} : TPreserves Inv (tRead ea n) :=
  .ite .pure <| .bind .now fun _ => .bind .tPieces fun _ => .get fun _ _ =>
  .bind (.op (.mapEach fun _ => .readCarried)) fun _ => .bind .mod fun _ => .pure

theorem TPreserves.tWrite {ea n v acc} : TPreserves Inv (tWrite ea n v acc) :=
  .bind .now fun _ => .bind .tPieces fun _ => .get fun _ _ => .op .planeWrite

theorem TPreserves.tWords {ea n} : TPreserves Inv (tWords ea n) := .bind .tRead fun _ => .pure
theorem TPreserves.tTree : TPreserves P tTree := .bind .now fun _ => .get fun _ _ => .pure

theorem TPreserves.tSet {f} : TPreserves Inv (tSet f) :=
  .bind .now fun _ => .op (.modify fun _ h => h.modCtx)

theorem TPreserves.tBlock {ea} : TPreserves Inv (tBlock ea) := .bind .tRead fun _ => .ite .tFail .pure
theorem TPreserves.tIndex {ea} : TPreserves P (tIndex ea) := .bind .tTree fun _ => .ite .tFail .pure
theorem TPreserves.tVal {x} : TPreserves Inv (tVal x) := .bind .tTree fun _ => .tRead

theorem TPreserves.tEvidence {var} : TPreserves Inv (tEvidence var) :=
  .bind .tTree fun _ => .ite .tFail .tRead

theorem TPreserves.tTable {ea n} : TPreserves Inv (tTable ea n) := .bind .tWords fun _ => .pure

theorem TPreserves.tTerms {x kids weights} : TPreserves Inv (tTerms x kids weights) :=
  .mapM fun _ => .bind .tVal fun _ => .tLp

theorem TPreserves.tLeaf {b d} : TPreserves Inv (tLeaf b d) :=
  .bind .tEvidence fun _ => .bind .tTree fun _ => .ite (.ite (.bind .tTable fun _ => .pure) .pure) <|
  .ite (.bind .tSet fun _ => .pure) <| .bind .tTable fun _ => by split <;> exact .pure

theorem TPreserves.tNode {b d} : TPreserves Inv (tNode b d) :=
  .ite .tLeaf <| .bind .tWords fun _ =>
  .ite (.bind (.mapM fun _ => .tVal) fun _ => .bind .tLp fun _ => .pure) <| .bind .tTable fun _ =>
  .bind .tTerms fun _ => .bind .tTree fun _ => .ite .pure <| .bind .tLp fun _ => .pure

theorem TPreserves.tPut {x g pos} : TPreserves Inv (tPut x g pos) :=
  .bind .tTree fun _ => .bind .tWrite fun _ => .bind .tWrite fun _ => .bind .tSet fun _ => .tSet

theorem TPreserves.tForward {ea} : TPreserves Inv (tForward ea) :=
  .bind .tBlock fun _ => .ite .tFail <| .bind .tIndex fun _ => .bind .now fun _ =>
  .bind (.mapM fun _ => .bind .mod fun _ => .bind (.tTry .tNode) fun _ => .tTry .tPut) fun _ => .pure

theorem TPreserves.tAdd {b d w} : TPreserves Inv (tAdd b d w) :=
  .ite .pure <| .bind .tWords fun _ => .ite (.bind (.mapM fun _ => .tVal) fun _ => .tLp) <|
  .bind .tTable fun _ => .bind .tTerms fun _ => .pure

theorem TPreserves.tClose {b w} : TPreserves P (tClose b w) :=
  .ite (.bind .mod fun _ => .pure) <| .ite .pure <| .ite .pure <| .ite .pure <| .ite .pure <|
  .bind .tLp fun _ => .pure

theorem TPreserves.tPart {b d ph w} : TPreserves Inv (tPart b d ph w) :=
  .bind
    (.tTry
       (.ite .pure <| .ite (.bind .tWords fun _ => .bind .tTable fun _ => .bind .tTerms fun _ => .pure) <|
        .tAdd)) fun _ =>
  .bind .now fun _ => .pure

theorem TPreserves.tSegment {ea ph wn} : TPreserves Inv (tSegment ea ph wn) :=
  .bind .tBlock fun _ => .ite .tFail <| .bind .tIndex fun _ => .bind .tTree fun _ => by
    split
    · exact .pure
    · exact .bind .tPart fun _ => .ite .tSet <| .bind .tSet fun _ => .bind .mod fun _ =>
        .bind (.tTry .tClose) fun _ => .bind (.tTry .tPut) fun _ => .pure

theorem TPreserves.tContribution {b d val aux tag c p w} :
    TPreserves Inv (tContribution b d val aux tag c p w) :=
  .ite (.bind .tTree fun _ => .ite .pure .tLp) <| .ite (.bind .tVal fun _ => .bind .tLp fun _ => .tLp) <|
  .ite (.bind .tVal fun _ => .ite .tLp .pure) .pure

theorem TPreserves.tDerive {c g ranged} : TPreserves Inv (tDerive c g ranged) :=
  .bind .tTree fun _ => by
    dsimp only
    split
    · exact .ite (.bind .tWrite fun _ => .tSet) .pure
    · exact .ite .pure <| .bind .tRead fun _ => by
          split
          · exact .bind .tWrite fun _ => .tSet
          · exact .bind (.tTry .tRange) fun _ => .bind .tWrite fun _ => .tSet

theorem TPreserves.tTryRange {m : TM α} (hm : TPreserves P m) : TPreserves P (tTryRange m) :=
  .bind .now fun _ => .bind .mod fun _ => .bind (.tTry hm) fun _ => .bind .now fun _ => .bind .mod fun _ =>
  .pure

theorem TPreserves.tReverse {ea} : TPreserves Inv (tReverse ea) :=
  .bind .tBlock fun _ => .bind .now fun _ =>
  .bind
    (.mapM fun _ => .bind .mod fun _ => .tTry <| .bind .tTree fun _ => .bind .tRead fun _ =>
     .ite .pure <| .bind .tRead fun _ => .bind .tWords fun _ => .bind (.ite .tTable .pure) fun _ =>
     .bind .now fun _ =>
     .bind
       (.mapM fun ⟨⟨_, _⟩, _⟩ => .bind .mod fun _ => .bind (.tTryRange .tContribution) fun _ =>
        .tTry .tDerive) fun _ =>
     .pure) fun _ =>
  .pure

theorem TPreserves.tRatio {c a b} : TPreserves Inv (tRatio c a b) :=
  .bind .now fun _ => .bind .tRead fun _ => .bind .tRead fun _ => .iteThen
    (.op (.modify fun _ h => h.stickySw)) fun _ =>
    .bind (.tTry .tLp) fun _ => .bind .tWrite fun _ => .tSet

theorem TPreserves.tChain {kind n next acc} : TPreserves Inv (tChain kind n next acc) := by
  induction n generalizing next acc with
  | zero => exact .pure
  | succ n ih =>
    refine .ite .pure <| .bind .tTree fun _ => .bind .tBlock fun b => ?_
    split
    · exact .ite .tFail <| .bind .tWords fun _ => .bind (.ite .tTable .pure) fun _ => ih
    · exact .tFail

theorem TPreserves.tLocate {x} : TPreserves Inv (tLocate x) :=
  .bind .tTree fun _ => .bind .tRead fun _ => .bind .tBlock fun _ => by
    split
    · exact .tFail
    · exact .ite .pure <| .bind .tWords fun _ => .bind (.ite .tTable .pure) fun _ =>
        .bind (.ite .tChain .pure) fun _ => .pure

theorem TPreserves.tChoose {x key draws total ts} : TPreserves P (tChoose x key draws total ts) :=
  .ite .pure <| .bind .tLp fun _ => .bind .tLp fun _ => .pure

theorem TPreserves.tPush {stack cap depth l} : TPreserves Inv (tPush stack cap depth l) :=
  .get fun _ _ => .bind .now fun _ => by
    dsimp only
    split
    · exact .tFail
    · exact .bind (.mapM fun _ => .tWrite) fun _ => .pure

theorem TPreserves.tVisit {samp stack key out cap w} : TPreserves Inv (tVisit samp stack key out cap w) :=
  .bind .tRead fun _ => .bind .tLocate fun _ => .ite .pure <|
  .ite
    (.bind
       (.ite (.bind .tTerms fun _ => .bind .tVal fun _ => .tChoose) <| .bind .tTree fun _ =>
        .bind .tRead fun _ => .pure) fun _ => by
       dsimp only
       split
       · exact .pure
       · exact .bind .tPush fun _ => .pure)
    (.ite (.bind .tPush fun _ => .pure) <| .bind .tEvidence fun _ =>
     .bind
       (.ite .pure <| .ite (.bind .tTree fun _ => .bind .tRead fun _ => .pure) <| .bind .tTable fun _ =>
        .bind .tLp fun _ => .tChoose) fun _ => by
       dsimp only
       split
       · exact .pure
       · exact .bind .tWrite fun _ => .pure)

theorem TPreserves.tWalk {samp stack key out cap n w} : TPreserves Inv (tWalk samp stack key out cap n w) := by
  induction n generalizing w with
  | zero => exact .pure
  | succ n ih =>
    refine .ite .pure <| .bind .mod fun _ => .get fun _ hs => .bind (.tTry .tVisit) fun v => .bind .now fun _ => ?_
    split
    · exact .pure
    · refine .ite (.bind (.op (.modify fun _ _ => hs.update)) fun _ => .pure) ?_
      split
      · exact .pure
      · exact .pure
      · exact ih

theorem TPreserves.tDescend {samp stack key} : TPreserves Inv (tDescend samp stack key) :=
  .bind .tRead fun _ => .bind .now fun _ => .ite .pure <| .ite .tSet <| .iteThen .tWrite fun _ =>
    .bind .tWalk fun _ => .bind .mod fun _ => .bind .tWrite fun _ => .bind .tWrite fun _ =>
    .iteThen .tWrite fun _ => .bind .tWrite fun _ => .bind .tWrite fun _ => .tSet

theorem TPreserves.tStat {tok sd sel} : TPreserves Inv (tStat tok sd sel) :=
  .bind .now fun _ => .bind .tTree fun _ => .iteThen .tSet fun _ => .op (.modify fun _ h => h.modCtx)

theorem TPreserves.tOpPerform {o} : TPreserves Inv (TOp.perform o) := by
  unfold TOp.perform
  split
  · exact .tSet
  · exact .tSet
  · exact .ite .tForward .tSegment
  · exact .tReverse
  · exact .tDescend
  · exact .tRatio
  · exact .tSet
  · exact .tStat

theorem Preserves.tCmdRun {m} : Preserves Inv (TCmd.run m) := by
  refine .bind (TPreserves.tOpPerform _) fun r => ?_
  split
  split
  · exact .pure
  · exact .modify fun _ h => .deferTrap (.ite h.modCtx h)

theorem Yields.execTCommandPerform {k s} (h : Inv s) : Yields Inv (execTCommandPerform k s) :=
  .ite (.next h) <| by
    split
    · exact .next h
    · exact .runOp (.bind (.set h.setCore) fun _ => .tCmdRun) h

/-! ### The T slot at its issue -/

theorem Preserves.treeRoom : Preserves P treeRoom := .get fun _ _ => .ite .throw .pure
theorem Preserves.pushTree {op} : Preserves Inv (pushTree op) := .get fun _ _ => .modK
theorem Preserves.checkTree {ea} : Preserves P (checkTree ea) := .get fun _ _ => .ite .pure .trapAt

theorem Preserves.checkBases {l} : Preserves P (checkBases l) :=
  .bind (.forEach fun _ => .checkAlign) fun _ => .forEach fun _ => .checkTree

theorem Preserves.treeNow : Preserves Inv treeNow := .bind .awaitEngines fun _ => .get fun _ _ => .pure

theorem Preserves.tmodeOp {r} : Preserves Inv (tmodeOp r) :=
  .bind .treeRoom fun _ => .bind .need fun _ => .bind .getS fun _ => .bind .getS fun _ =>
  .bind .checkBases fun _ => .bind .treeNow fun _ => by
    split
    · exact .trapAt
    · exact .pushTree

theorem Preserves.tevidOp {r} : Preserves Inv (tevidOp r) :=
  .bind .treeRoom fun _ => .bind .need fun _ => .bind .getS fun _ => .bind .getS fun _ =>
  .bind .checkBases fun _ => .ite .trapAt .pushTree

theorem Preserves.tseedOp {r} : Preserves Inv (tseedOp r) :=
  .bind .treeRoom fun _ => .bind .need fun _ => .bind .getS fun _ => .modL

theorem Preserves.treeRecord {a e} : Preserves P (treeRecord a e) :=
  .get fun _ _ => .bind .getS fun _ => .iteBind .trapAt .checkTree fun _ => .pure

theorem Preserves.recordKind {ea} : Preserves Inv (recordKind ea) :=
  .bind .awaitCopies fun _ => .bind (.tryOp .loadBytes) fun _ => .pure

theorem Preserves.tfwdForm {r e} : Preserves Inv (tfwdForm r e) :=
  .bind .treeRoom fun _ => .bind .need fun _ => .bind .treeRecord fun _ => .ite .pushTree <|
  .bind .treeNow fun _ => .bind .recordKind fun _ => .ite .trapAt .pushTree

theorem Preserves.trevForm {r e} : Preserves Inv (trevForm r e) :=
  .bind .treeRoom fun _ => .bind .need fun _ => .bind .treeRecord fun _ => .pushTree

theorem Preserves.stackOf {a} : Preserves P (stackOf a) :=
  .bind .getS fun _ => .bind .checkAlign fun _ => by
    split
    · exact .pure
    · exact .trapAt

theorem Preserves.tsampOp {r} : Preserves Inv (tsampOp r) :=
  .bind .treeRoom fun _ => .bind .need fun _ => .bind .stackOf fun _ => .bind .awaitEngines fun _ =>
  .bind .awaitCopies fun _ => .bind .loadBytes fun _ => .get fun _ _ =>
  .ite (.bind .modL fun _ => .pushTree) .pushTree

theorem Preserves.targmOp {r} : Preserves Inv (targmOp r) :=
  .bind .treeRoom fun _ => .bind .need fun _ => .bind .stackOf fun _ => .pushTree

theorem Preserves.tratioOp {r} : Preserves Inv (tratioOp r) :=
  .bind .treeRoom fun _ => .bind .need fun _ => .bind .getS fun _ => .bind .getS fun _ =>
  .bind .getS fun _ => .bind .checkBases fun _ => .pushTree

theorem Preserves.twclrOp {r} : Preserves Inv (twclrOp r) := .bind .treeRoom fun _ => .pushTree

theorem Preserves.tstatOp {r} : Preserves Inv (tstatOp r) :=
  .bind .treeRoom fun _ => .bind .markEmpty fun _ => .pushTree

theorem Preserves.tNopOp : Preserves P tNopOp := .pure

/-! ### Every slot instruction -/

theorem Preserves.performSlot {i} : Preserves Inv (performSlot i) := by
  unfold Machine.performSlot
  cases i with
  | sNop => exact .sNopOp
  | add | sub | mul | mulh | mulhu | div | divu | rem | remu | and | or | xor | andn | shl | shr
  | sra | min | max | minu | maxu | cmp => exact .aluRR
  | clz | ctz | popc | mov => exact .aluRU
  | bfx => exact .bfxOp
  | bfi => exact .bfiOp
  | csel => exact .cselOp
  | addImmediate | subImmediate | mulImmediate | andImmediate | orImmediate | xorImmediate
  | andnImmediate | shlImmediate | shrImmediate | sraImmediate | minImmediate | maxImmediate
  | minuImmediate | maxuImmediate | cmpImmediate => exact .aluRI
  | li => exact .writeS
  | lih => exact .lihOp
  | la => exact .laOp
  | br => exact .brOp
  | call => exact .callOp
  | bc => exact .bcOp
  | jr => exact .jrOp
  | callr => exact .callrOp
  | ret => exact .retOp
  | ldB | ldBu | ldH | ldHu | ldW | ldWu | ldD => exact .loadOp
  | stB | stH | stW | stD => exact .storeOp
  | atopAdd | atopAnd | atopOr | atopXor | atopMin | atopMax | atopSub | atswp => exact .atOp
  | atcas => exact .atcasOp
  | atfadd => exact .atfaddOp
  | atadds => exact .ataddsOp
  | fence => exact .fenceOp
  | waitm => exact .waitmOp
  | barrive | barriveExt => exact .arriveAt
  | bexpect | bexpectExt => exact .expectAt
  | bwait | bwaitExt => exact .waitAt
  | btest | btestExt => exact .testAt
  | tkget => exact .tkgetOp
  | tkpost => exact .tkpostOp
  | tkdone => exact .tkdoneOp
  | trap | trapExt => exact .trapAt
  | tret => exact .returnFromTrap
  | crd => exact .crdOp
  | cwr => exact .cwrOp
  | hbeat => exact .modK
  | yield => exact .yieldOp
  | vadd | vsub | vmul | vmulh | vmin | vmax | vand | vor | vxor | vandn | vshl | vshr | vsra => exact .vint2
  | vabs => exact .vabsOp
  | vfadd | vfsub | vfmul | vfmin | vfmax => exact .vfp2
  | vfma | vfms => exact .vfma3
  | vrcp | vrsq | vexp2 | vlog2 => exact .vfp1
  | vcmp => exact .vcmpOp
  | vfcmp => exact .vfcmpOp
  | vNop => exact .vNopOp
  | pand => exact .pandOp
  | por => exact .porOp
  | pxor => exact .pxorOp
  | pnot => exact .pnotOp
  | ppop => exact .ppopOp
  | pfirst => exact .pfirstOp
  | vcvt => exact .vcvtOp
  | vsxpack => exact .vsxpackOp
  | vsxunpack => exact .vsxunpackOp
  | vperm => exact .vpermOp
  | vshuf => exact .vshufOp
  | vbcast => exact .vbcastOp
  | vmovs => exact .vmovsOp
  | vsel => exact .vselOp
  | vcompress => exact .vcompressOp
  | vexpand => exact .vexpandOp
  | vred => exact .vredOp
  | vscan => exact .vscanOp
  | vtopk => exact .vtopkOp
  | vlpmul | vlpadd | vlpmax | vlpdiv => exact .vlp2
  | vlpcvt => exact .vlpcvtOp
  | vlpsplit => exact .vlpsplitOp
  | vlpjoin => exact .vlpjoinOp
  | vrand => exact .vrandOp
  | vld => exact .vldOp
  | vst => exact .vstOp
  | vlds => exact .vldsOp
  | vsts => exact .vstsOp
  | vgath => exact .vgathOp
  | vscat => exact .vscatOp
  | vldb => exact .vldbOp
  | fNop => exact .fNopOp
  | fopen => exact .fopenOp
  | fopenExt => exact .fopenExtOp
  | fnext => exact .fnextOp
  | fskip => exact .fskipOp
  | fisect | funion => exact .joinOp
  | fmerge => exact .fmergeOp
  | fldv => exact .fldvOp
  | fcrd => exact .fcrdOp
  | femit => exact .femitOp
  | fstat => exact .fstatOp
  | fsave => exact .fsaveOp
  | frest => exact .frestOp
  | fclose => exact .fcloseOp
  | xNop => exact .xNopOp
  | xscale => exact .xscaleOp
  | xexpv => exact .xexpvOp
  | xfix => exact .xfixOp
  | xcvt => exact .xcvtOp
  | hNop => exact .hNopOp
  | hld | hldExt => exact .loadShape
  | hst | hstExt => exact .storeShape
  | hset => exact .hsetOp
  | hfence => exact .hfenceOp
  | mNop => exact .mNopOp
  | acalloc => exact .acallocOp
  | acfree => exact .acfreeOp
  | acgrant => exact .acgrantOp
  | aczero => exact .aczeroOp
  | acrd => exact .acrdOp
  | acrdSt => exact .acrdStOp
  | acwr => exact .acwrOp
  | mmaBf16 | mmaFp16 | mmaE4m3 | mmaE5m2 | mmaInt8 | mmaSx8 | mmaSx5 | mmaSx3 => exact .mmaOp
  | mcntInt4 | mcntE2m1 => exact .mcntOp
  | nclr => exact .nclrOp
  | nmerge => exact .nmergeOp
  | ndump => exact .ndumpOp
  | nload => exact .nloadOp
  | ndrain => exact .ndrainOp
  | nchk => exact .nchkOp
  | rgset => exact .rgsetOp
  | cNop => exact .cNopOp
  | copy | copyExt => exact .copyForm
  | copyt | copytExt => exact .copytForm
  | cgath | cscat => exact .indexedForm
  | cred | credExt => exact .credForm
  | cring | cringExt => exact .cringForm
  | cwait => exact .cwaitOp
  | ctest => exact .ctestOp
  | publish => exact .publishOp
  | upd => exact .updOp
  | tNop => exact .tNopOp
  | tmode => exact .tmodeOp
  | tevid => exact .tevidOp
  | tseed => exact .tseedOp
  | tfwd | tfwdExt => exact .tfwdForm
  | trev | trevExt => exact .trevForm
  | tsamp => exact .tsampOp
  | targm => exact .targmOp
  | tratio => exact .tratioOp
  | twclr => exact .twclrOp
  | tstat => exact .tstatOp
  | hint => exact .hintOp
  | hintExt => exact .hintExtOp
  | _ => exact .pure

/-! ### The issue of a bundle -/

theorem Inv.select {s x} (h : Inv s) : Inv (s.select x) := h.update

theorem Preserves.deferredAt {d rep} : Preserves Inv (deferredAt d rep) :=
  .get fun _ _ => .bind .modC fun _ => .takeTrap

/-- What is settled before an issue keeps the form of memory, and so does the fetch of the bundle. -/
def Prepared (r : Ready) : Prop :=
  match r with
  | .settled o => Yields Inv o
  | .issue s _ => Inv s

theorem prepared_prepare {x s} (h : Inv s) : Prepared (prepare x s) := by
  have h := h.select (x := x)
  unfold prepare
  dsimp only
  split
  · exact Yields.next h.leave
  · split
    · next e _ => exact Yields.settle h (.leaves .deferredAt (Preserves.fetchBundle.ok h e))
    · next e _ => exact .update (Preserves.fetchBundle.ok h e)
    · exact Yields.settle h (.leaves .deferredAt h)
    · next e _ => exact Yields.settle h (Preserves.fetchBundle.error h e)

theorem Inv.afterIssue {b s} (h : Inv s) : Inv (afterIssue b s) := .ite h.decouple h

theorem Yields.onNext {o f} (ho : Yields Inv o) (hf : ∀ s, Inv s → Yields Inv (f s)) : Yields Inv (onNext o f) := by
  unfold Machine.onNext
  split
  · exact hf _ (ho _ rfl)
  · exact .fault
  · exact .refused

theorem slotOps_preserves {b c o} (ho : o ∈ slotOps b c) : Preserves Inv o.perform := by
  obtain ⟨i, -, hi⟩ := List.mem_filterMap.1 ho
  split at hi
  · cases hi
    split
    · exact .performSlot
    · exact .trapAt
  · obtain ⟨a, -, rfl⟩ := Option.map_eq_some_iff.1 hi
    exact .performSlot

theorem Yields.issueOne {s b} (h : Inv s) : Yields Inv (issueOne s b) :=
  .ite (.settle h (.leaves (.bind .beginIssue fun _ => .endIssue) h)) <|
  .onNext (.runIssue (fun _ => slotOps_preserves) h) fun _ h => .next h.afterIssue

theorem Yields.rejoinIllegal {x s} (h : Inv s) : Yields Inv (rejoinIllegal x s) := by
  have h := h.select (x := x)
  unfold Machine.rejoinIllegal
  dsimp only
  split
  · next e =>
    refine .settle h (.leaves ?_ (Preserves.fetchBundle.ok h e))
    exact .bind .takeTrap fun _ => .get fun _ _ => .ite (.modify fun _ h => h.makeReady) .pure
  · next e => exact .settle h (Preserves.fetchBundle.error h e)

theorem Yields.rejoinAt {f x s} (h : Inv s) : Yields Inv (rejoinAt f x s) :=
  .ite (.settle h (.leaves .blockIssue h)) <| .ite (.next (.foldl (h.update) fun _ _ h => h.makeReady)) <|
  .foldl (.next h) fun _ _ ho => .onNext ho fun _ h => .rejoinIllegal h

theorem Yields.orStop {s b o} (h : Inv s) (ho : Yields Inv o) : Yields Inv (orStop s b o) :=
  .ite (.next h.update) ho

theorem Yields.issueAlone {x s} (h : Inv s) : Yields Inv (issueAlone x s) := by
  unfold Machine.issueAlone
  have hp := prepared_prepare (x := x) h
  split
  · next e => rwa [e] at hp
  · next e =>
    rw [e] at hp
    split
    · exact .rejoinAt hp
    · exact .orStop hp (.ite (.settle hp (.leaves .blockIssue hp)) (.issueOne hp))

theorem Yields.blockMember {why x s} (h : Inv s) : Yields Inv (blockMember why x s) := by
  unfold Machine.blockMember
  have hp := prepared_prepare (x := x) h
  split
  · next e => rwa [e] at hp
  · next e =>
    rw [e] at hp
    exact .settle hp (.leaves .blockIssue hp)

theorem Yields.issueMember {x s} (h : Inv s) : Yields Inv (issueMember x s) := by
  unfold Machine.issueMember
  have hp := prepared_prepare (x := x) h
  split
  · next e => rwa [e] at hp
  · next e =>
    rw [e] at hp
    exact .orStop hp (.issueOne hp)

theorem Yields.issueFused {f s} (h : Inv s) : Yields Inv (issueFused f s) := by
  unfold Machine.issueFused
  split
  · exact .foldl (.next h) fun _ _ ho => .onNext ho fun _ h => .blockMember h
  · exact .foldl (.next h) fun _ _ ho => .onNext ho fun _ h => .issueMember h

theorem Yields.execBundleIssue {x s} (h : Inv s) : Yields Inv (execBundleIssue x s) := by
  unfold Machine.execBundleIssue
  split
  · exact .ite (.issueFused h) <| .next h
  · exact .ite (.issueAlone h) <| .next h

/-! ### Events of a context -/

theorem Yields.execBlockRelease {x s} (h : Inv s) : Yields Inv (execBlockRelease x s) :=
  .ite (.next h.modCtx.makeReady) <| .next h

theorem Preserves.markHere {x} : Preserves Inv (markHere x) :=
  .bind (.modify fun _ h => h.select) fun _ => .get fun _ _ => .takeMark

theorem Yields.markedAt {s x} (h : Inv s) : Yields Inv (State.markedAt s x) :=
  .settle h.select (.leaves .markHere h)

theorem Yields.execGateTimeoutMark {x s} (h : Inv s) : Yields Inv (execGateTimeoutMark x s) :=
  .ite (.markedAt h) <| .next h

theorem Inv.deliver {s x a} (h : Inv s) : Inv (s.deliver x a) := .ite h.modCtx.deferTrap h.modCtx

theorem Yields.execLoadArrival {x tok s} (h : Inv s) : Yields Inv (execLoadArrival x tok s) := by
  unfold Machine.execLoadArrival
  split
  · exact .next h.deliver
  · exact .next h

theorem Yields.execAccessRefusal {x tok reason s} (h : Inv s) :
    Yields Inv (execAccessRefusal x tok reason s) := by
  unfold Machine.execAccessRefusal
  split
  · exact .ite (.next h.park) <| .next h
  · exact .next h

theorem Preserves.drainingTrap {x d} : Preserves Inv (drainingTrap x d) :=
  .bind (.modify fun _ h => h.select) fun _ => .get fun _ _ => .deferredAt

theorem Yields.execDeferredTrap {x s} (h : Inv s) : Yields Inv (execDeferredTrap x s) := by
  refine .ite ?_ <| .ite ?_ <| .next h
  · split
    · exact .settle h.select (.leaves .drainingTrap h)
    · exact .next h
  · have hp := prepared_prepare (x := x) h
    split
    · next e => rwa [e] at hp
    · exact .next h

theorem Inv.hbEntry {s k misses} (h : Inv s) : Inv (s.hbEntry k misses) := h.strataAdd

theorem Preserves.heartbeatLoss {k} : Preserves Inv (heartbeatLoss k) :=
  .get fun _ _ =>
  .bind
    (.modify fun _ h => .modCore
         (.foldl (.foldl h.count.hbEntry fun _ _ h => h.ctxStateEntry) fun _ _ h => h.halt.decouple)) fun _ =>
  .failTasks

theorem Yields.execHeartbeatExpiry {c s} (h : Inv s) : Yields Inv (execHeartbeatExpiry c s) :=
  .ite (.next h) <| .ite (.next h.setCore) <| .runOp .heartbeatLoss h

theorem Preserves.retireTask {x} : Preserves Inv (retireTask x) :=
  .get fun _ _ => .bind (.modify fun _ h => h.retire) fun _ => by
    split
    · exact .pure
    · exact .bind (.modify fun _ h => h.update) fun _ => .forEach fun _ => .complete

theorem Yields.execContextRetire {x s} (h : Inv s) : Yields Inv (execContextRetire x s) :=
  .ite (.runOp .retireTask h) <| .next h

theorem Yields.execTaskDispatch {d s} (h : Inv s) : Yields Inv (execTaskDispatch d s) :=
  .runOp .dispatchOne h

theorem Yields.messageArrives {n kind s} (h : Inv s) : Yields Inv (messageArrives n kind s) := by
  unfold Machine.messageArrives
  split
  · exact .runOp .runFor h.update
  · exact .next h

theorem Yields.execTaskDecrement {n s} (h : Inv s) : Yields Inv (execTaskDecrement n s) := .messageArrives h

theorem Yields.execTaskCancellation {n s} (h : Inv s) : Yields Inv (execTaskCancellation n s) :=
  .messageArrives h

theorem Yields.execBarrierArrival {pa act s} (h : Inv s) : Yields Inv (execBarrierArrival pa act s) :=
  .ite (.next h) <| by
    split
    · exact .next h.barAct
    · exact .ite (.runOp .faultPost h) <| .next h.barAct

theorem Yields.execFibreQueuePerform {c s} (h : Inv s) : Yields Inv (execFibreQueuePerform c s) := by
  unfold Machine.execFibreQueuePerform
  split
  · exact .next h
  · exact .settle h.select (.leaves .performFibres h.select)

/-! ### The hardpan slot -/

theorem Inv.putParts {s k l} (h : Inv s) : Inv (s.putParts k l) := .foldl h fun _ _ h => h.write

theorem Inv.spillPorts {s k x2} (h : Inv s) : Inv (s.spillPorts k x2) :=
  .foldl h fun _ _ h => .foldl h fun _ _ h => .ite h.write.update h

/-! ### The region scheduler -/

theorem Preserves.enterState {r st} : Preserves Inv (enterState r st) :=
  .bind (.modify fun _ h => h.setRegion) fun _ => .rcbState

theorem Preserves.postEntry {q region} : Preserves Inv (postEntry q region) :=
  .bind (.modify fun _ h => h.update) fun _ => .forEach fun _ => .get fun _ _ => .postRecord

theorem Preserves.grantCores {r cores} : Preserves Inv (grantCores r cores) :=
  .get fun _ h => .bind (.set (.update (.foldl h fun _ _ h => h.modCore))) fun _ =>
  .bind .enterState fun _ => by
    split
    · exact .postEntry
    · exact .pure

theorem Preserves.haltMark {x} : Preserves Inv (haltMark x) :=
  .get fun _ _ => by
    split
    · exact .bind (.tryOp .markHere) fun _ => by
          split
          · exact .pure
          · exact .modify fun _ h => h.park
    · exact .bind (.tryOp .markHere) fun _ => by
          split
          · exact .pure
          · exact .modify fun _ h => h.park
    · exact .bind (.tryOp .markHere) fun _ => by
          split
          · exact .pure
          · exact .modify fun _ h => h.park
    · exact .bind (.tryOp .markHere) fun _ => by
          split
          · exact .pure
          · exact .modify fun _ h => h.park
    · exact .pure

theorem Preserves.preemptPartition {r d} : Preserves Inv (preemptPartition r d) :=
  .get fun _ _ => .forEach fun _ => .bind (.modify fun _ h => h.modCore) fun _ => .forEach fun _ =>
      .haltMark

theorem Yields.execPartitionPreempt {r d s} (h : Inv s) : Yields Inv (execPartitionPreempt r d s) := by
  unfold Machine.execPartitionPreempt
  split
  · exact .ite (.runOp .preemptPartition h) <| .next h
  · exact .next h

theorem Yields.execRegionAdmit {r s} (h : Inv s) : Yields Inv (execRegionAdmit r s) := by
  unfold Machine.execRegionAdmit
  split
  · exact .ite (.next h) <| .ite (.runOp (.bind .nextFree fun _ => .grantCores) h) <|
      .ite
        (by
           split
           · exact .runOp .preemptPartition h
           · exact .next h)
        (.next h)
  · exact .next h

theorem Inv.moveBytes {s to_ lost} (h : Inv s) : Inv (s.moveBytes to_ lost) := by
  have hkeep : Memory.wf (s.mem.filter fun (a, _) => (to_ a).isNone && !lost a) = true := filter_wf h
  exact foldl_fset_wf hkeep

theorem Inv.coreOut {s to_ k} (h : Inv s) : Inv (s.coreOut to_ k) :=
  .foldl
    (.setCore
       (.ite (.ite h <| .foldl h fun _ _ h => h.arrayRead) <| .spillPorts
          (.putParts (.update (.moveBytes (.ite h <| .foldl h fun _ _ h => h.arrayRead)))))) fun _ _ h =>
    h.setCtx

theorem Inv.coreIn {s k} (h : Inv s) : Inv (s.coreIn k) := by
  unfold State.coreIn
  split
  · exact h
  · exact .handIssue (.foldl h.moveBytes.update.setCore fun _ _ h => h.setCtx)

theorem Inv.endCommand {s result} (h : Inv s) : Inv (s.endCommand result) :=
  .ite h.setRegF.setRegF.irq h.setRegF.setRegF

theorem Inv.settleCommand {s} (h : Inv s) : Inv s.settleCommand := .ite h.endCommand h

theorem Preserves.afterOut {r} : Preserves Inv (afterOut r) :=
  .get fun _ _ => by
    dsimp only
    split
    · exact .bind .enterState fun _ => .bind (.modify fun _ h => h.settleCommand) fun _ => .get fun _ _ =>
        .forEach fun _ => .enterState
    · exact .get fun _ _ => .forEach fun _ => .enterState

theorem Preserves.swapOut {r d} : Preserves Inv (swapOut r d) :=
  .get fun _ h => by
    split
    · exact .pure
    · exact .bind (.set (.foldl h fun _ _ h => h.coreOut)) fun _ => .afterOut

theorem Preserves.finishStop {r} : Preserves Inv (finishStop r) :=
  .get fun _ _ => by
    split
    · exact .pure
    · exact .ite .pure <|
        .bind (.modify fun _ h => .foldl h fun _ _ h => .foldl h fun _ _ h => h.modCtx) fun _ =>
        .bind (.forEach fun _ => .get fun _ _ => .ite .pure .swapOut) fun _ => .get fun _ _ => by
          split
          · exact .ite (.bind .enterState fun _ => .modify fun _ h => h.settleCommand) .pure
          · exact .pure

theorem Yields.execPartitionSwapOut {r d s} (h : Inv s) : Yields Inv (execPartitionSwapOut r d s) :=
  .ite (.runOp .swapOut h) <| .runOp .finishStop h

theorem Inv.takeBack {s r k} (h : Inv s) : Inv (s.takeBack r k) := .ite h.coreIn h.modCore

theorem Preserves.swapIn {r d} : Preserves Inv (swapIn r d) :=
  .get fun _ h => .bind (.set (.foldl h fun _ _ h => h.takeBack)) fun _ => .get fun _ _ =>
  .ite .enterState .pure

theorem Yields.execPartitionSwapIn {r d s} (h : Inv s) : Yields Inv (execPartitionSwapIn r d s) := by
  unfold Machine.execPartitionSwapIn
  split
  · exact .ite (.runOp .swapIn h) <| .next h
  · exact .next h

/-! ### Host queues -/

theorem Inv.setCfull {s q} (h : Inv s) : Inv (s.setCfull q) := h.setRegF
theorem Inv.ringDoorbell {s q tail} (h : Inv s) : Inv (s.ringDoorbell q tail) := .ite h.setReg h

theorem Yields.execQtailWrite {q val s} (h : Inv s) : Yields Inv (execQtailWrite q val s) :=
  .next h.ringDoorbell

theorem Yields.execDbell {q tail s} (h : Inv s) : Yields Inv (execDbell q tail s) :=
  .ite (.next h.ringDoorbell) <| .next h

theorem Yields.execCheadWrite {q val s} (h : Inv s) : Yields Inv (execCheadWrite q val s) :=
  .ite (.next h.setReg.setCfull) <| .next h

theorem Preserves.entryAt {q i} : Preserves Inv (entryAt q i) :=
  .get fun _ _ => .bind .devRead fun _ => .pure

theorem Preserves.addEntry {e} : Preserves Inv (addEntry e) := .modify fun _ h => h.update
theorem Inv.modEntry {s id f} (h : Inv s) : Inv (s.modEntry id f) := h.update

theorem Yields.readEntry {q ops act s} (hact : ∀ a0, Preserves Inv (act a0)) (hs : Inv s) :
    Yields Inv (readEntry q ops act s) :=
  .ite (.next hs) <| .runOp
    (.get fun _ _ => .bind .entryAt fun _ =>
     .ite (.bind (.modify fun _ h => h.setReg) fun _ => .bind .addEntry fun _ => hact _) .pure)
    hs

theorem Preserves.faultEntry {e} : Preserves Inv (faultEntry e) := .modify fun _ h => h.modEntry

theorem Preserves.launchEntry {e} : Preserves Inv (launchEntry e) :=
  .get fun _ _ => .bind (.tryOp .readVirt) fun _ => by
    split
    · exact .bind .faultPost fun _ => .modify fun _ h => h.modEntry
    · exact .get fun _ _ => by
          split
          · exact .faultEntry
          · exact .bind (.modify fun _ h => h.modEntry.update) fun _ => .rcbState

theorem Yields.execLaunch {q s} (h : Inv s) : Yields Inv (execLaunch q s) :=
  .readEntry (fun _ => .ite .faultEntry .launchEntry) h

theorem Preserves.postInto {e} : Preserves Inv (postInto e) :=
  .get fun _ _ => by
    split
    · exact .bind (.modify fun _ h => h.modEntry) fun _ => .postEntry
    · exact .faultEntry

theorem Yields.execPost {q s} (h : Inv s) : Yields Inv (execPost q s) := .readEntry (fun _ => .postInto) h
theorem Yields.execMarker {q s} (h : Inv s) : Yields Inv (execMarker q s) := .readEntry (fun _ => .pure) h

theorem Yields.execQueueEntryBadOp {q s} (h : Inv s) : Yields Inv (execQueueEntryBadOp q s) :=
  .readEntry (fun _ => .faultEntry) h

theorem Inv.completionIrq {s e} (h : Inv s) : Inv (s.completionIrq e) :=
  .ite (.ite h.update.irq h.update) h.update

theorem Inv.settleQueue {s q} (h : Inv s) : Inv (s.settleQueue q) := .ite h.setRegF.setRegF.setReg h

theorem Preserves.completeEntry {e} : Preserves Inv (completeEntry e) :=
  .get fun _ _ => .bind .devWrite fun _ => .modify fun _ h => .settleQueue
      (h.setReg.setCfull.update.completionIrq)

theorem Yields.execQueueCompletion {n s} (h : Inv s) : Yields Inv (execQueueCompletion n s) := by
  unfold Machine.execQueueCompletion
  split
  · exact .next h
  · exact .ite (.next h) <| .runOp
        (by
           dsimp only
           split
           · exact .ite .completeEntry <| .bind .releaseRegion fun _ => .completeEntry
           · exact .completeEntry)
        h

theorem Preserves.queueDown {q reset} : Preserves Inv (queueDown q reset) :=
  .get fun _ h => .bind (.set h.setRegF) fun _ =>
  .bind (.forEach fun _ => .bind .entryAt fun _ => .addEntry) fun _ =>
  .bind (.modify fun _ h => h.setReg) fun _ => .bind (.modify fun _ h => h.update) fun _ => .get fun _ _ =>
  .bind (.forEach fun _ => .teardown) fun _ => .modify fun _ h => h.settleQueue

theorem Yields.queueCommand {q reset s} (h : Inv s) : Yields Inv (queueCommand q reset s) :=
  .ite (.runOp .queueDown h) <| .next h

theorem Yields.execQctlTeardown {q s} (h : Inv s) : Yields Inv (execQctlTeardown q s) := .queueCommand h
theorem Yields.execQctlReset {q s} (h : Inv s) : Yields Inv (execQctlReset q s) := .queueCommand h

/-! ### Region commands -/

theorem Yields.regionCommand {required op s} (hop : ∀ a0, Preserves Inv (op a0)) (hs : Inv s) :
    Yields Inv (regionCommand required op s) :=
  .ite (.next hs) <| by
    split
    · exact .next hs.endCommand
    · exact .ite (.runOp (hop _) hs.setRegF) <| .next hs.endCommand

theorem Preserves.suspendRegion {r} : Preserves Inv (suspendRegion r) :=
  .bind (.modify fun _ h => h.setRegion) fun _ => .bind (.forEach fun _ => .preemptPartition) fun _ =>
  .get fun _ _ => .ite .enterState .pure

theorem Yields.execSuspend {s} (h : Inv s) : Yields Inv (execSuspend s) :=
  .regionCommand
    (fun _ => .get fun _ _ => .bind (.forEach fun _ => .suspendRegion) fun _ => .modify fun _ h =>
       h.settleCommand)
    h

theorem Preserves.unsuspendRegion {r} : Preserves Inv (unsuspendRegion r) := .get fun _ _ => .enterState

theorem Yields.execUnsuspend {s} (h : Inv s) : Yields Inv (execUnsuspend s) :=
  .regionCommand
    (fun _ => .get fun _ _ => .bind (.forEach fun _ => .unsuspendRegion) fun _ => .modify fun _ h =>
       h.settleCommand)
    h

theorem Yields.execStopmark {s} (h : Inv s) : Yields Inv (execStopmark s) :=
  .regionCommand
    (fun _ => .get fun _ _ => .bind (.forEach fun _ => .modify fun _ h => h.setRegion) fun _ =>
     .forEach fun _ => .finishStop)
    h

theorem Preserves.stopContext {x} : Preserves Inv (stopContext x) :=
  .bind .markHere fun _ => .bind (.modify fun _ h => h.modCtx.leave) fun _ => .get fun _ _ => .finishStop

theorem Yields.execStopmarkContextStop {x s} (h : Inv s) : Yields Inv (execStopmarkContextStop x s) := by
  refine .ite (.next h) ?_
  have hp := prepared_prepare (x := x) h
  split
  · next e => rwa [e] at hp
  · next e =>
    rw [e] at hp
    exact .ite (.settle hp (.leaves .stopContext hp)) (.next hp)

theorem Yields.execSave {s} (h : Inv s) : Yields Inv (execSave s) :=
  .regionCommand (fun _ => .get fun _ h => by
        dsimp only
        split
        · exact .modify fun _ h => h.endCommand
        · exact .ite (.modify fun _ h => h.endCommand) <| .bind (.set h.write) fun _ => .modify fun _ h =>
              h.settleCommand) h

theorem Preserves.adoptTask {r x c} : Preserves Inv (adoptTask r x c) :=
  .get fun _ _ => .ite .pure <| .bind (.tryOp .recRead) fun _ => .modify fun _ h => h.update

theorem Yields.execRestore {s} (h : Inv s) : Yields Inv (execRestore s) :=
  .regionCommand (fun _ => .get fun _ _ => by
        dsimp only
        split
        · exact .modify fun _ h => h.endCommand
        · exact .bind
              (.forEach fun _ =>
                 .bind (.modify fun _ h => .update (.foldl h.moveBytes fun _ _ h => h.write)) fun _ =>
                 .forEach fun _ => .adoptTask) fun _ =>
            .modify fun _ h => h.settleCommand) h

/-! ### The host and the host link -/

theorem Inv.linkEvent {s n} (h : Inv s) : Inv (s.linkEvent n) := .ite h.strataAdd h

theorem Yields.execUnknownMessageType {type s} (h : Inv s) : Yields Inv (execUnknownMessageType type s) :=
  .ite (.next h) <| .next h.linkEvent

theorem Yields.execLinkModuleDisable {n s} (h : Inv s) : Yields Inv (execLinkModuleDisable n s) :=
  .ite (.next h.update.linkEvent) <| .next h

theorem Yields.execFlitCrcFailure {d s} (h : Inv s) : Yields Inv (execFlitCrcFailure d s) :=
  .ite (.next h.count) <| .next h

theorem Inv.noteTable {s pa n} (h : Inv s) : Inv (s.noteTable pa n) := h.update

theorem Yields.execMwr {addr data s} (h : Inv s) : Yields Inv (execMwr addr data s) :=
  .ite (.next h.linkEvent) <| .ite (.next h.linkEvent) <| .runOp
    (.forEach fun ⟨_, _⟩ => .get fun _ h => by
         split
         · exact .set h.noteTable.write
         · exact .physRefused)
    h

theorem Preserves.hostRead {a m} : Preserves Inv (hostRead a m) :=
  .get fun _ h => by
    split
    · exact .bind (.set h.eccRead) fun _ => .pure
    · exact .bind .physRefused fun _ => .freeBytes

theorem Yields.execMrd {addr len tag s} (h : Inv s) : Yields Inv (execMrd addr len tag s) :=
  .ite (.next h.linkEvent) <| .ite (.next h.linkEvent) <| .runOp
    (.bind (.mapEach fun _ => .hostRead) fun _ => .modify fun _ h => h.send)
    h

theorem Inv.setQerr {s off} (h : Inv s) : Inv (s.setQerr off) := .ite h.setRegF h

theorem Yields.execRegisterWrite {off val s} (h : Inv s) : Yields Inv (execRegisterWrite off val s) :=
  .ite (.next h) <| .next h.setReg.setQerr.update

theorem Inv.answer {s off tag} (h : Inv s) : Inv (s.answer off tag) := h.send
theorem Yields.execFrovfRead {tag s} (h : Inv s) : Yields Inv (execFrovfRead tag s) := .next h.answer.setReg

theorem Yields.execExtctlErrRead {tag s} (h : Inv s) : Yields Inv (execExtctlErrRead tag s) :=
  .next h.answer.setRegF

theorem Yields.registerRead {off tag s} (h : Inv s) : Yields Inv (registerRead off tag s) :=
  .ite (.execFrovfRead h) <| .ite (.execExtctlErrRead h) <| .ite (.next h.answer) <| .next h

theorem Inv.resumeCtx {s x} (h : Inv s) : Inv (s.resumeCtx x) := by
  unfold State.resumeCtx
  dsimp only
  split
  · exact .ite h.makeReady h
  · exact .ite (.update (.ite h.makeReady h)) <| .ite h.makeReady h

theorem Inv.resumeCopiesOf {s k p} (h : Inv s) : Inv (s.resumeCopiesOf k p) := by
  unfold State.resumeCopiesOf
  dsimp only
  split
  · exact .ite h.modCore h
  · exact .update (.ite h.modCore h)

theorem Yields.execResumeContext {val s} (h : Inv s) : Yields Inv (execResumeContext val s) :=
  .ite (.next h) <| .next h.resumeCtx

theorem Yields.execResumeCopy {val s} (h : Inv s) : Yields Inv (execResumeCopy val s) :=
  .ite (.next h) <| .next h.resumeCopiesOf

theorem Preserves.retryHeld {d} : Preserves Inv (retryHeld d) :=
  .get fun _ h => .bind (.set h.update) fun _ => .bind (.forEach fun _ => .runSteps) fun _ => .failPosted

theorem Preserves.retryLaunches : Preserves Inv retryLaunches :=
  .get fun _ _ => .forEach fun _ => .launchEntry

theorem Yields.execResumeAll {val s} (h : Inv s) : Yields Inv (execResumeAll val s) :=
  .ite (.next h) <| .runOp (.bind .retryHeld fun _ => .ite .retryLaunches .pure)
    (.foldl (.foldl h fun _ _ h => h.resumeCtx) fun _ _ h => h.resumeCopiesOf)

theorem Inv.dropLines {s p} (h : Inv s) : Inv (s.dropLines p) := h.update
theorem Inv.dropTlb {s d p} (h : Inv s) : Inv (s.dropTlb d p) := h.modDie

theorem Yields.invalidate {d mode val act s} (hact : ∀ a0, Inv a0 → Inv (act a0)) (hs : Inv s) :
    Yields Inv (invalidate d mode val act s) := .ite (.next hs) <| .next (hact _ hs.setReg)

theorem Yields.execTlbinvPage {d val s} (h : Inv s) : Yields Inv (execTlbinvPage d val s) :=
  .invalidate (fun _ h => h.dropTlb.dropLines) h

theorem Yields.execTlbinvAsid {d val s} (h : Inv s) : Yields Inv (execTlbinvAsid d val s) :=
  .invalidate (fun _ h => h.dropTlb.dropLines) h

theorem Yields.execTlbinvAll {d val s} (h : Inv s) : Yields Inv (execTlbinvAll d val s) :=
  .invalidate (fun _ h => h.dropTlb.dropLines) h

theorem Yields.execTlbinvDone {d s} (h : Inv s) : Yields Inv (execTlbinvDone d s) :=
  .ite (.next h.setRegF) <| .next h

theorem Inv.ldtDrop {s p} (h : Inv s) : Inv (s.ldtDrop p) := h.update

theorem Yields.execLdtctlDrop {ldie s} (h : Inv s) : Yields Inv (execLdtctlDrop ldie s) :=
  .ite (.next h) <| .next h.setReg.ldtDrop

theorem Yields.execLdtctlDropAll {s} (h : Inv s) : Yields Inv (execLdtctlDropAll s) :=
  .ite (.next h) <| .next h.setReg.ldtDrop

theorem Yields.execLdtctlDone {s} (h : Inv s) : Yields Inv (execLdtctlDone s) :=
  .ite (.next h) <| .next (.update (.foldl h.setRegF fun _ _ h => .ite h.strataAdd h))

/-! ### Boot and power -/

theorem Inv.mrExtend {s i digest} (h : Inv s) : Inv (s.mrExtend i digest) := .foldl h fun _ _ h => h.setReg
theorem Inv.askExtend {s i d} (h : Inv s) : Inv (s.askExtend i d) := .ite h.setRegF.update h.mrExtend

theorem Yields.execExtend {i s} (h : Inv s) : Yields Inv (execExtend i s) :=
  .ite (.next h) <| .ite (.next h.setRegF.setRegF) <| .next h.setRegF.askExtend

theorem Yields.firmwareExtend {i digest s} (h : Inv s) : Yields Inv (firmwareExtend i digest s) :=
  .ite (.next h.askExtend) <| .next h

theorem Yields.execHeldExtend {s} (h : Inv s) : Yields Inv (execHeldExtend s) := by
  unfold Machine.execHeldExtend
  split
  · exact .next h
  · exact .ite (.next h) <| .next (.ite h.mrExtend.update.setRegF h.mrExtend.update)

theorem Yields.reportWritten {s} (h : Inv s) : Yields Inv (reportWritten s) := by
  unfold Machine.reportWritten
  split
  · exact .next h
  · exact .runOp
        (.bind .devWrite fun _ => .bind (.modify fun _ h => h.setRegF.update) fun _ =>
         .ite (.modify fun _ h => h.irq) .pure)
        h

theorem Inv.setBoot {s st} (h : Inv s) : Inv (s.setBoot st) := h.setRegF

theorem Preserves.selfTest {d} : Preserves Inv (selfTest d) :=
  .bind .nextFree fun _ => .modify fun _ h => h.setReg

theorem Preserves.romBoot : Preserves Inv romBoot :=
  .bind (.forEach fun _ => .selfTest) fun _ => .modify fun _ h => .strataAdd
      (.update (.ite h.setBoot h.setBoot))

theorem Inv.unpowered {s : State} : Inv s.unpowered := rfl

theorem Yields.execPowerOn {s} (h : Inv s) : Yields Inv (execPowerOn s) :=
  .ite (.runOp .romBoot (.update .unpowered)) <| .ite (.runOp .romBoot h) <| .next h

theorem Yields.execPowerRemoval {s} : Yields Inv (execPowerRemoval s) := .next .unpowered
theorem Inv.coresReset {s} (h : Inv s) : Inv s.coresReset := h.update

theorem Yields.execWarmReset {s} (h : Inv s) : Yields Inv (execWarmReset s) :=
  .ite (.runOp .romBoot h.coresReset) <| .next h

theorem Inv.dieOff {s d} (h : Inv s) : Inv (s.dieOff d) := filter_wf h

theorem Inv.firmwareStart {s} (h : Inv s) : Inv s.firmwareStart :=
  .setBoot (.foldl h fun _ _ h => .ite h.setReg.setReg <| .ite h h.dieOff.setReg)

theorem Yields.execBootctlGo {s} (h : Inv s) : Yields Inv (execBootctlGo s) :=
  .ite (.next h) <| .ite (.next h.setRegF.setBoot) <| .ite (.next h.setRegF.setBoot.mrExtend.setBoot) <|
  .next h.setRegF.setBoot.mrExtend.mrExtend.setBoot.firmwareStart

theorem Yields.execThrottleUpdate {level reason s} (h : Inv s) :
    Yields Inv (execThrottleUpdate level reason s) := .ite (.next h.setRegF.setRegF) <| .next h

theorem Yields.execDiePowerDown {d s} (h : Inv s) : Yields Inv (execDiePowerDown d s) :=
  .ite (.next h.dieOff.setReg.setReg) <| .next h

theorem Inv.dieFresh {s d} (h : Inv s) : Inv (s.dieFresh d) := h.modDie.dieOff

theorem Yields.execDiePowerUp {d s} (h : Inv s) : Yields Inv (execDiePowerUp d s) :=
  .ite
    (.runOp
       (.bind (.set h.dieFresh.setReg) fun _ => .bind .selfTest fun _ => .modify fun _ h => .ite h h.setReg)
       h)
    (.next h)

theorem Yields.execCorePowerGating {c s} (h : Inv s) : Yields Inv (execCorePowerGating c s) :=
  .ite (.next (.foldl h.moveBytes.update.setCore fun _ _ h => h.setCtx)) <| .next h

theorem Preserves.dumpTo {buf} : Preserves Inv (dumpTo buf) := .get fun _ _ => .forEach fun _ => .devWrite

theorem Yields.execStrataDump {s} (h : Inv s) : Yields Inv (execStrataDump s) :=
  .ite (.runOp .dumpTo h) <| .next h

theorem Yields.execTelclr {s} (h : Inv s) : Yields Inv (execTelclr s) := .next h.update

theorem Preserves.fatalSave : Preserves Inv fatalSave :=
  .get fun _ _ => .iteThen .dumpTo fun _ => .iteThen .dumpTo fun _ => .ite (.modify fun _ h => h.irq) .pure

theorem Yields.upset {w double s} (h : Inv s) : Yields Inv (upset w double s) :=
  .ite (.next h) <| .ite (.next h.update) <| .next h.update

theorem Yields.arrayUpset {row double s} (h : Inv s) : Yields Inv (arrayUpset row double s) :=
  .ite (.next h.update) <| .next h

theorem Yields.mcoreEcc {d s} (h : Inv s) : Yields Inv (mcoreEcc d s) :=
  .ite (.next h) <| .runOp
    (.bind .nextFree fun _ => .bind (.modify fun _ h => h.count.strataAdd) fun _ => .fatalSave)
    h

theorem Yields.mcoreHalt {d s} (h : Inv s) : Yields Inv (mcoreHalt d s) := .ite (.next h.setReg) <| .next h

theorem Inv.modHard {s k f} (h : Inv s) : Inv (s.modHard k f) := by
  unfold State.modHard
  split
  · exact h
  · exact h.update

theorem Preserves.parkWaiters {d} : Preserves Inv (parkWaiters d) :=
  .get fun _ _ =>
  .bind
    (.forEach fun ⟨_, _⟩ => by
         dsimp only
         split
         · exact .pure
         · exact .modify fun _ h => h.park) fun _ =>
  .forEach fun ⟨_, _⟩ => .forEach fun ⟨_, _⟩ => by
        dsimp only
        split
        · exact .pure
        · exact .bind (.modify fun _ h => h.modHard) fun _ => .faultPost

theorem Preserves.abortDie {d} : Preserves Inv (abortDie d) :=
  .get fun _ _ => .bind (.modify fun _ h => h.update) fun _ => .completeAll

theorem Yields.execDieLoss {d s} (h : Inv s) : Yields Inv (execDieLoss d s) :=
  .ite
    (.runOp
       (.bind (.modify fun _ h => h.modDie) fun _ => .bind .parkWaiters fun _ => .bind .abortDie fun _ =>
        .bind (.modify fun _ h => h.strataAdd) fun _ => .fatalSave)
       h)
    (.next h)

/-! ### Every event of the agenda -/

theorem Yields.runEvent {e s} (h : Inv s) : Yields Inv (runEvent e s) := by
  unfold Machine.runEvent
  split
  · exact .execBundleIssue h
  · exact .execBlockRelease h
  · exact .execGateTimeoutMark h
  · exact .execLoadArrival h
  · exact .execAccessRefusal h
  · exact .execDeferredTrap h
  · exact .execHeartbeatExpiry h
  · exact .execContextRetire h
  · exact .execTaskDispatch h
  · exact .execTaskDecrement h
  · exact .execTaskCancellation h
  · exact .execRegionAdmit h
  · exact .execPartitionPreempt h
  · exact .execPartitionSwapOut h
  · exact .execPartitionSwapIn h
  · exact .execBarrierArrival h
  · exact .execMCommandPerform h
  · exact .execMmaRetirement h
  · exact .execTCommandPerform h
  · exact .execFibreQueuePerform h
  · exact .execCopyChunkWritten h
  · exact .execCringRoom h
  · exact .execPublishExchange h
  · exact .execUpdGateOpen h
  · exact .execPowerOn h
  · exact .execPowerRemoval
  · exact .execBootctlGo h
  · exact .execWarmReset h
  · exact .execExtend h
  · exact .execHeldExtend h
  · exact .ite (.next h) <| .next
        (.update (.setRegF (.ite h <| .update (.setRegF (.foldl h fun _ _ h => h.mrExtend)))))
  · exact .execExtctlErrRead h
  · exact .execThrottleUpdate h
  · exact .execMwr h
  · exact .execMrd h
  · exact .execDbell h
  · exact .execUnknownMessageType h
  · exact .execLinkModuleDisable h
  · exact .execFlitCrcFailure h
  · exact .execRegisterWrite h
  · exact .execQtailWrite h
  · exact .execLaunch h
  · exact .execPost h
  · exact .execMarker h
  · exact .execQueueEntryBadOp h
  · exact .execQueueCompletion h
  · exact .execQctlTeardown h
  · exact .execQctlReset h
  · exact .execFrovfRead h
  · exact .execResumeContext h
  · exact .execResumeCopy h
  · exact .execResumeAll h
  · exact .execTlbinvPage h
  · exact .execTlbinvAsid h
  · exact .execTlbinvAll h
  · exact .execTlbinvDone h
  · exact .execSuspend h
  · exact .execUnsuspend h
  · exact .execStopmark h
  · exact .execStopmarkContextStop h
  · exact .execSave h
  · exact .execRestore h
  · exact .execLdtctlDrop h
  · exact .execLdtctlDropAll h
  · exact .execLdtctlDone h
  · exact .execDiePowerUp h
  · exact .execDiePowerDown h
  · exact .execStrataDump h
  · exact .execTelclr h
  · exact .execDieLoss h
  · exact .execCheadWrite h
  · exact .execCorePowerGating h
  · exact .registerRead h
  · exact .reportWritten h
  · exact .firmwareExtend h
  · exact .mcoreEcc h
  · exact .mcoreHalt h
  · exact .upset h
  · exact .arrayUpset h

/-! ### The step -/

theorem Inv.tick {s} (h : Inv s) : Inv s.tick :=
  .ite h.update <| .foldl h.update.update fun _ _ h => .ite h.setReg h

theorem Yields.stepNext {s} (h : Inv s) : Yields Inv (stepNext s) := by
  unfold Machine.stepNext
  split
  · exact .onNext (.runEvent h.update) fun _ h => .next h.tick
  · split
    · exact .onNext (.runEvent h) fun _ h => .next h.tick
    · exact .next h.tick

theorem Yields.step {s} (h : Inv s) : Yields Inv (step s) := .stepNext h

end Sys2Proof.Safety

open Sys2Proof.Safety Sys2Proof.Rules

/-- Settles O57: a step is the next event and the passing of its cycles, and every event's meaning is made of functions that keep
memory in form. -/
theorem stepKeepsMemoryForm : Obligations.StepKeepsMemoryForm := fun _ t h e => Yields.step h t e

end
